-- ==== Sys2Proof/Word.lean ====
section
/-! DEFINITION. The word types of the Dvorzor 9: a byte, the 32-bit item register, the 64-bit scalar and
the 80-bit accumulator element (spec/02 R28, spec/03 R59). -/

namespace Sys2Proof

/-- One byte of any address space. -/
abbrev Byte := BitVec 8

/-- An item register (R66). -/
abbrev W32 := BitVec 32

/-- A scalar, an address, an operand value (R9). -/
abbrev W64 := BitVec 64

/-- An accumulator element (R59). -/
abbrev A80 := BitVec 80

end Sys2Proof
end

