-- ==== Sys2Proof/Config.lean ====
section
/-! DEFINITION. What the manual leaves open: the free values. Each is an opaque constant applied to a
counter of the state, so no proof can see a value of it (notes/assumptions/2.md). -/

namespace Sys2Proof

/-- A free 64-bit value: an undefined result (R208), or any value the spec does not give. -/
opaque Config.freeWord : Nat → W64

/-- A free choice between two outcomes that the spec both allows (R73 item 2, R244). -/
opaque Config.freeBool : Nat → Bool

/-- A free number of core cycles: the spec fixes issue cycles (R80) but not waiting time (R157 CYCLE). -/
opaque Config.freeCycles : Nat → Nat

/-- A free byte: the contents of a checkpoint image section, whose layout the spec leaves open (R292), or of a tile that an
MSTO stores, before the wait for it (R208 item 3). -/
opaque Config.freeByte : Nat → Byte

/-- The bytes of the parts of a checkpoint image whose layout the spec leaves open (R289, R292), by part. -/
opaque Config.imageSize : Nat → Nat

/-- How many stamped records the version overflow area of a die holds: the spec gives its 32 MiB (R238) but not the size
of a record in it. -/
opaque Config.overflowRecords : Nat

/-- How many join counters and lock waiters the join and wait region of a die holds: the spec gives its 16 MiB (R238) but
not the size of an entry in it. -/
opaque Config.waitEntries : Nat

/-- The bytes of such an entry in a VF's save pool (R239). -/
opaque Config.waitBytes : Nat

/-- The hash that chooses among the ports of a route (R329), of source, destination and tag. -/
opaque Config.routeHash : Nat → Nat → Nat → Nat

/-- The hash that spreads the lines of a failed slice over the others of its die (R258). -/
opaque Config.sliceHash : Nat → Nat

/-- A free 80-bit accumulator element: an undefined element value of R208. -/
opaque Config.freeElem : Nat → A80

end Sys2Proof
end

