-- ==== Sys2Proof/Syntax.lean ====
section
/-! DEFINITION. The syntax: one constructor of `Instr` for each row of spec/opcode_table.json. The first
124 are the instructions of R42, holding the decoded fields of their word (R23 to R34); the other 100 are
the machine's own steps and the inputs of its surroundings, holding the data that come with them. -/

namespace Sys2Proof

/-- The 16 type codes, in the order of R31. -/
inductive Ty where
  | b32 | s32 | n32 | f32 | b64 | s64 | n64 | f64 | f16 | bf16 | e4m3 | e5m2 | nx4 | s16 | n16 | b8
  deriving DecidableEq, Repr

/-- The special operands, in the order of their codes 0x180 to 0x189 (R30). -/
inductive Special where
  | ix | lane | n | w | core | clu | die | pkg | job | lc
  deriving DecidableEq, Repr

/-- A decoded operand code (R28). The literal carries the value of its literal word (R26). -/
inductive Opnd where
  | v (r : BitVec 8)
  | s (r : BitVec 6)
  | p (r : BitVec 3)
  | q (r : BitVec 2)
  | k (r : BitVec 3)
  | b (r : BitVec 2)
  | a (r : BitVec 4)
  | ac (r : BitVec 4)
  | sp (x : Special)
  | lit (x : W64)
  | zero
  | imm (x : BitVec 11)
  deriving DecidableEq, Repr

/-- The hint field (R24), less LIT, which stands in operand B. -/
structure Hints where
  setk : BitVec 3
  se : Bool
  waitm : BitVec 8
  holda : Bool
  holdb : Bool
  rd : BitVec 3
  stall : BitVec 4
  yld : Bool
  deriving DecidableEq, Repr

/-- The guard (R8, R23): predicate number and negation. -/
structure Guard where
  neg : Bool
  p : BitVec 3
  deriving DecidableEq, Repr

/-- The fields of an instruction word (R23). An unused operand field holds code 0x000, `Opnd.v 0`. -/
structure Fields where
  var : BitVec 4
  ty : Ty
  g : Guard
  mod : BitVec 8
  d : Opnd
  a : Opnd
  b : Opnd
  x : BitVec 8
  h : Hints
  deriving DecidableEq, Repr

/-- The fields of BRA, CALL, REFILL and SPANQ, whose bits 63:40 hold a word offset (R34). -/
structure OffFields where
  g : Guard
  d : Opnd
  off : BitVec 24
  h : Hints
  deriving DecidableEq, Repr

/-- A level that combines barrier arrivals (R191) or holds group-send readiness (R333). `fabric` is
every switch tier and every other package. -/
inductive Level where
  | core | cluster | die | pkg | fabric
  deriving DecidableEq, Repr

/-- A group-send key (R333). -/
structure Key where
  job : Nat
  group : Nat
  chan : Nat
  deriving DecidableEq, Repr

/-- A barrier arrival message (R191): the level it reaches, the place there, the launch (or, from another
package, that launch's node and number), and the arriving items as disjoint intervals. -/
structure BarrierMsg where
  level : Level
  place : Nat
  node : Nat
  launchId : Nat
  job : Nat
  group : Nat
  gen : Nat
  items : List (Nat × Nat)
  /-- From another package: every member of that launch below its item count has arrived. -/
  complete : Bool
  deriving DecidableEq, Repr

/-- A group-send message that descends into this package (R336): its key, SEQ, words, the sender's node, global core
number, VF and process, and its bounces so far. -/
structure InMsg where
  key : Key
  seq : Bool
  words : List W32
  node : Nat
  core : Nat
  vf : Nat
  proc : Nat
  bounces : Nat
  deriving DecidableEq, Repr

/-- A tile's measured energy and idle estimate of the window, in EU (R256). -/
structure TileMeas where
  tile : Nat
  energy : Nat
  idle : Nat
  deriving DecidableEq, Repr

/-- A block that the self-test covers (R258). Clusters are numbered 0 to 127 over the package. -/
inductive Block where
  | core (clu k : Nat)
  /-- The banks of a core's unified store. -/
  | store (clu k : Nat)
  | control (clu : Nat)
  | engine (clu : Nat)
  | l2 (die slice : Nat)
  | bank (die group : Nat)
  | copy (die e : Nat)
  deriving DecidableEq, Repr

/-- A stamped record on its way to its home (R312, R317), with the local operation that waits for its
status (0 for a record of another package). -/
structure StsRec where
  pa : Nat
  stamp : Nat
  node : Nat
  g : Nat
  size : Nat
  data : W64
  op : Nat
  deriving DecidableEq, Repr

/-- A flit as it comes off the lanes (R323, R324): its 256 bytes, whether the code could correct every beat, and whether its
tag authenticates it. -/
structure RawFlit where
  bytes : List Byte
  correctable : Bool
  tagOk : Bool
  deriving DecidableEq, Repr

/-- The fields of a flit (R323). -/
structure Flit where
  type : Nat
  vc : Nat
  keyIdx : Bool
  dst : Nat
  src : Nat
  len : Nat
  ctr : Nat
  payload : List Byte
  tag : List Byte
  reservedZero : Bool
  deriving DecidableEq, Repr

/-- The delivery modes of a packet (R343). -/
inductive Delivery where
  | reliableUnordered | reliableOrdered | unreliable | idempotent
  deriving DecidableEq, Repr

/-- How a packet of the host reaches the package (R343): the VF whose endpoint it addresses, its delivery mode, and the key
that secures it, if one does. -/
structure Via where
  vf : Nat
  delivery : Delivery
  key : Option (BitVec 256)
  deriving DecidableEq, Repr

/-- What a remote transaction asks of this home (R329, R330). -/
inductive RemoteKind where
  | read (n : Nat)
  | write (bytes : List Byte)
  | atom (op : Nat) (ty : Ty) (val : W64)
  | cas (ty : Ty) (cmp swap : W64)
  | sts (rec : StsRec)
  | ldat (t size : Nat)
  | dir
  | crng (var n : Nat)
  /-- A lock request, or a release of a lock, on the word at the address (R245, R268). -/
  | lock (write : Bool)
  | unlock (write : Bool)
  /-- Dirty bytes of a line: of a release, or of an eviction (R331). -/
  | writeBack (bytes : List (Option Byte)) (evict : Bool)
  /-- A group-send message that comes down to this package (R286, R336). -/
  | send (x : InMsg)
  /-- A request for the ownership of a piece of a read-duplicate page (R332). -/
  | owner (page piece : Nat)
  deriving DecidableEq, Repr

/-- A transaction that another node sends to this home (R330). -/
structure RemoteReq where
  node : Nat
  tag : Nat
  vf : Nat
  pa : Nat
  kind : RemoteKind
  deriving DecidableEq, Repr

/-- The sender of a write-back or of an ownership request: its node, its tag, and the VF whose work it is (R331, R332). -/
structure Sender where
  node : Nat
  tag : Nat
  vf : Nat
  deriving DecidableEq, Repr

/-- A transaction that is not answered: it is resent, or a HOLD came for it (R330). -/
structure Resend where
  tag : Nat
  hold : Bool
  deriving DecidableEq, Repr

/-- A node that is taken for failed, and whether a switch reports it (R330). -/
structure NodeReport where
  node : Nat
  reported : Bool
  deriving DecidableEq, Repr

/-- A new firmware image (R295): whether it verifies, and whether its write to flash is complete. -/
structure NewImage where
  ok : Bool
  written : Bool
  deriving DecidableEq, Repr

/-- One CXL range (R280): base and size in bytes within the CXL window, port list, granularity exponent. -/
structure CxlRange where
  base : Nat
  size : Nat
  ports : List Nat
  gran : Nat
  deriving DecidableEq, Repr

/-- Management registers and configuration that the host, the management process or the service core
writes and that have no row of their own (R250, R329, R330, R332, R336, R344). -/
inductive MgmtReg where
  | clearFailed (node : Nat)
  | root (vf proc pa : Nat)
  | window (vf index proc : Nat) (base : W64) (len : Nat) (read write : Bool)
  | ring (vf : Nat) (addr : W64) (log : Nat)
  | route (node : Nat) (ports : List Nat)
  | replicas (page : Nat) (nodes : List Nat)
  | tier (present : Bool)
  | dmin (port value : Nat)
  | firmware (node mulim mwin mret : Nat) (ref : Bool) (uref : Nat)
  /-- The key that secures a VF's traffic (R343). -/
  | security (vf : Nat) (key : BitVec 256)
  /-- A read of a port's status register (R328). -/
  | linkstat (port : Nat)
  /-- A read of a Meridian register (R307). -/
  | meridian (reg : Nat)
  /-- The service core orders a port to its staged key (R326). -/
  | keySwitch (port : Nat)
  deriving DecidableEq, Repr

/-- The head that the host writes of a VF's notification ring (R344). -/
structure RingHead where
  vf : Nat
  head : Nat
  deriving DecidableEq, Repr

/-- An access to a management register: a packet of the host to the management endpoint, or one of the service core itself
(R343). -/
structure MgmtWrite where
  via : Option Via
  reg : MgmtReg
  deriving DecidableEq, Repr

/-- Every row of spec/opcode_table.json. -/
inductive Instr where
  /-- NOP (R153). Does nothing except advance the PC. -/
  | nop (f : Fields)
  /-- BRA (R149). Branches the context, or the lanes whose guard is true, to a word offset, cutting or scattering as the
  guard form requires. -/
  | bra (f : OffFields)
  /-- BRX (R150). Branches each active item to code base plus 12 times a register value. -/
  | brx (f : Fields)
  /-- CALL (R151). Pushes a return entry with the mask of the calling lanes and branches those lanes; traps ILLEGAL when
  the return stack is full. -/
  | call (f : OffFields)
  /-- RET (R151). Returns each present lane to its topmost return entry and pops empty entries. -/
  | ret (f : Fields)
  /-- EXIT (R152). Ends the executing items, idling their lanes and counting them as arrived at every barrier. -/
  | exit (f : Fields)
  /-- YIELD (R153). Gives up the context's active slot after issue. -/
  | yield (f : Fields)
  /-- REP (R154). Repeats the next L instructions n times, setting %lc and the accumulator ring for each pass. -/
  | rep (f : Fields)
  /-- TRAP (R155). Raises the BRK trap class with a code in DETAIL. -/
  | trap (f : Fields)
  /-- BRK (R155). Raises the BRK trap class with DETAIL 0. -/
  | brk (f : Fields)
  /-- RTE (R156). Ends a trap handler, restoring lane PCs and barrier masks and replaying, resuming or killing lanes or
  span items. -/
  | rte (f : Fields)
  /-- MFSR (R158). Reads a context register into a scalar. -/
  | mfsr (f : Fields)
  /-- MTSR (R158). Writes CTXTAG from a uniform source. -/
  | mtsr (f : Fields)
  /-- WAITK (R159). Waits until all, or with .any one, of the named tokens are idle. -/
  | waitk (f : Fields)
  /-- SPLIT (R160). Cuts or materialises a compact span as a guard on the predicate would. -/
  | split (f : Fields)
  /-- JOIN (R161). Merges a compact span with adjacent eligible spans, waiting up to 512 cycles. -/
  | join (f : Fields)
  /-- REFILL (R162). Moves the lowest indices of an eligible feeder span into the strand's idle lanes. -/
  | refill (f : OffFields)
  /-- BMARK (R163). Sets a reconvergence barrier to a local lane mask or a linked join counter. -/
  | bmark (f : Fields)
  /-- RJOIN (R129). Arrives at a reconvergence barrier and waits for its release, trapping when it cannot complete. -/
  | rjoin (f : Fields)
  /-- SPANQ (R164). Writes the total item count of eligible feeders at a target address. -/
  | spanq (f : OffFields)
  /-- RGROW (R165). Reserves store for n strand windows, reporting GRANTED, TOOBIG or NOTSPAN. -/
  | rgrow (f : Fields)
  /-- FORM (R166). Materialises a register or compacts it to affine or uniform form. -/
  | form (f : Fields)
  /-- IADD (R82). Integer addition modulo 2^w. -/
  | iadd (f : Fields)
  /-- ISUB (R82). Integer subtraction modulo 2^w. -/
  | isub (f : Fields)
  /-- IMUL (R83). Integer multiplication, low or high half. -/
  | imul (f : Fields)
  /-- IMAD (R83). Integer multiply-add with a third item-register source. -/
  | imad (f : Fields)
  /-- IDIV (R84). Integer division truncating towards zero, with fixed results for zero divisors, cutting spans by R85. -/
  | idiv (f : Fields)
  /-- IREM (R84). Integer remainder with the sign of the dividend. -/
  | irem (f : Fields)
  /-- IMIN (R82). Integer minimum. -/
  | imin (f : Fields)
  /-- IMAX (R82). Integer maximum. -/
  | imax (f : Fields)
  /-- IABS (R82). Integer absolute value. -/
  | iabs (f : Fields)
  /-- INEG (R82). Integer negation modulo 2^w. -/
  | ineg (f : Fields)
  /-- IADDX (R86). Adds with optional carry-in and carry-out predicates. -/
  | iaddx (f : Fields)
  /-- AND (R88). Bitwise AND. -/
  | and (f : Fields)
  /-- OR (R88). Bitwise OR. -/
  | or (f : Fields)
  /-- XOR (R88). Bitwise XOR. -/
  | xor (f : Fields)
  /-- NOT (R88). Bitwise complement. -/
  | not (f : Fields)
  /-- ANDN (R88). Bitwise AND with the complement of the second operand. -/
  | andn (f : Fields)
  /-- SHL (R89). Shift left by the count modulo w. -/
  | shl (f : Fields)
  /-- SHR (R89). Arithmetic or logical shift right by type. -/
  | shr (f : Fields)
  /-- ROT (R89). Rotate left. -/
  | rot (f : Fields)
  /-- BFX (R90). Extracts a bit field, sign-extending for signed types. -/
  | bfx (f : Fields)
  /-- BFI (R90). Inserts a bit field into the destination. -/
  | bfi (f : Fields)
  /-- POPC (R91). Counts set bits. -/
  | popc (f : Fields)
  /-- CLZ (R91). Counts leading zero bits. -/
  | clz (f : Fields)
  /-- BREV (R91). Reverses bit order. -/
  | brev (f : Fields)
  /-- PRM (R92). Permutes bytes of two sources under a selector register. -/
  | prm (f : Fields)
  /-- ICMP (R94). Integer compare into a predicate, possibly in interval form. -/
  | icmp (f : Fields)
  /-- FCMP (R94). Floating compare into a predicate with fixed NaN results. -/
  | fcmp (f : Fields)
  /-- SEL (R96). Selects between two sources under a predicate. -/
  | sel (f : Fields)
  /-- MOV (R97). Copies a value, or pops message words from a receive queue register. -/
  | mov (f : Fields)
  /-- PLOG (R98). Combines two predicates logically. -/
  | plog (f : Fields)
  /-- PMOV (R99). Moves between predicates and registers. -/
  | pmov (f : Fields)
  /-- FADD (R101). Floating addition rounded once. -/
  | fadd (f : Fields)
  /-- FSUB (R101). Floating subtraction rounded once. -/
  | fsub (f : Fields)
  /-- FMUL (R101). Floating multiplication rounded once. -/
  | fmul (f : Fields)
  /-- FFMA (R101). Fused multiply-add with a single rounding. -/
  | ffma (f : Fields)
  /-- FMIN (R102). Floating minimum with fixed zero and NaN rules. -/
  | fmin (f : Fields)
  /-- FMAX (R102). Floating maximum with fixed zero and NaN rules. -/
  | fmax (f : Fields)
  /-- FSGN (R103). Copies the sign bit of b onto a. -/
  | fsgn (f : Fields)
  /-- FCLASS (R104). Writes a one-hot class mask of a floating value. -/
  | fclass (f : Fields)
  /-- FRND (R105). Rounds to an integral value in the same format. -/
  | frnd (f : Fields)
  /-- FRCP (R106). Correctly rounded reciprocal. -/
  | frcp (f : Fields)
  /-- FRSQ (R106). Correctly rounded reciprocal square root. -/
  | frsq (f : Fields)
  /-- FSQRT (R106). Correctly rounded square root. -/
  | fsqrt (f : Fields)
  /-- FDIV (R106). Correctly rounded division. -/
  | fdiv (f : Fields)
  /-- FEXP2 (R106). Correctly rounded base-2 exponential. -/
  | fexp2 (f : Fields)
  /-- FLOG2 (R106). Correctly rounded base-2 logarithm. -/
  | flog2 (f : Fields)
  /-- FSIN (R106). Correctly rounded sine. -/
  | fsin (f : Fields)
  /-- FCOS (R106). Correctly rounded cosine. -/
  | fcos (f : Fields)
  /-- CVT (R109). Converts between types along the paths of R60. -/
  | cvt (f : Fields)
  /-- PACK (R110). Converts f32 sources into a packed narrow result, or an NX4 block across lanes. -/
  | pack (f : Fields)
  /-- UNPK (R112). Widens one packed element to f32 exactly. -/
  | unpk (f : Fields)
  /-- SCLB (R113). Scales by a power of two with one rounding. -/
  | sclb (f : Fields)
  /-- SHFL (R168). Exchanges values between lanes of a strand. -/
  | shfl (f : Fields)
  /-- VOTE (R169). Combines a predicate or value across present lanes. -/
  | vote (f : Fields)
  /-- RDX (R170). Reduces across lanes in the fixed tree. -/
  | rdx (f : Fields)
  /-- SCAN (R170). Scans across lanes in the fixed tree. -/
  | scan (f : Fields)
  /-- ELECT (R171). Elects one item per range for the ELECT word. -/
  | elect (f : Fields)
  /-- RNDX (R114). Computes the counter-based stream generator output. -/
  | rndx (f : Fields)
  /-- LD (R173). Loads a value from .g, .x, .xc or .w space. -/
  | ld (f : Fields)
  /-- ST (R174). Stores a value to .g, .x, .xc or .w space. -/
  | st (f : Fields)
  /-- PREF (R175). Brings a line toward the cluster L1 without faulting. -/
  | pref (f : Fields)
  /-- CRNG (R176). Invalidates, writes back or both over a byte range in caches within a scope. -/
  | crng (f : Fields)
  /-- FENCE (R177). Orders the context's accesses and, at fabric scope, waits for acknowledgements, reporting FAILPEER. -/
  | fence (f : Fields)
  /-- ATOM (R263). Performs an atomic read-modify-write at the home, optionally returning the old value. -/
  | atom (f : Fields)
  /-- CAS (R264). Compares and swaps at the home. -/
  | cas (f : Fields)
  /-- RED (R265). Reduces into memory without return, or into the fixed tree with .ord. -/
  | red (f : Fields)
  /-- LKRD (R268). Requests a read grant on a lock word and acquires when granted. -/
  | lkrd (f : Fields)
  /-- LKWR (R268). Requests a write grant on a lock word and acquires when granted. -/
  | lkwr (f : Fields)
  /-- ULRD (R268). Releases, decrements the reader count and grants waiters. -/
  | ulrd (f : Fields)
  /-- ULWR (R268). Releases, clears the writer-holds bit and grants waiters. -/
  | ulwr (f : Fields)
  /-- CPY (R269). Checks and queues one copy transfer on a die copy engine. -/
  | cpy (f : Fields)
  /-- CHAIN (R270). Starts or resumes a chain walk on a copy channel. -/
  | chain (f : Fields)
  /-- CHQ (R271). Reads a copy channel's state and record. -/
  | chq (f : Fields)
  /-- MCST (R218). Copies a block into the scratch of chosen cores of the cluster range. -/
  | mcst (f : Fields)
  /-- AINIT (R215). Initialises an arrival object as one event at its home. -/
  | ainit (f : Fields)
  /-- ARV (R216). Adds an arrival amount to an arrival object. -/
  | arv (f : Fields)
  /-- AWAIT (R217). Waits until an arrival object's phase equals a value. -/
  | await (f : Fields)
  /-- MMA (R220). Checks and queues a dense matrix multiply-accumulate into a tile. -/
  | mma (f : Fields)
  /-- MMAS (R220). Checks and queues a block-sparse matrix multiply-accumulate reading A's zero-block bitmap. -/
  | mmas (f : Fields)
  /-- MZERO (R221). Queues setting a tile and its progress to zero. -/
  | mzero (f : Fields)
  /-- MLDC (R222). Queues loading a tile from memory by exact widening. -/
  | mldc (f : Fields)
  /-- MSTO (R223). Queues storing a tile to memory with conversion, saturation counting and trailer. -/
  | msto (f : Fields)
  /-- MFEN (R225). Waits until the control program's earlier accesses are performed at cluster scope. -/
  | mfen (f : Fields)
  /-- MPRG (R226). Reads a tile's progress, busy bit and queue depth. -/
  | mprg (f : Fields)
  /-- BARG (R227). Arrives at a group barrier and waits for the generation's release. -/
  | barg (f : Fields)
  /-- GRPQ (R228). Queries group membership or member count. -/
  | grpq (f : Fields)
  /-- SENDG (R356). Releases, forms a group-send message and steers it, returning its status. -/
  | sendg (f : Fields)
  /-- OFFER (R357). Declares readiness to take messages on a channel. -/
  | offer (f : Fields)
  /-- WDRAW (R359). Withdraws a channel's remaining offers. -/
  | wdraw (f : Fields)
  /-- RECV (R360). Pops the current message of a channel into memory and acquires. -/
  | recv (f : Fields)
  /-- QSTAT (R361). Reads a receive channel's state. -/
  | qstat (f : Fields)
  /-- TIME (R350). Reads the interval, raising the context's time floor. -/
  | time (f : Fields)
  /-- TUNC (R351). Reads the Meridian half-width and state. -/
  | tunc (f : Fields)
  /-- STS (R353). Releases, takes a stamp and begins a stamped store's commit wait. -/
  | sts (f : Fields)
  /-- LDAT (R355). Requests a line's value at a time from its home. -/
  | ldat (f : Fields)
  /-- TWAIT (R352). Waits until local lo exceeds a time. -/
  | twait (f : Fields)
  /-- ENRG (R275). Reads an energy meter. -/
  | enrg (f : Fields)
  /-- EMARK (R276). Starts or stops a context sub-meter. -/
  | emark (f : Fields)
  /-- SPAWN (R272). Appends a command to a work queue of the launch's process. -/
  | spawn (f : Fields)
  /-- GROW (R273). Raises the launch's item count at its dispatcher. -/
  | grow (f : Fields)
  /-- LNQ (R274). Reads a launch quantity. -/
  | lnq (f : Fields)
  /-- PSTAT (R362). Reads the failed-node map or its count. -/
  | pstat (f : Fields)
  /-- ILLEGAL_WORD (R37). Issue of a word that is not an instruction raises ILLEGAL with no effect. -/
  | illegalWord
  /-- TRAP_SLOT_GRANT (R137). A context waiting for the trap slot takes it when the slot frees. -/
  | trapSlotGrant (core : Nat)
  /-- TOKEN_OPERATION_COMPLETE (R39). An asynchronous operation completes, delivering its result and idling its token when
  it is the last. -/
  | tokenOperationComplete (op : Nat)
  /-- ACTIVE_SET_PROMOTE (R136). The oldest ready resident context takes a freed active slot. -/
  | activeSetPromote (core : Nat)
  /-- OVERDUE_REPLACE (R136). A context ready for 2,048 cycles without being active replaces the longest-held active context. -/
  | overdueReplace (core : Nat)
  /-- JOIN_TIMEOUT (R131). A span waiting at JOIN for 512 cycles continues at the next word. -/
  | joinTimeout (ctx : Nat)
  /-- SPACE_WAITER_SPILL (R120). When every resident context waits and one waits for space, the youngest space waiter is
  spilled and space granted to the oldest. -/
  | spaceWaiterSpill (core : Nat)
  /-- SPILLED_CONTEXT_RETURN (R122). A spilled context returns to the core when a slot and store free. -/
  | spilledContextReturn (core : Nat)
  /-- REMAINDER_STRAND_FORM (R125). A strand is formed from a remainder's lowest indices when a slot and store free. -/
  | remainderStrandForm (ctx : Nat)
  /-- MATRIX_ENGINE_EXECUTE (R196). The engine begins the next queued matrix instruction after the previous one completes. -/
  | matrixEngineExecute (clu : Nat)
  /-- MATRIX_ROW_GROUP (R200). The engine writes one row group of an MMA or MMAS whole and advances PROG. -/
  | matrixRowGroup (clu : Nat)
  /-- MATRIX_INSTRUCTION_COMPLETE (R196). A matrix instruction completes, setting its token and arriving on its object. -/
  | matrixInstructionComplete (clu : Nat)
  /-- MULTICAST_COMPLETE (R185). A multicast completes once after every destination is written. -/
  | multicastComplete (xfer : Nat)
  /-- COPY_SEGMENT (R249). A copy engine moves one 64 KiB segment of a transfer. -/
  | copySegment (xfer : Nat)
  /-- TRANSFER_COMPLETE (R246). A transfer releases at its scope and completes once. -/
  | transferComplete (xfer : Nat)
  /-- CHAIN_RECORD (R249). A channel reads the next chain record and processes, parks or stops. -/
  | chainRecord (range chan : Nat)
  /-- TRANSLATION_WALK (R252). A walker completes a table walk for a TLB miss. -/
  | translationWalk (clu : Nat) (engine : Bool) (vf proc : Nat) (va : W64)
  /-- SHOOTDOWN (R252). The service core drops an entry from every TLB after in-flight accesses perform. -/
  | shootdown (vf proc : Nat) (va : W64)
  /-- L1_EVICTION (R183). An evicted L1 line writes its dirty bytes to its home L2 slice. -/
  | l1Eviction (clu line : Nat)
  /-- L2_EVICTION (R279). An evicted L2 or, `portion`, cache-portion line writes its dirty bytes onward. -/
  | l2Eviction (line : Nat) (portion : Bool)
  /-- DELTA_FLUSH (R244). An update-only delta is sent to the home. -/
  | deltaFlush (clu line : Nat)
  /-- COMMAND_TAKE (R234). A dispatcher takes a ready queue's head command and advances HEAD. -/
  | commandTake (queue : Nat)
  /-- DEPENDENCE_RECHECK (R234). A dispatcher rereads dependence words on a completion-word store or every 10 µs. -/
  | dependenceRecheck
  /-- NOP_COMMAND (R230). Command KIND 0x00 completes with no effect. -/
  | nopCommand (cmd : Nat)
  /-- LAUNCH (R230). Command KIND 0x01 starts a launch. -/
  | launch (cmd : Nat)
  /-- MARK (R230). Command KIND 0x02 waits on its dependence then completes. -/
  | mark (cmd : Nat)
  /-- KILL (R291). Ends a launch with status KILLED. -/
  | kill (cmd : Nat)
  /-- CHECKPOINT (R292). Drains a launch into an image and ends it CHECKPOINTED. -/
  | checkpoint (cmd : Nat)
  /-- RESTORE (R293). Starts a new launch from a checkpoint image. -/
  | restore (cmd : Nat)
  /-- RESOLVE (R291). Retries parked demand-fault accesses of a page. -/
  | resolve (cmd : Nat)
  /-- REFUSE (R291). Ends the launches parked on a page with status FAULT. -/
  | refuse (cmd : Nat)
  /-- VFACCT (R281). Writes one field of a VF account after its checks. -/
  | vfacct (cmd : Nat)
  /-- PARTITION (R278). Sets the cache and pinned portion sizes of the deep store. -/
  | partition (cmd : Nat)
  /-- PREEMPTVF (R291). Stops a VF for the rest of its slice. -/
  | preemptvf (cmd : Nat)
  /-- PROCWT (R235). Sets a process's deficit weight. -/
  | procwt (cmd : Nat)
  /-- QUEUE_TAIL_WRITE (R233). A write to a queue tail in the command window appends commands or disables the queue. -/
  | queueTailWrite (via : Via) (queue : Nat) (tail : W64)
  /-- QUEUE_DESCRIPTOR_WRITE (R233). The service core writes a queue descriptor for the host. -/
  | queueDescriptorWrite (queue : Nat) (desc : BitVec 128)
  /-- RANGE_PLACE (R237). A dispatcher places a cluster range on the lowest free cluster after the quota check. -/
  | rangePlace (launchId : Nat)
  /-- RANGE_RETIRE (R181). A cluster range retires, freeing its allocations and handing RED.ord partials. -/
  | rangeRetire (range : Nat)
  /-- LAUNCH_END (R231). A launch ends, performing its stores, writing its record and storing its completion word. -/
  | launchEnd (launchId : Nat)
  /-- BARRIER_ARRIVAL_MESSAGE (R191). A hierarchy level receives a barrier arrival count and forwards it upward when
  complete. -/
  | barrierArrivalMessage (msg : BarrierMsg)
  /-- BARRIER_RELEASE (R191). A generation release message reaches waiting members. -/
  | barrierRelease (launchId group : Nat)
  /-- BARRIER_RANGE_SAVE (R192). A cluster range whose contexts all wait at BARG is saved to place another. -/
  | barrierRangeSave (range : Nat)
  /-- RANGE_RESTORE (R290). A saved cluster range is restored whole onto a cluster. -/
  | rangeRestore (range : Nat)
  /-- CHARGE_POST (R255). A tile posts its accumulated charges in whole EU at least every 50 ns. -/
  | chargePost (tile : Nat)
  /-- VF_STOPPED (R283). Once all the VF's work reaches its boundaries, its ranges are saved. -/
  | vfStopped (vf : Nat)
  /-- ACCOUNTING_WINDOW_END (R256). At a window end tiles compute residuals and factors, shared cost is split, and balances
  refilled. -/
  | accountingWindowEnd (meas : List TileMeas) (overhead : Int)
  /-- SLICE_END (R235). A VF's time slice ends and it is stopped and saved. -/
  | sliceEnd (vf : Nat)
  /-- BLOCK_ERROR (R258). A corrected or uncorrected error is reported in a block, with the bytes it leaves poisoned. -/
  | blockError (block : Block) (poison : List Nat)
  /-- SELF_TEST (R258). A targeted self-test of a block runs and its result is acted on; whether the failure destroyed
  state of the ranges that use the block. -/
  | selfTest (block : Block) (pass destroyed : Bool)
  /-- MACHINE_CHECK (R259). A poisoned read raises a machine check to the service core and ends the launch LOST. -/
  | machineCheck (launchId pa : Nat)
  /-- CALIBRATION_LOAD (R294). The service core loads a tile's coefficient table. -/
  | calibrationLoad (tile : Nat) (coefs : List Nat)
  /-- FREEZE (R297). Asserting FREEZE_N stops every clock within 4 ns. -/
  | freeze
  /-- PACKAGE_RESET (R295). Reset verifies the firmware image and enters recovery on failure. -/
  | packageReset (imageOk : Bool)
  /-- RECOVERY_IMAGE (R295). In recovery a new image is accepted, verified, written and the package reset. -/
  | recoveryImage (image : NewImage) (digest : BitVec 256)
  /-- ATTESTATION_REQUEST (R296). A signed attestation report is produced, or refused when keys are exhausted. -/
  | attestationRequest (nonce : BitVec 256)
  /-- MERIDIAN_TICK (R302). The computed interval advances by the oscillator and the reported pair and die copies update. -/
  | meridianTick
  /-- TIMING_FLIT_SEND (R303). Each up port sends a timing flit every 1,024 ticks. -/
  | timingFlitSend (port : Nat)
  /-- TIMING_FLIT (R303). An arriving timing flit is intersected with the interval or enters FAILED. -/
  | timingFlit (port : Nat) (lo hi : Nat)
  /-- REFERENCE_INPUT (R304). A reference package intersects its pair with its reference input, when the input supplies a
  time. -/
  | referenceInput (present : Bool) (ref : Nat)
  /-- OSCILLATOR_DISAGREEMENT (R305). Oscillator rates differing by over 200 ppb over 1 ms enter FAILED. -/
  | oscillatorDisagreement
  /-- STANDBY_TAKEOVER (R305). The standby Meridian unit takes over within 1 µs of a lasting failure. -/
  | standbyTakeover (usable : Bool)
  /-- STS_COMMIT (R317). An STS's commit wait ends and its record is sent, or it ends FAILED. -/
  | stsCommit (op : Nat)
  /-- STS_RECORD_ARRIVAL (R317). The home takes a stamped record, or rejects it LATE or HOMECLOCK. -/
  | stsRecordArrival (rec : StsRec)
  /-- STS_STATUS_RETURN (R317). An STS status reaches the issuer and the instruction completes. -/
  | stsStatusReturn (op status : Nat)
  /-- RECORD_FOLD (R313). The home folds an expired lowest-keyed record into BASE. -/
  | recordFold (line : Nat)
  /-- LDAT_ANSWER (R319). The home answers a read at a time once its lo passes t + MWIN. -/
  | ldatAnswer (op : Nat) (remote : Option (Nat × W64))
  /-- TWAIT_WAKE (R352). A TWAIT completes when local lo passes its time or the state becomes FAILED. -/
  | twaitWake (ctx : Nat)
  /-- FLIT_RECEIVE (R323). A flit is decoded, checked and accepted or discarded and requested again. -/
  | flitReceive (port : Nat) (flit : RawFlit)
  /-- RESEND_REQUEST (R324). A sender resends a flit's contents under its next counter value. -/
  | resendRequest (port ctr : Nat)
  /-- LANE_ERASURE (R324). A lane is declared erased and the port goes DEGRADED. -/
  | laneErasure (port lane : Nat)
  /-- PORT_DOWN (R324). A second lane failure takes the port DOWN and reroutes its traffic. -/
  | portDown (port : Nat)
  /-- LINK_TRAINING (R303). A link trains and measures its timing round trip. -/
  | linkTraining (port : Nat) (rho : Option Nat)
  /-- PAUSE_UPDATE (R325). A received per-VC pause bit stops or resumes data flits. -/
  | pauseUpdate (port : Nat) (vcs : BitVec 8)
  /-- KEY_STAGE (R326). Keying flits agree and stage the next data key. -/
  | keyStage (port : Nat)
  /-- KEY_EXHAUSTED (R327). A sender reaching the last counter with no staged key stops data flits. -/
  | keyExhausted (port : Nat)
  /-- KEY_TIMEOUT (R327). No key staged within 1 ms of exhaustion takes the port DOWN. -/
  | keyTimeout (port : Nat)
  /-- REMOTE_REQUEST (R330). A home serves, answers from retention, or queues with HOLD a remote transaction. -/
  | remoteRequest (req : RemoteReq)
  /-- TRANSACTION_RESEND (R330). A remote transaction unanswered for 20 µs is resent. -/
  | transactionResend (r : Resend)
  /-- NODE_FAILED (R330). A node is declared failed and marked in the failed map. -/
  | nodeFailed (f : NodeReport)
  /-- WRITE_BACK_MERGE (R331). A home merges a fabric write-back, invalidates other nodes and acknowledges. -/
  | writeBackMerge (sender : Sender) (pa : Nat) (bytes : List (Option Byte)) (evict : Bool)
  /-- INVALIDATION (R331). A node receiving an invalidation drops clean bytes of the line and acknowledges. -/
  | invalidation (line : Nat)
  /-- COLLAPSE (R332). The service core collapses a read-duplicate page piece on a write. -/
  | collapse (vf proc : Nat) (va : W64) (ownerPa : Nat)
  /-- OWNERSHIP_REQUEST (R332). The coordinator serves a piece ownership request in arrival order. -/
  | ownershipRequest (page piece : Nat) (sender : Sender)
  /-- READINESS_REPORT (R333). A child reports its offer total for a key to its parent level. -/
  | readinessReport (level : Level) (child : Nat) (key : Key) (total : Nat) (live : Bool)
  /-- MESSAGE_STEER (R336). A group-send message arriving at a level climbs, descends or bounces; or a message descends
  into the package from a switch tier. -/
  | messageSteer (msg : Nat) (arrives : Option InMsg)
  /-- MESSAGE_TAKE (R335). A core's context takes an arriving message into its receive buffer. -/
  | messageTake (msg : Nat)
  /-- PARKED_WAKE (R337). A rise in a watched count wakes parked messages to re-climb. -/
  | parkedWake (key : Key)
  /-- SEND_STATUS_RETURN (R338). A group-send status returns to the sender. -/
  | sendStatusReturn (msg status : Nat)
  /-- CXL_RESPONSE (R280). A CXL.mem response arrives for a request. -/
  | cxlResponse (tag : Nat) (bytes : List Byte) (poison : Bool)
  /-- CXL_TIMEOUT (R280). A CXL request unanswered for 1 ms is treated as poisoned. -/
  | cxlTimeout (tag : Nat)
  /-- RMA_WRITE (R344). A host RMA write to a memory window is translated and performed. -/
  | rmaWrite (window off : Nat) (bytes : List Byte) (via : Via)
  /-- RMA_READ (R344). A host RMA read from a memory window is translated and performed. -/
  | rmaRead (window off len : Nat) (via : Via)
  /-- UNSUPPORTED_OPERATION (R343). An unsupported Ultra Ethernet operation is answered with a negative acknowledgement. -/
  | unsupportedOperation (via : Via)
  /-- NOTIFICATION_HEAD_WRITE (R344). The host returns notification ring entries and held notices are appended. -/
  | notificationHeadWrite (via : Via) (ring : RingHead)
  /-- REGISTER_WRITE (R344). A write to a management register that has no row of its own. -/
  | registerWrite (reg : MgmtWrite)
  /-- PERIOD_START (R235). A new PERIOD of a VF begins, giving it a fresh SLICE so that its saved ranges become placeable
  and contexts stopped on their clusters continue. -/
  | periodStart (vf : Nat)
  /-- TOKEN_OUTSTANDING_BEYOND_64_CYCLES (R136). A context whose awaited token has stayed outstanding for more than 64
  cycles leaves the active set. -/
  | tokenOutstandingBeyond64Cycles (ctx : Nat)
  /-- SERVICE_CORE_FAILURE (R294). A lasting failure of the unpaired service core stops the package and ends every launch
  with status LOST. -/
  | serviceCoreFailure
  /-- CXL_RANGE_CONFIGURATION (R280). The service core sets the CXL ranges of the window from the fabric manager's
  configuration. -/
  | cxlRangeConfiguration (ranges : List CxlRange)
  deriving DecidableEq, Repr

end Sys2Proof
end

