-- ==== Sys2Proof/Machine/Sig.lean ====
section
/-! DEFINITION. Which field values each opcode accepts: the encoding tables of R75, R81, R87, R93, R100,
R106, R108, R114, R145, R209, R211, R260, R347, R348, with the modifier rules of R32 and R33, the variants
of R43 and the scalar-destination rule of R76. What depends on the state (declared register counts, REP
bodies, the kind of context) is checked at issue, in Machine/Issue.lean. -/

namespace Sys2Proof

/-- The operand classes of the encoding tables. `spU` is a uniform special operand (R78), `p6` a writable
predicate, `pair` an even scalar, `none` the unused field. -/
inductive Cls where
  | none | v | s | pair | p | p6 | q | bar | acc | sp | spU | lit | zero | imm
  deriving DecidableEq, Repr

/-- Is the operand of the class (R28, R29)? -/
def Opnd.isCls : Opnd → Cls → Bool
  | .v r, .none => r == 0
  | .v _, .v => true
  | .s _, .s => true
  | .s r, .pair => r.toNat % 2 == 0
  | .p _, .p => true
  | .p r, .p6 => r != 7
  | .q _, .q => true
  | .b _, .bar => true
  | .a _, .acc => true
  | .ac _, .acc => true
  | .sp _, .sp => true
  | .sp x, .spU => x != .ix && x != .lane
  | .lit _, .lit => true
  | .zero, .zero => true
  | .imm _, .imm => true
  | _, _ => false

def Opnd.isIn (o : Opnd) (cs : List Cls) : Bool := cs.any o.isCls

/-- An item register given for a 64-bit operand must be even (R10, R29). -/
def Opnd.evenIf (o : Opnd) (wide : Bool) : Bool :=
  match o with
  | .v r => !wide || r.toNat % 2 == 0
  | _ => true

/-- Does the operand read an item's own state, so that a scalar destination forbids it (R76)? -/
def Opnd.perItem : Opnd → Bool
  | .v _ => true
  | .q _ => true
  | .sp .ix => true
  | .sp .lane => true
  | _ => false

/-- Is a special operand absent from a control program (R76, R193)? -/
def Opnd.isS : Opnd → Bool
  | .s _ => true
  | _ => false

def Ty.is64 : Ty → Bool
  | .b64 | .s64 | .n64 | .f64 => true
  | _ => false

/-- The width of a type in bits (R44, R46, R51). -/
def Ty.width : Ty → Nat
  | .b64 | .s64 | .n64 | .f64 => 64
  | .b32 | .s32 | .n32 | .f32 => 32
  | .f16 | .bf16 | .s16 | .n16 => 16
  | .e4m3 | .e5m2 | .b8 => 8
  | .nx4 => 4

/-- The access size in bytes of LD and ST (R173). -/
def Ty.bytes (t : Ty) : Nat := t.width / 8

def Ty.signed : Ty → Bool
  | .s32 | .s64 | .s16 => true
  | _ => false

/-- The sets of R75. -/
def Ty.isInt : Ty → Bool
  | .b32 | .s32 | .n32 | .b64 | .s64 | .n64 | .s16 | .n16 | .b8 => true
  | _ => false
def Ty.isWide : Ty → Bool
  | .b32 | .s32 | .n32 | .b64 | .s64 | .n64 => true
  | _ => false
def Ty.isBits : Ty → Bool
  | .b32 | .b64 => true
  | _ => false
def Ty.isFlt : Ty → Bool
  | .f16 | .bf16 | .f32 | .f64 => true
  | _ => false
def Ty.isF16to32 : Ty → Bool
  | .f16 | .bf16 | .f32 => true
  | _ => false
def Ty.isPacked : Ty → Bool
  | .f16 | .bf16 | .e4m3 | .e5m2 | .nx4 => true
  | _ => false
def Ty.isStamped : Ty → Bool
  | .b32 | .s32 | .n32 | .f32 | .b64 | .s64 | .n64 | .f64 => true
  | _ => false

/-- The type with a type code (R31). -/
def Ty.ofCode (n : Nat) : Ty :=
  ([Ty.b32, .s32, .n32, .f32, .b64, .s64, .n64, .f64, .f16, .bf16, .e4m3, .e5m2, .nx4, .s16, .n16,
    .b8])[n % 16]?.getD .b32

/-- The code of a type (R31). -/
def Ty.code : Ty → Nat
  | .b32 => 0 | .s32 => 1 | .n32 => 2 | .f32 => 3 | .b64 => 4 | .s64 => 5 | .n64 => 6 | .f64 => 7
  | .f16 => 8 | .bf16 => 9 | .e4m3 => 10 | .e5m2 => 11 | .nx4 => 12 | .s16 => 13 | .n16 => 14 | .b8 => 15

/-- The outcome of each static check of a word (R37), one flag per field. -/
structure Sig where
  var : Bool
  ty : Bool
  mod : Bool
  d : Bool
  a : Bool
  b : Bool
  x : Bool
  se : Bool
  /-- Relations between fields: a scalar destination's sources (R76), a status register equal to D (R347). -/
  rel : Bool
  deriving DecidableEq, Repr

/-- The classes S of R75 and U-src of R145. -/
def clsS : List Cls := [.v, .s, .sp, .zero, .imm]
def clsSL : List Cls := [.v, .s, .sp, .zero, .imm, .lit]
def clsU : List Cls := [.s, .spU, .zero, .imm]
def clsUL : List Cls := [.s, .spU, .zero, .imm, .lit]

/-- Order, scope and space of a memory instruction's MOD (R32): bits 2:0, 5:3 and 7:6 of the field. -/
def Fields.order (f : Fields) : Nat := f.mod.toNat % 8
def Fields.scope (f : Fields) : Nat := f.mod.toNat / 8 % 8
def Fields.space (f : Fields) : Nat := f.mod.toNat / 64
/-- LD under b8 holds its order in bits 22:21 (R33): weak, strong relaxed, acquire, sequentially consistent. -/
def Fields.ldOrder (f : Fields) : Nat :=
  if f.ty = .b8 then [0, 1, 2, 5][f.mod.toNat / 2 % 4]?.getD 0 else f.order

/-- The order, scope and space pairings of R172. -/
def memPair (order scope space : Nat) : Bool :=
  order ≤ 5 && scope ≤ 4 && (order != 0 || scope == 0) &&
  match space with
  | 0 => !(order == 5 && scope == 4)
  | 1 => order == 0 || scope ≤ 1
  | 2 => order == 0 || scope == 1
  | _ => order ≤ 1 && scope == 0

/-- The memory operand of R15: base, index, scale and offset. -/
def addrOk (f : Fields) (bases indexes : List Cls) : Bool × Bool × Bool :=
  (f.a.isIn bases && f.a.evenIf (f.space == 0),
   f.b.isIn indexes,
   f.x.toNat / 32 ≤ 4 && (!f.b.isIn [.imm] || f.x.toNat / 32 == 0))

/-- The floating layout of MOD (R32). -/
def fltMod (f : Fields) (rnd ftz : Bool) : Bool :=
  f.mod.toNat < 8 && (ftz || f.mod.toNat / 4 == 0) && (rnd || f.mod.toNat % 4 == 0)

/-- An arrival byte (R211). -/
def arrivalByte (x : BitVec 8) : Bool :=
  x.toNat / 64 % 2 == 0 && (x.toNat ≥ 128 || x.toNat == 0)

/-- A status byte (R348). -/
def statusByte (x : BitVec 8) : Bool :=
  match x.toNat / 64 with
  | 0 => x == 0
  | 1 => x.toNat % 64 < 7
  | 2 => true
  | _ => false

/-- The opcode takes no field but its guard and hints (R145). -/
def sigPlain (f : Fields) : Sig :=
  { var := f.var == 0, ty := f.ty == .b32, mod := f.mod == 0, d := f.d.isIn [.none],
    a := f.a.isIn [.none], b := f.b.isIn [.none], x := f.x == 0, se := !f.h.se, rel := true }

/-- A three-operand instruction of chapter 05: D is v or s, A of S, B of S or a literal. -/
def sigAlu (f : Fields) (ty : Bool) : Sig :=
  { sigPlain f with
    ty := ty
    d := f.d.isIn [.v, .s] && f.d.evenIf f.ty.is64
    a := f.a.isIn clsS && f.a.evenIf f.ty.is64
    b := f.b.isIn clsSL && f.b.evenIf f.ty.is64
    rel := !f.d.isS || (!f.a.perItem && !f.b.perItem) }

/-- The same with no B. -/
def sigAlu1 (f : Fields) (ty : Bool) : Sig :=
  { sigAlu f ty with b := f.b.isIn [.none], rel := !f.d.isS || !f.a.perItem }

/-- Count and position operands are read as 32 bits, so B may be odd (R87). -/
def sigShift (f : Fields) (ty : Bool) : Sig := { sigAlu f ty with b := f.b.isIn clsSL }

/-- An X that names an item register: even for a 64-bit type (R75). -/
def xReg (f : Fields) : Bool := !f.ty.is64 || f.x.toNat % 2 == 0

/-- Opcode rows 0x0_ and 0x1_ (R145), less the four of R34. -/
def sigControl (op : Nat) (f : Fields) : Sig :=
  match op with
  | 0x02 => { sigPlain f with a := f.a.isIn clsS && f.a.evenIf true }
  | 0x07 => { sigPlain f with mod := f.mod.toNat < 16, b := f.b.isIn clsUL, x := true }
  | 0x08 => { sigPlain f with x := f.x != 0 }
  | 0x0A => { sigPlain f with a := f.a.isIn [.s, .zero, .imm], b := f.b.isIn [.s, .zero, .imm] }
  | 0x0B => { sigPlain f with
      ty := f.ty == .b64, d := f.d.isIn [.s], x := [0, 1, 2, 3, 4, 5, 8, 9, 16].contains f.x.toNat }
  | 0x0C => { sigPlain f with ty := f.ty == .b64, b := f.b.isIn clsUL, x := f.x.toNat == 16 }
  | 0x0D => { sigPlain f with mod := f.mod.toNat < 2, x := true }
  | 0x10 => { sigPlain f with a := f.a.isIn [.p] }
  | 0x13 | 0x14 => { sigPlain f with d := f.d.isIn [.bar] }
  | 0x16 => { sigPlain f with d := f.d.isIn [.s], b := f.b.isIn clsUL }
  | 0x17 => { sigPlain f with
      ty := f.ty.isBits && (f.ty == .b32 || !f.d.isIn [.p]), mod := f.mod.toNat < 2
      d := f.d.isIn [.v, .p6] && f.d.evenIf f.ty.is64 }
  | _ => sigPlain f

/-- Opcode rows 0x2_ and 0x3_ (R81, R86, R87). -/
def sigIntBit (op : Nat) (f : Fields) : Sig :=
  match op with
  | 0x22 => { sigAlu f f.ty.isInt with mod := f.mod.toNat < 2 }
  | 0x23 => { sigAlu f f.ty.isWide with d := f.d.isIn [.v] && f.d.evenIf f.ty.is64, x := xReg f }
  | 0x28 | 0x29 => sigAlu1 f f.ty.isInt
  | 0x2A => { sigAlu f (f.ty.isWide && !f.ty.signed) with
      x := f.x.toNat < 32 && !(f.x.toNat / 16 == 1 && f.x.toNat % 8 == 7) &&
        (f.x.toNat / 8 != 0 || f.x.toNat == 0) }
  | 0x30 | 0x31 | 0x32 | 0x34 => sigAlu f f.ty.isBits
  | 0x33 | 0x3A | 0x3B | 0x3C => sigAlu1 f f.ty.isBits
  | 0x35 | 0x36 | 0x37 => sigShift f f.ty.isWide
  | 0x38 => { sigShift f f.ty.isWide with x := f.x.toNat ≤ f.ty.width }
  | 0x39 => { sigShift f f.ty.isBits with x := f.x.toNat ≤ f.ty.width }
  | 0x3D => { sigAlu f (f.ty == .b32) with d := f.d.isIn [.v], x := true }
  | _ => sigAlu f f.ty.isInt

/-- Opcode row 0x4_ (R93). -/
def sigCompare (op : Nat) (f : Fields) : Sig :=
  match op with
  | 0x40 => { sigAlu f f.ty.isInt with var := f.var.toNat < 6, d := f.d.isIn [.p6], rel := true }
  | 0x41 => { sigAlu f f.ty.isFlt with var := f.var.toNat < 8, d := f.d.isIn [.p6], rel := true }
  | 0x42 => { sigAlu f (f.ty != .nx4) with x := f.x.toNat < 16 }
  | 0x43 => { sigAlu f (f.ty != .nx4) with
      a := f.a.isIn [.none], b := f.b.isIn (.q :: clsSL) && f.b.evenIf f.ty.is64
      rel := !f.d.isS || !f.b.perItem }
  | 0x44 => { sigPlain f with
      var := f.var.toNat < 4, d := f.d.isIn [.p6], a := f.a.isIn [.p], b := f.b.isIn [.p] }
  | _ => { sigPlain f with
      ty := f.ty == .b32 || (f.ty == .b64 && f.a.isIn clsS)
      d := f.d.isIn [.p6, .v, .s]
      a := if f.d.isIn [.p6] then f.a.isIn (.p :: clsS) && f.a.evenIf f.ty.is64 else f.a.isIn [.p] }

/-- Opcode rows 0x5_ and 0x6_ (R100, R106, R108). -/
def sigFloat (op : Nat) (f : Fields) : Sig :=
  match op with
  | 0x50 | 0x51 | 0x52 | 0x63 => { sigAlu f f.ty.isFlt with mod := fltMod f true true }
  | 0x53 => { sigAlu f f.ty.isFlt with
      mod := fltMod f true true, d := f.d.isIn [.v] && f.d.evenIf f.ty.is64, x := xReg f }
  | 0x54 | 0x55 => { sigAlu f f.ty.isFlt with mod := fltMod f false true }
  | 0x56 => sigAlu f f.ty.isFlt
  | 0x57 => { sigAlu1 f f.ty.isFlt with d := f.d.isIn [.v, .s] }
  | 0x58 | 0x60 | 0x62 => { sigAlu1 f f.ty.isFlt with mod := fltMod f true true }
  | 0x68 => { sigAlu1 f (f.ty != .nx4) with
      mod := fltMod f true true
      a := f.a.isIn clsS && f.a.evenIf (Ty.ofCode f.x.toNat).is64
      x := f.x.toNat < 16 && f.x.toNat != 12 }
  | 0x69 => { sigAlu f f.ty.isPacked with
      mod := fltMod f (f.ty != .nx4) true
      d := f.d.isIn (if f.ty == .nx4 then [.v] else [.v, .s])
      x := f.x == 0 || ((f.ty == .e4m3 || f.ty == .e5m2) && f.x.toNat == 1) }
  | 0x6A => { sigAlu1 f f.ty.isPacked with
      x := f.x.toNat < (if f.ty == .e4m3 || f.ty == .e5m2 then 4 else 2) }
  | 0x6B => { sigShift f f.ty.isFlt with mod := fltMod f true true }
  | _ => { sigAlu1 f f.ty.isF16to32 with mod := fltMod f true true }

/-- Opcode rows 0x7_ and 0x8_ (R114, R145, R169, R170). -/
def sigCrossMem (op : Nat) (f : Fields) : Sig :=
  match op with
  | 0x70 => { sigShift f f.ty.isBits with
      var := f.var.toNat < 4, d := f.d.isIn [.v] && f.d.evenIf f.ty.is64 }
  | 0x71 => { sigPlain f with
      var := f.var.toNat < 4
      ty := match f.var.toNat with
        | 2 => f.ty == .b64
        | 3 => f.ty.isBits
        | _ => f.ty == .b32
      d := if f.var.toNat == 2 then f.d.isIn [.v, .s] && f.d.evenIf true else f.d.isIn [.p6]
      a := if f.var.toNat == 3 then f.a.isIn clsS && f.a.evenIf f.ty.is64 else f.a.isIn [.p] }
  | 0x72 => { sigAlu1 f (f.ty.isInt || (f.ty.isFlt && f.var.toNat < 3)) with
      var := f.var.toNat < 6
      mod := if f.ty.isFlt then fltMod f (f.var == 0) true else f.mod == 0
      rel := true }
  | 0x73 => { sigAlu1 f (f.ty.isInt || (f.ty.isFlt && f.var.toNat % 8 < 3)) with
      var := f.var.toNat % 8 < 6
      mod := if f.ty.isFlt then fltMod f (f.var.toNat % 8 == 0) true else f.mod == 0
      d := f.d.isIn [.v] && f.d.evenIf f.ty.is64 }
  | 0x74 => { sigPlain f with d := f.d.isIn [.p6], x := f.x.toNat < 2 }
  | 0x78 => { sigAlu f (f.ty == (if f.var == 0 then Ty.b64 else if f.var == 1 then .n32 else .f32)) with
      var := f.var.toNat < 3
      a := f.a.isIn clsS && f.a.evenIf true
      b := f.b.isIn clsSL && f.b.evenIf true }
  | 0x80 =>
    let (a, b, x) := addrOk f [.v, .s] [.v, .s, .imm, .zero]
    { sigPlain f with
      ty := f.ty != .nx4, mod := memPair f.ldOrder f.scope f.space
      d := f.d.isIn [.v, .s] && f.d.evenIf f.ty.is64
      a := a, b := b, x := x, se := true
      rel := !f.d.isS || (!f.a.perItem && !f.b.perItem) }
  | 0x81 =>
    let (a, b, x) := addrOk f [.v, .s] [.v, .s, .imm, .zero]
    { sigPlain f with
      ty := f.ty != .nx4, mod := memPair f.order f.scope f.space
      d := f.d.isIn [.v, .s, .zero] && f.d.evenIf f.ty.is64
      a := a, b := b, x := x }
  | 0x82 =>
    let (a, b, x) := addrOk f [.v, .s] [.v, .s, .imm, .zero]
    { sigPlain f with var := f.var.toNat < 2, a := a, b := b, x := x }
  | 0x83 => { sigPlain f with
      var := f.var.toNat < 3, mod := f.order == 0 && f.scope ≤ 4 && f.space == 0
      a := f.a.isIn [.s], b := f.b.isIn clsUL }
  | _ => { sigPlain f with
      mod := 2 ≤ f.order && f.order ≤ 5 && f.scope ≤ 4 && f.space == 0 && memPair f.order f.scope 0
      d := f.d.isIn [.s, .zero], se := true }

/-- Opcode row 0x9_ (R260, R261). -/
def sigAtomic (op : Nat) (f : Fields) : Sig :=
  let (a, b, x) := addrOk f [.v, .s] [.v, .s, .imm, .zero]
  let u := !f.d.isS || (!f.a.perItem && !f.b.perItem)
  let m := f.order != 0 && f.space ≤ 2 && memPair f.order f.scope f.space
  let flt := f.ty == .f32 || f.ty == .f64
  match op with
  | 0x90 => { sigPlain f with
      var := f.var.toNat < 15 && f.var.toNat != 7
      ty := f.ty.isWide || (flt && [0, 1, 2, 6].contains (f.var.toNat % 8))
      mod := m, d := f.d.isIn [.v, .s] && f.d.evenIf f.ty.is64
      a := a, b := b, x := x, se := !f.h.se || f.var.toNat < 8, rel := u }
  | 0x91 => { sigPlain f with
      var := f.var == 0 || f.var == 8, ty := f.ty.isWide
      mod := m, d := f.d.isIn [.v, .s] && f.d.evenIf f.ty.is64
      a := a, b := b, x := x, se := !f.h.se || f.var == 0, rel := u }
  | 0x92 => { sigPlain f with
      var := f.var.toNat < 6 || f.var == 8
      ty := (f.ty.isWide && f.var != 8) || (flt && [0, 1, 2, 8].contains f.var.toNat)
      mod := if f.var == 8 then f.order == 1 && f.scope == 4 && f.space == 0 else m
      d := f.d.isIn [.v, .s, .zero] && f.d.evenIf f.ty.is64
      a := a, b := b, x := x, rel := u }
  | _ =>
    let (a, b, x) := addrOk f [.s] [.s, .imm, .zero]
    { sigPlain f with
      mod := f.order == (if op < 0x95 then 2 else 3) && 2 ≤ f.scope && f.scope ≤ 4 && f.space == 0
      d := if op < 0x95 then f.d.isIn [.none] else f.d.isIn [.s, .zero]
      a := a, b := b, x := x }

/-- An immediate operand from 0 to `n`. -/
def immTo (o : Opnd) (n : Nat) : Bool :=
  match o with
  | .imm i => i.toNat ≤ n
  | _ => false

/-- Opcode rows 0xA_ and 0xB_ (R209, R260). -/
def sigCluster (op : Nat) (f : Fields) : Sig :=
  let sync (orders : List Nat) : Bool :=
    orders.contains f.order && f.scope ≤ 4 && (f.order != 0 || f.scope == 0)
  match op with
  | 0xA0 => { sigPlain f with
      mod := f.order == 0 && f.scope ≤ 4 && f.space == 0, d := f.d.isIn [.s], a := f.a.isIn [.s]
      b := f.b.isIn clsUL, x := arrivalByte f.x, se := true }
  | 0xA1 => { sigPlain f with
      d := f.d.isIn [.s, .zero], a := f.a.isIn [.s], b := immTo f.b 3, se := true }
  | 0xA2 => { sigPlain f with d := f.d.isIn [.s], b := immTo f.b 3 }
  | 0xA3 => { sigPlain f with
      mod := f.order == 0 && f.scope ≤ 4 && f.space ≤ 2, d := f.d.isIn [.pair], a := f.a.isIn [.s]
      b := f.b.isIn clsUL, x := true, se := true }
  | 0xA4 | 0xA5 => { sigPlain f with
      mod := sync [0, 1, 3] && f.space ≤ 1, a := f.a.isIn [.s], b := f.b.isIn clsUL }
  | 0xA6 => { sigPlain f with
      mod := sync [0, 1, 2] && f.space == 0, a := f.a.isIn [.s]
      b := f.b.isIn clsU && (!f.b.isIn [.imm] || immTo f.b 1) }
  | 0xB0 | 0xB1 => { sigPlain f with
      d := f.d.isIn [.acc], a := f.a.isIn [.pair], b := f.b.isIn [.pair], x := arrivalByte f.x
      se := true }
  | 0xB2 => { sigPlain f with d := f.d.isIn [.acc], x := arrivalByte f.x, se := true }
  | 0xB3 => { sigPlain f with
      d := f.d.isIn [.acc], a := f.a.isIn [.pair], x := arrivalByte f.x, se := true }
  | 0xB4 => { sigPlain f with
      mod := f.order == 0 && f.scope ≤ 4 && f.space == 0
      d := f.d.isIn [.acc], a := f.a.isIn [.pair], x := arrivalByte f.x, se := true }
  | 0xB6 => { sigPlain f with d := f.d.isIn [.s], a := f.a.isIn [.acc] }
  | _ => sigPlain f

/-- Opcode rows 0xC_ to 0xE_ (R209, R260, R347). -/
def sigUpper (op : Nat) (f : Fields) : Sig :=
  let sn : Bool := match f.d with
    | .s r => !(f.x.toNat / 64 == 2 && f.x.toNat % 64 == r.toNat)
    | _ => true
  match op with
  | 0xC0 => { sigPlain f with
      mod := (f.order == 0 && f.scope == 0 || f.order == 4 && f.scope ≤ 4) && f.space == 0
      b := f.b.isIn clsU }
  | 0xC1 => { sigPlain f with d := f.d.isIn [.p6, .s], b := f.b.isIn clsU }
  | 0xC2 => { sigPlain f with
      var := f.var.toNat < 2, mod := f.mod.toNat % 64 < 4 && f.space ≤ 1, d := f.d.isIn [.s, .zero]
      a := f.a.isIn [.s], b := f.b.isIn clsUL, x := true, se := true }
  | 0xC3 => { sigPlain f with
      mod := f.mod.toNat < 4, d := f.d.isIn [.s, .zero], a := f.a.isIn clsU, b := f.b.isIn clsUL
      x := true }
  | 0xC4 => { sigPlain f with mod := f.mod.toNat < 4, d := f.d.isIn [.s, .zero] }
  | 0xC5 => { sigPlain f with
      mod := f.mod.toNat % 64 < 4 && f.space ≤ 1, d := f.d.isIn [.s, .zero], a := f.a.isIn [.s]
      se := true }
  | 0xC6 => { sigPlain f with mod := f.mod.toNat < 4, d := f.d.isIn [.s] }
  | 0xD0 => { sigPlain f with d := f.d.isIn [.pair] }
  | 0xD1 => { sigPlain f with d := f.d.isIn [.s] }
  | 0xD2 => { sigPlain f with
      var := f.var.toNat < 2, ty := f.ty.isStamped, d := f.d.isIn [.s], a := f.a.isIn [.s]
      b := f.b.isIn clsUL, x := statusByte f.x, se := true, rel := sn }
  | 0xD3 => { sigPlain f with
      var := f.var.toNat < 2, ty := f.ty.isStamped, d := f.d.isIn [.v, .s] && f.d.evenIf f.ty.is64
      a := f.a.isIn [.s], b := f.b.isIn clsUL, x := statusByte f.x, se := true, rel := sn }
  | 0xD4 => { sigPlain f with d := f.d.isIn [.s, .zero], b := f.b.isIn clsUL }
  | 0xE0 => { sigPlain f with
      var := f.var.toNat < 4, d := f.d.isIn [.s]
      b := match f.var.toNat with
        | 2 => f.b.isIn clsU
        | 3 => immTo f.b 3
        | _ => f.b.isIn [.none] }
  | 0xE1 => { sigPlain f with var := f.var.toNat < 2, b := immTo f.b 3 }
  | 0xE2 => { sigPlain f with d := f.d.isIn [.s, .zero], a := f.a.isIn [.s], b := f.b.isIn clsUL }
  | 0xE3 | 0xE5 => { sigPlain f with d := f.d.isIn [.s], b := f.b.isIn clsUL }
  | 0xE4 => { sigPlain f with d := f.d.isIn [.s], b := immTo f.b 5 }
  | _ => sigPlain f

/-- The static checks of a word with major opcode `op` (R37). -/
def sig (op : Nat) (f : Fields) : Sig :=
  match op / 16 with
  | 0 | 1 => sigControl op f
  | 2 | 3 => sigIntBit op f
  | 4 => sigCompare op f
  | 5 | 6 => sigFloat op f
  | 7 | 8 => sigCrossMem op f
  | 9 => sigAtomic op f
  | 10 | 11 => sigCluster op f
  | _ => sigUpper op f

/-- The static checks of BRA, CALL, REFILL and SPANQ (R34, R145). -/
def offSig (op : Nat) (f : OffFields) : Bool :=
  (if op = 0x15 then f.d.isIn [.s] else f.d.isIn [.none]) && !f.h.se

end Sys2Proof
end

