-- ==== Sys2Proof/WellFormed.lean ====
section
/-! DEFINITION. Well-formedness: an instruction is well-formed when its word would pass every static check
of R37. An event has no word and is always well-formed. -/

namespace Sys2Proof

/-- The major opcode and fields of an instruction with operand codes (R42). -/
def Instr.word : Instr → Option (Nat × Fields)
  | .nop f => some (0x00, f)
  | .brx f => some (0x02, f)
  | .ret f => some (0x04, f)
  | .exit f => some (0x05, f)
  | .yield f => some (0x06, f)
  | .rep f => some (0x07, f)
  | .trap f => some (0x08, f)
  | .brk f => some (0x09, f)
  | .rte f => some (0x0A, f)
  | .mfsr f => some (0x0B, f)
  | .mtsr f => some (0x0C, f)
  | .waitk f => some (0x0D, f)
  | .split f => some (0x10, f)
  | .join f => some (0x11, f)
  | .bmark f => some (0x13, f)
  | .rjoin f => some (0x14, f)
  | .rgrow f => some (0x16, f)
  | .form f => some (0x17, f)
  | .iadd f => some (0x20, f)
  | .isub f => some (0x21, f)
  | .imul f => some (0x22, f)
  | .imad f => some (0x23, f)
  | .idiv f => some (0x24, f)
  | .irem f => some (0x25, f)
  | .imin f => some (0x26, f)
  | .imax f => some (0x27, f)
  | .iabs f => some (0x28, f)
  | .ineg f => some (0x29, f)
  | .iaddx f => some (0x2A, f)
  | .and f => some (0x30, f)
  | .or f => some (0x31, f)
  | .xor f => some (0x32, f)
  | .not f => some (0x33, f)
  | .andn f => some (0x34, f)
  | .shl f => some (0x35, f)
  | .shr f => some (0x36, f)
  | .rot f => some (0x37, f)
  | .bfx f => some (0x38, f)
  | .bfi f => some (0x39, f)
  | .popc f => some (0x3A, f)
  | .clz f => some (0x3B, f)
  | .brev f => some (0x3C, f)
  | .prm f => some (0x3D, f)
  | .icmp f => some (0x40, f)
  | .fcmp f => some (0x41, f)
  | .sel f => some (0x42, f)
  | .mov f => some (0x43, f)
  | .plog f => some (0x44, f)
  | .pmov f => some (0x45, f)
  | .fadd f => some (0x50, f)
  | .fsub f => some (0x51, f)
  | .fmul f => some (0x52, f)
  | .ffma f => some (0x53, f)
  | .fmin f => some (0x54, f)
  | .fmax f => some (0x55, f)
  | .fsgn f => some (0x56, f)
  | .fclass f => some (0x57, f)
  | .frnd f => some (0x58, f)
  | .frcp f => some (0x60, f)
  | .frsq f => some (0x61, f)
  | .fsqrt f => some (0x62, f)
  | .fdiv f => some (0x63, f)
  | .fexp2 f => some (0x64, f)
  | .flog2 f => some (0x65, f)
  | .fsin f => some (0x66, f)
  | .fcos f => some (0x67, f)
  | .cvt f => some (0x68, f)
  | .pack f => some (0x69, f)
  | .unpk f => some (0x6A, f)
  | .sclb f => some (0x6B, f)
  | .shfl f => some (0x70, f)
  | .vote f => some (0x71, f)
  | .rdx f => some (0x72, f)
  | .scan f => some (0x73, f)
  | .elect f => some (0x74, f)
  | .rndx f => some (0x78, f)
  | .ld f => some (0x80, f)
  | .st f => some (0x81, f)
  | .pref f => some (0x82, f)
  | .crng f => some (0x83, f)
  | .fence f => some (0x84, f)
  | .atom f => some (0x90, f)
  | .cas f => some (0x91, f)
  | .red f => some (0x92, f)
  | .lkrd f => some (0x93, f)
  | .lkwr f => some (0x94, f)
  | .ulrd f => some (0x95, f)
  | .ulwr f => some (0x96, f)
  | .cpy f => some (0xA0, f)
  | .chain f => some (0xA1, f)
  | .chq f => some (0xA2, f)
  | .mcst f => some (0xA3, f)
  | .ainit f => some (0xA4, f)
  | .arv f => some (0xA5, f)
  | .await f => some (0xA6, f)
  | .mma f => some (0xB0, f)
  | .mmas f => some (0xB1, f)
  | .mzero f => some (0xB2, f)
  | .mldc f => some (0xB3, f)
  | .msto f => some (0xB4, f)
  | .mfen f => some (0xB5, f)
  | .mprg f => some (0xB6, f)
  | .barg f => some (0xC0, f)
  | .grpq f => some (0xC1, f)
  | .sendg f => some (0xC2, f)
  | .offer f => some (0xC3, f)
  | .wdraw f => some (0xC4, f)
  | .recv f => some (0xC5, f)
  | .qstat f => some (0xC6, f)
  | .time f => some (0xD0, f)
  | .tunc f => some (0xD1, f)
  | .sts f => some (0xD2, f)
  | .ldat f => some (0xD3, f)
  | .twait f => some (0xD4, f)
  | .enrg f => some (0xE0, f)
  | .emark f => some (0xE1, f)
  | .spawn f => some (0xE2, f)
  | .grow f => some (0xE3, f)
  | .lnq f => some (0xE4, f)
  | .pstat f => some (0xE5, f)
  | .bra _ => none
  | .call _ => none
  | .refill _ => none
  | .spanq _ => none
  | .illegalWord => none
  | .trapSlotGrant _ => none
  | .tokenOperationComplete _ => none
  | .activeSetPromote _ => none
  | .overdueReplace _ => none
  | .joinTimeout _ => none
  | .spaceWaiterSpill _ => none
  | .spilledContextReturn _ => none
  | .remainderStrandForm _ => none
  | .matrixEngineExecute _ => none
  | .matrixRowGroup _ => none
  | .matrixInstructionComplete _ => none
  | .multicastComplete _ => none
  | .copySegment _ => none
  | .transferComplete _ => none
  | .chainRecord _ _ => none
  | .translationWalk _ _ _ _ _ => none
  | .shootdown _ _ _ => none
  | .l1Eviction _ _ => none
  | .l2Eviction _ _ => none
  | .deltaFlush _ _ => none
  | .commandTake _ => none
  | .dependenceRecheck => none
  | .nopCommand _ => none
  | .launch _ => none
  | .mark _ => none
  | .kill _ => none
  | .checkpoint _ => none
  | .restore _ => none
  | .resolve _ => none
  | .refuse _ => none
  | .vfacct _ => none
  | .partition _ => none
  | .preemptvf _ => none
  | .procwt _ => none
  | .queueTailWrite _ _ _ => none
  | .queueDescriptorWrite _ _ => none
  | .rangePlace _ => none
  | .rangeRetire _ => none
  | .launchEnd _ => none
  | .barrierArrivalMessage _ => none
  | .barrierRelease _ _ => none
  | .barrierRangeSave _ => none
  | .rangeRestore _ => none
  | .chargePost _ => none
  | .vfStopped _ => none
  | .accountingWindowEnd _ _ => none
  | .sliceEnd _ => none
  | .blockError _ _ => none
  | .selfTest _ _ _ => none
  | .machineCheck _ _ => none
  | .calibrationLoad _ _ => none
  | .freeze => none
  | .packageReset _ => none
  | .recoveryImage _ _ => none
  | .attestationRequest _ => none
  | .meridianTick => none
  | .timingFlitSend _ => none
  | .timingFlit _ _ _ => none
  | .referenceInput _ _ => none
  | .oscillatorDisagreement => none
  | .standbyTakeover _ => none
  | .stsCommit _ => none
  | .stsRecordArrival _ => none
  | .stsStatusReturn _ _ => none
  | .recordFold _ => none
  | .ldatAnswer _ _ => none
  | .twaitWake _ => none
  | .flitReceive _ _ => none
  | .resendRequest _ _ => none
  | .laneErasure _ _ => none
  | .portDown _ => none
  | .linkTraining _ _ => none
  | .pauseUpdate _ _ => none
  | .keyStage _ => none
  | .keyExhausted _ => none
  | .keyTimeout _ => none
  | .remoteRequest _ => none
  | .transactionResend _ => none
  | .nodeFailed _ => none
  | .writeBackMerge _ _ _ _ => none
  | .invalidation _ => none
  | .collapse _ _ _ _ => none
  | .ownershipRequest _ _ _ => none
  | .readinessReport _ _ _ _ _ => none
  | .messageSteer _ _ => none
  | .messageTake _ => none
  | .parkedWake _ => none
  | .sendStatusReturn _ _ => none
  | .cxlResponse _ _ _ => none
  | .cxlTimeout _ => none
  | .rmaWrite _ _ _ _ => none
  | .rmaRead _ _ _ _ => none
  | .unsupportedOperation _ => none
  | .notificationHeadWrite _ _ => none
  | .registerWrite _ => none
  | .periodStart _ => none
  | .tokenOutstandingBeyond64Cycles _ => none
  | .serviceCoreFailure => none
  | .cxlRangeConfiguration _ => none

/-- The major opcode and fields of an instruction with a word offset (R34). -/
def Instr.offWord : Instr → Option (Nat × OffFields)
  | .bra f => some (0x01, f)
  | .call f => some (0x03, f)
  | .refill f => some (0x12, f)
  | .spanq f => some (0x15, f)
  | .nop _ => none
  | .brx _ => none
  | .ret _ => none
  | .exit _ => none
  | .yield _ => none
  | .rep _ => none
  | .trap _ => none
  | .brk _ => none
  | .rte _ => none
  | .mfsr _ => none
  | .mtsr _ => none
  | .waitk _ => none
  | .split _ => none
  | .join _ => none
  | .bmark _ => none
  | .rjoin _ => none
  | .rgrow _ => none
  | .form _ => none
  | .iadd _ => none
  | .isub _ => none
  | .imul _ => none
  | .imad _ => none
  | .idiv _ => none
  | .irem _ => none
  | .imin _ => none
  | .imax _ => none
  | .iabs _ => none
  | .ineg _ => none
  | .iaddx _ => none
  | .and _ => none
  | .or _ => none
  | .xor _ => none
  | .not _ => none
  | .andn _ => none
  | .shl _ => none
  | .shr _ => none
  | .rot _ => none
  | .bfx _ => none
  | .bfi _ => none
  | .popc _ => none
  | .clz _ => none
  | .brev _ => none
  | .prm _ => none
  | .icmp _ => none
  | .fcmp _ => none
  | .sel _ => none
  | .mov _ => none
  | .plog _ => none
  | .pmov _ => none
  | .fadd _ => none
  | .fsub _ => none
  | .fmul _ => none
  | .ffma _ => none
  | .fmin _ => none
  | .fmax _ => none
  | .fsgn _ => none
  | .fclass _ => none
  | .frnd _ => none
  | .frcp _ => none
  | .frsq _ => none
  | .fsqrt _ => none
  | .fdiv _ => none
  | .fexp2 _ => none
  | .flog2 _ => none
  | .fsin _ => none
  | .fcos _ => none
  | .cvt _ => none
  | .pack _ => none
  | .unpk _ => none
  | .sclb _ => none
  | .shfl _ => none
  | .vote _ => none
  | .rdx _ => none
  | .scan _ => none
  | .elect _ => none
  | .rndx _ => none
  | .ld _ => none
  | .st _ => none
  | .pref _ => none
  | .crng _ => none
  | .fence _ => none
  | .atom _ => none
  | .cas _ => none
  | .red _ => none
  | .lkrd _ => none
  | .lkwr _ => none
  | .ulrd _ => none
  | .ulwr _ => none
  | .cpy _ => none
  | .chain _ => none
  | .chq _ => none
  | .mcst _ => none
  | .ainit _ => none
  | .arv _ => none
  | .await _ => none
  | .mma _ => none
  | .mmas _ => none
  | .mzero _ => none
  | .mldc _ => none
  | .msto _ => none
  | .mfen _ => none
  | .mprg _ => none
  | .barg _ => none
  | .grpq _ => none
  | .sendg _ => none
  | .offer _ => none
  | .wdraw _ => none
  | .recv _ => none
  | .qstat _ => none
  | .time _ => none
  | .tunc _ => none
  | .sts _ => none
  | .ldat _ => none
  | .twait _ => none
  | .enrg _ => none
  | .emark _ => none
  | .spawn _ => none
  | .grow _ => none
  | .lnq _ => none
  | .pstat _ => none
  | .illegalWord => none
  | .trapSlotGrant _ => none
  | .tokenOperationComplete _ => none
  | .activeSetPromote _ => none
  | .overdueReplace _ => none
  | .joinTimeout _ => none
  | .spaceWaiterSpill _ => none
  | .spilledContextReturn _ => none
  | .remainderStrandForm _ => none
  | .matrixEngineExecute _ => none
  | .matrixRowGroup _ => none
  | .matrixInstructionComplete _ => none
  | .multicastComplete _ => none
  | .copySegment _ => none
  | .transferComplete _ => none
  | .chainRecord _ _ => none
  | .translationWalk _ _ _ _ _ => none
  | .shootdown _ _ _ => none
  | .l1Eviction _ _ => none
  | .l2Eviction _ _ => none
  | .deltaFlush _ _ => none
  | .commandTake _ => none
  | .dependenceRecheck => none
  | .nopCommand _ => none
  | .launch _ => none
  | .mark _ => none
  | .kill _ => none
  | .checkpoint _ => none
  | .restore _ => none
  | .resolve _ => none
  | .refuse _ => none
  | .vfacct _ => none
  | .partition _ => none
  | .preemptvf _ => none
  | .procwt _ => none
  | .queueTailWrite _ _ _ => none
  | .queueDescriptorWrite _ _ => none
  | .rangePlace _ => none
  | .rangeRetire _ => none
  | .launchEnd _ => none
  | .barrierArrivalMessage _ => none
  | .barrierRelease _ _ => none
  | .barrierRangeSave _ => none
  | .rangeRestore _ => none
  | .chargePost _ => none
  | .vfStopped _ => none
  | .accountingWindowEnd _ _ => none
  | .sliceEnd _ => none
  | .blockError _ _ => none
  | .selfTest _ _ _ => none
  | .machineCheck _ _ => none
  | .calibrationLoad _ _ => none
  | .freeze => none
  | .packageReset _ => none
  | .recoveryImage _ _ => none
  | .attestationRequest _ => none
  | .meridianTick => none
  | .timingFlitSend _ => none
  | .timingFlit _ _ _ => none
  | .referenceInput _ _ => none
  | .oscillatorDisagreement => none
  | .standbyTakeover _ => none
  | .stsCommit _ => none
  | .stsRecordArrival _ => none
  | .stsStatusReturn _ _ => none
  | .recordFold _ => none
  | .ldatAnswer _ _ => none
  | .twaitWake _ => none
  | .flitReceive _ _ => none
  | .resendRequest _ _ => none
  | .laneErasure _ _ => none
  | .portDown _ => none
  | .linkTraining _ _ => none
  | .pauseUpdate _ _ => none
  | .keyStage _ => none
  | .keyExhausted _ => none
  | .keyTimeout _ => none
  | .remoteRequest _ => none
  | .transactionResend _ => none
  | .nodeFailed _ => none
  | .writeBackMerge _ _ _ _ => none
  | .invalidation _ => none
  | .collapse _ _ _ _ => none
  | .ownershipRequest _ _ _ => none
  | .readinessReport _ _ _ _ _ => none
  | .messageSteer _ _ => none
  | .messageTake _ => none
  | .parkedWake _ => none
  | .sendStatusReturn _ _ => none
  | .cxlResponse _ _ _ => none
  | .cxlTimeout _ => none
  | .rmaWrite _ _ _ _ => none
  | .rmaRead _ _ _ _ => none
  | .unsupportedOperation _ => none
  | .notificationHeadWrite _ _ => none
  | .registerWrite _ => none
  | .periodStart _ => none
  | .tokenOutstandingBeyond64Cycles _ => none
  | .serviceCoreFailure => none
  | .cxlRangeConfiguration _ => none

/-- Every static check of the word passes (R37). -/
def Sig.ok (g : Sig) : Bool := g.var && g.ty && g.mod && g.d && g.a && g.b && g.x && g.se && g.rel

/-- An instruction whose word is legal as far as the word alone decides (R37). -/
def Instr.wf (i : Instr) : Bool :=
  match i.word, i.offWord with
  | some (op, f), _ => (sig op f).ok
  | _, some (op, f) => offSig op f
  | none, none => true

/-- Is this an instruction of R42 (and not an event)? -/
def Instr.isWord (i : Instr) : Bool := i.word.isSome || i.offWord.isSome

end Sys2Proof
end

