-- ==== Sys2Proof/Decode.lean ====
section
/-! DEFINITION. The decoder of instruction words (R23 to R43), total on any bytes, and the encoder. -/

namespace Sys2Proof

/-- Why bytes are no instruction: the items of R37, and too few bytes. -/
inductive DecodeError where
  | short | opcode | variant | type | operand | modifier | literal | bit95 | token | aux
  deriving DecidableEq, Repr

/-- The value of bytes, least significant first. -/
def leVal : List Byte → Nat
  | [] => 0
  | b :: bs => b.toNat + 256 * leVal bs

/-- The `n` bytes of a value, least significant first. -/
def leBytes : Nat → Nat → List Byte
  | 0, _ => []
  | n + 1, v => BitVec.ofNat 8 v :: leBytes n (v / 256)

/-- The special operand with a code offset (R30). -/
def Special.ofCode : Nat → Special
  | 0 => .ix | 1 => .lane | 2 => .n | 3 => .w | 4 => .core | 5 => .clu | 6 => .die | 7 => .pkg
  | 8 => .job | _ => .lc

/-- The code offset of a special operand (R30). -/
def Special.code : Special → Nat
  | .ix => 0 | .lane => 1 | .n => 2 | .w => 3 | .core => 4 | .clu => 5 | .die => 6 | .pkg => 7
  | .job => 8 | .lc => 9

/-- The operand with a 12-bit code, given the literal if there is one (R26, R28). -/
def Opnd.ofCode (c : Nat) (lit : Option W64) : Option Opnd :=
  if c < 0x100 then some (.v (BitVec.ofNat 8 c))
  else if c < 0x140 then some (.s (BitVec.ofNat 6 (c - 0x100)))
  else if c < 0x148 then some (.p (BitVec.ofNat 3 (c - 0x140)))
  else if c < 0x14C then some (.q (BitVec.ofNat 2 (c - 0x148)))
  else if c < 0x154 then some (.k (BitVec.ofNat 3 (c - 0x14C)))
  else if c < 0x158 then some (.b (BitVec.ofNat 2 (c - 0x154)))
  else if c < 0x160 then none
  else if c < 0x170 then some (.a (BitVec.ofNat 4 (c - 0x160)))
  else if c < 0x180 then some (.ac (BitVec.ofNat 4 (c - 0x170)))
  else if c < 0x18A then some (.sp (Special.ofCode (c - 0x180)))
  else if c < 0x18E then none
  else if c < 0x18F then lit.map .lit
  else if c < 0x190 then some .zero
  else if c < 0x800 then none
  else some (.imm (BitVec.ofNat 11 c))

/-- The 12-bit code of an operand (R28). -/
def Opnd.code : Opnd → Nat
  | .v r => r.toNat
  | .s r => 0x100 + r.toNat
  | .p r => 0x140 + r.toNat
  | .q r => 0x148 + r.toNat
  | .k r => 0x14C + r.toNat
  | .b r => 0x154 + r.toNat
  | .a r => 0x160 + r.toNat
  | .ac r => 0x170 + r.toNat
  | .sp x => 0x180 + x.code
  | .lit _ => 0x18E
  | .zero => 0x18F
  | .imm i => 0x800 + i.toNat

/-- Bits `lo` to `lo + n - 1` of a word. -/
def fieldOf (w lo n : Nat) : Nat := w / 2 ^ lo % 2 ^ n

/-- The hints of a word (R24). -/
def Hints.ofWord (w : Nat) : Hints :=
  { setk := BitVec.ofNat 3 (fieldOf w 72 3), se := fieldOf w 75 1 == 1
    waitm := BitVec.ofNat 8 (fieldOf w 76 8)
    holda := fieldOf w 84 1 == 1, holdb := fieldOf w 85 1 == 1
    rd := BitVec.ofNat 3 (fieldOf w 86 3), stall := BitVec.ofNat 4 (fieldOf w 89 4)
    yld := fieldOf w 93 1 == 1 }

/-- Bits 94:72 of a word, less LIT. -/
def Hints.code (h : Hints) : Nat :=
  h.setk.toNat + h.se.toNat * 2 ^ 3 + h.waitm.toNat * 2 ^ 4 + h.holda.toNat * 2 ^ 12 +
  h.holdb.toNat * 2 ^ 13 + h.rd.toNat * 2 ^ 14 + h.stall.toNat * 2 ^ 17 + h.yld.toNat * 2 ^ 21

/-- The guard of a word (R23). -/
def Guard.ofWord (w : Nat) : Guard :=
  { neg := fieldOf w 19 1 == 1, p := BitVec.ofNat 3 (fieldOf w 16 3) }

/-- Bits 19:16. -/
def Guard.code (g : Guard) : Nat := g.p.toNat + g.neg.toNat * 8

/-- The word whose literal flag is `lit` (R23). -/
def Fields.toWord (op : Nat) (f : Fields) (lit : Bool) : Nat :=
  op + f.var.toNat * 2 ^ 8 + f.ty.code * 2 ^ 12 + f.g.code * 2 ^ 16 + f.mod.toNat * 2 ^ 20 +
  f.d.code * 2 ^ 28 + f.a.code * 2 ^ 40 + f.b.code * 2 ^ 52 + f.x.toNat * 2 ^ 64 +
  f.h.code * 2 ^ 72 + lit.toNat * 2 ^ 94

/-- The word of BRA, CALL, REFILL or SPANQ (R34). -/
def OffFields.toWord (op : Nat) (f : OffFields) : Nat :=
  op + f.g.code * 2 ^ 16 + f.d.code * 2 ^ 28 + f.off.toNat * 2 ^ 40 + f.h.code * 2 ^ 72

/-- The fields of a word (R23), or none when an operand code is reserved. -/
def Fields.ofWord (w : Nat) (lit : Option W64) : Option Fields :=
  match Opnd.ofCode (fieldOf w 28 12) none, Opnd.ofCode (fieldOf w 40 12) none,
      Opnd.ofCode (fieldOf w 52 12) lit with
  | some d, some a, some b => some
    { var := BitVec.ofNat 4 (fieldOf w 8 4), ty := Ty.ofCode (fieldOf w 12 4), g := Guard.ofWord w
      mod := BitVec.ofNat 8 (fieldOf w 20 8), d := d, a := a, b := b
      x := BitVec.ofNat 8 (fieldOf w 64 8), h := Hints.ofWord w }
  | _, _, _ => none

/-- The instruction with a major opcode and fields, less the four of R34 (R42). -/
def Instr.ofWord (op : Nat) (f : Fields) : Option Instr :=
  match op / 16, op % 16 with
  | 0, 0 => some (.nop f)
  | 0, 2 => some (.brx f)
  | 0, 4 => some (.ret f)
  | 0, 5 => some (.exit f)
  | 0, 6 => some (.yield f)
  | 0, 7 => some (.rep f)
  | 0, 8 => some (.trap f)
  | 0, 9 => some (.brk f)
  | 0, 10 => some (.rte f)
  | 0, 11 => some (.mfsr f)
  | 0, 12 => some (.mtsr f)
  | 0, 13 => some (.waitk f)
  | 1, 0 => some (.split f)
  | 1, 1 => some (.join f)
  | 1, 3 => some (.bmark f)
  | 1, 4 => some (.rjoin f)
  | 1, 6 => some (.rgrow f)
  | 1, 7 => some (.form f)
  | 2, 0 => some (.iadd f)
  | 2, 1 => some (.isub f)
  | 2, 2 => some (.imul f)
  | 2, 3 => some (.imad f)
  | 2, 4 => some (.idiv f)
  | 2, 5 => some (.irem f)
  | 2, 6 => some (.imin f)
  | 2, 7 => some (.imax f)
  | 2, 8 => some (.iabs f)
  | 2, 9 => some (.ineg f)
  | 2, 10 => some (.iaddx f)
  | 3, 0 => some (.and f)
  | 3, 1 => some (.or f)
  | 3, 2 => some (.xor f)
  | 3, 3 => some (.not f)
  | 3, 4 => some (.andn f)
  | 3, 5 => some (.shl f)
  | 3, 6 => some (.shr f)
  | 3, 7 => some (.rot f)
  | 3, 8 => some (.bfx f)
  | 3, 9 => some (.bfi f)
  | 3, 10 => some (.popc f)
  | 3, 11 => some (.clz f)
  | 3, 12 => some (.brev f)
  | 3, 13 => some (.prm f)
  | 4, 0 => some (.icmp f)
  | 4, 1 => some (.fcmp f)
  | 4, 2 => some (.sel f)
  | 4, 3 => some (.mov f)
  | 4, 4 => some (.plog f)
  | 4, 5 => some (.pmov f)
  | 5, 0 => some (.fadd f)
  | 5, 1 => some (.fsub f)
  | 5, 2 => some (.fmul f)
  | 5, 3 => some (.ffma f)
  | 5, 4 => some (.fmin f)
  | 5, 5 => some (.fmax f)
  | 5, 6 => some (.fsgn f)
  | 5, 7 => some (.fclass f)
  | 5, 8 => some (.frnd f)
  | 6, 0 => some (.frcp f)
  | 6, 1 => some (.frsq f)
  | 6, 2 => some (.fsqrt f)
  | 6, 3 => some (.fdiv f)
  | 6, 4 => some (.fexp2 f)
  | 6, 5 => some (.flog2 f)
  | 6, 6 => some (.fsin f)
  | 6, 7 => some (.fcos f)
  | 6, 8 => some (.cvt f)
  | 6, 9 => some (.pack f)
  | 6, 10 => some (.unpk f)
  | 6, 11 => some (.sclb f)
  | 7, 0 => some (.shfl f)
  | 7, 1 => some (.vote f)
  | 7, 2 => some (.rdx f)
  | 7, 3 => some (.scan f)
  | 7, 4 => some (.elect f)
  | 7, 8 => some (.rndx f)
  | 8, 0 => some (.ld f)
  | 8, 1 => some (.st f)
  | 8, 2 => some (.pref f)
  | 8, 3 => some (.crng f)
  | 8, 4 => some (.fence f)
  | 9, 0 => some (.atom f)
  | 9, 1 => some (.cas f)
  | 9, 2 => some (.red f)
  | 9, 3 => some (.lkrd f)
  | 9, 4 => some (.lkwr f)
  | 9, 5 => some (.ulrd f)
  | 9, 6 => some (.ulwr f)
  | 10, 0 => some (.cpy f)
  | 10, 1 => some (.chain f)
  | 10, 2 => some (.chq f)
  | 10, 3 => some (.mcst f)
  | 10, 4 => some (.ainit f)
  | 10, 5 => some (.arv f)
  | 10, 6 => some (.await f)
  | 11, 0 => some (.mma f)
  | 11, 1 => some (.mmas f)
  | 11, 2 => some (.mzero f)
  | 11, 3 => some (.mldc f)
  | 11, 4 => some (.msto f)
  | 11, 5 => some (.mfen f)
  | 11, 6 => some (.mprg f)
  | 12, 0 => some (.barg f)
  | 12, 1 => some (.grpq f)
  | 12, 2 => some (.sendg f)
  | 12, 3 => some (.offer f)
  | 12, 4 => some (.wdraw f)
  | 12, 5 => some (.recv f)
  | 12, 6 => some (.qstat f)
  | 13, 0 => some (.time f)
  | 13, 1 => some (.tunc f)
  | 13, 2 => some (.sts f)
  | 13, 3 => some (.ldat f)
  | 13, 4 => some (.twait f)
  | 14, 0 => some (.enrg f)
  | 14, 1 => some (.emark f)
  | 14, 2 => some (.spawn f)
  | 14, 3 => some (.grow f)
  | 14, 4 => some (.lnq f)
  | 14, 5 => some (.pstat f)
  | _, _ => none

/-- The four instructions with a word offset (R34). -/
def Instr.ofOffWord (op : Nat) (f : OffFields) : Option Instr :=
  match op with
  | 0x01 => some (.bra f)
  | 0x03 => some (.call f)
  | 0x12 => some (.refill f)
  | 0x15 => some (.spanq f)
  | _ => none

/-- The static check that fails first, in the order of R37 (the order is the model's: every failure raises
the same ILLEGAL). -/
def Sig.error (g : Sig) : DecodeError :=
  if !g.var then .variant else if !g.ty then .type else if !(g.d && g.a && g.b && g.rel) then .operand
  else if !g.mod then .modifier else if !g.se then .token else .aux

/-- Decodes a word with its literal word, if LIT is set (R26, R27, R37). -/
def decodeWord (w : Nat) (lit : Option Nat) : Except DecodeError Instr :=
  let op := fieldOf w 0 8
  if fieldOf w 95 1 == 1 then .error .bit95
  else if [0x01, 0x03, 0x12, 0x15].contains op then
    if fieldOf w 94 1 == 1 then .error .literal
    else if fieldOf w 8 4 != 0 then .error .variant
    else if fieldOf w 12 4 != 0 then .error .type
    else if fieldOf w 20 8 != 0 then .error .modifier
    else if fieldOf w 64 8 != 0 then .error .aux
    else match Opnd.ofCode (fieldOf w 28 12) none with
      | none => .error .operand
      | some d =>
        let f : OffFields :=
          { g := Guard.ofWord w, d := d, off := BitVec.ofNat 24 (fieldOf w 40 24), h := Hints.ofWord w }
        match Instr.ofOffWord op f with
        | none => .error .opcode
        | some i => if offSig op f then .ok i else .error .operand
  else if (fieldOf w 94 1 == 1) != (fieldOf w 52 12 == 0x18E) then .error .literal
  else if lit.any (fun l => l / 2 ^ 64 != 0) then .error .literal
  else match Fields.ofWord w (lit.map (BitVec.ofNat 64)) with
    | none => .error .operand
    | some f => match Instr.ofWord op f with
      | none => .error .opcode
      | some i => if (sig op f).ok then .ok i else .error (sig op f).error

/-- LIT is set, so a literal word follows (R26). -/
def hasLit (w : Nat) : Bool := fieldOf w 94 1 == 1

/-- Decodes the first instruction of the bytes, and gives the bytes that follow it (R26). -/
def decode (bs : List Byte) : Except DecodeError (Instr × List Byte) :=
  if bs.length < 12 then .error .short
  else
    let w := leVal (bs.take 12)
    if hasLit w then
      if bs.length < 24 then .error .short
      else (decodeWord w (some (leVal ((bs.drop 12).take 12)))).map (·, bs.drop 24)
    else (decodeWord w none).map (·, bs.drop 12)

/-- The literal of an instruction (R26). -/
def Instr.literal (i : Instr) : Option W64 :=
  match i.word with
  | some (_, f) => (match f.b with | .lit x => some x | _ => none)
  | none => none

/-- The number of words of an instruction (R26). -/
def Instr.words (i : Instr) : Nat := if i.literal.isSome then 2 else 1

/-- The bytes of a well-formed instruction; none for an event. -/
def encode (i : Instr) : List Byte :=
  match i.word, i.offWord with
  | some (op, f), _ =>
    (match i.literal with
    | some x => leBytes 12 (f.toWord op true) ++ leBytes 12 x.toNat
    | none => leBytes 12 (f.toWord op false))
  | none, some (op, f) => leBytes 12 (f.toWord op)
  | none, none => []

/-- The instruction the decoder reads from an instruction of `nbits` bits (bit 0 is bit 0 of the first
word; every higher bit is 0). -/
def decodeTableWord (nbits w : Nat) : Option Instr :=
  match decode (leBytes 24 (w % 2 ^ nbits)) with
  | .ok (i, _) => some i
  | .error _ => none

end Sys2Proof
end

