-- ==== Sys2Proof/Machine/Numbers.lean ====
section
/-! DEFINITION. The number formats of spec/03: integers (R44, R45), binary formats as exact dyadic numbers with
one rounding (R46 to R51), NX4 blocks (R52 to R55), A80 (R59) and the conversion rules (R60). -/

namespace Sys2Proof

/-! ## Integers -/

/-- The value of the low `w` bits of `x`, as a signed number when `sg` (R44). -/
def intOf (sg : Bool) (w : Nat) (x : Nat) : Int :=
  let u := x % 2 ^ w
  if sg && 2 ^ w ≤ 2 * u then (u : Int) - (2 ^ w : Nat) else u

/-- The low `w` bits of an integer (R45). -/
def wrapN (w : Nat) (x : Int) : Nat := (x % ((2 ^ w : Nat) : Int)).toNat

/-- The value of a source of an integer type (R44, R77). -/
def Ty.intVal (t : Ty) (x : W64) : Int := intOf t.signed t.width x.toNat

/-- A `w`-bit result as an item register or pair holds it: 16-bit and 8-bit types extended to 32 bits
(R44, R46). -/
def regBits (t : Ty) (n : Nat) : W64 :=
  match t with
  | .s16 => BitVec.ofNat 64 (wrapN 32 (intOf true 16 n))
  | _ => BitVec.ofNat 64 (n % 2 ^ t.width)

/-- A `w`-bit result as a scalar holds it: s32 and s16 sign-extended, others zero-extended (R76). -/
def scalBits (t : Ty) (n : Nat) : W64 :=
  match t with
  | .s16 => BitVec.ofInt 64 (intOf true 16 n)
  | .s32 => BitVec.ofInt 64 (intOf true 32 n)
  | _ => BitVec.ofNat 64 (n % 2 ^ t.width)

/-! ## Exact values of binary formats -/

/-- The rounding modes (R48). -/
inductive Rnd where
  | rne | rz | rd | ru
  deriving DecidableEq, Repr

/-- MOD bits 21:20 (R32). -/
def Rnd.ofCode (n : Nat) : Rnd :=
  match n % 4 with
  | 0 => .rne | 1 => .rz | 2 => .rd | _ => .ru

/-- An exact value: NaN, an infinity, or (-1)^neg × m × 2^e, where m = 0 is a signed zero (R47). -/
inductive Exact where
  | nan
  | inf (neg : Bool)
  | fin (neg : Bool) (m : Nat) (e : Int)
  deriving DecidableEq, Repr

/-- The parameters of a format (R46, R51, R59): fraction bits, bias, the largest finite exponent and
fraction fields, whether it has infinities, the canonical NaN, and its width. -/
structure Fmt where
  fb : Nat
  bias : Nat
  maxE : Nat
  maxF : Nat
  hasInf : Bool
  nan : Nat
  w : Nat
  deriving DecidableEq, Repr

def fmtF32 : Fmt := ⟨23, 127, 254, 2 ^ 23 - 1, true, 0x7FC00000, 32⟩
def fmtF64 : Fmt := ⟨52, 1023, 2046, 2 ^ 52 - 1, true, 0x7FF8000000000000, 64⟩
def fmtF16 : Fmt := ⟨10, 15, 30, 2 ^ 10 - 1, true, 0x7E00, 16⟩
def fmtBf16 : Fmt := ⟨7, 127, 254, 2 ^ 7 - 1, true, 0x7FC0, 16⟩
def fmtE4m3 : Fmt := ⟨3, 7, 15, 6, false, 0x7F, 8⟩
def fmtE5m2 : Fmt := ⟨2, 15, 30, 3, true, 0x7E, 8⟩
def fmtA80 : Fmt := ⟨64, 16383, 32766, 2 ^ 64 - 1, true, 0x7FFF8000000000000000, 80⟩

/-- The format of a floating type; f32 for a type that is none. -/
def Ty.fmt (t : Ty) : Fmt :=
  match t with
  | .f64 => fmtF64 | .f16 => fmtF16 | .bf16 => fmtBf16 | .e4m3 => fmtE4m3 | .e5m2 => fmtE5m2
  | _ => fmtF32

/-- Is the type a binary floating format? -/
def Ty.isFloating (t : Ty) : Bool :=
  match t with
  | .f64 | .f32 | .f16 | .bf16 | .e4m3 | .e5m2 => true
  | _ => false

/-- The narrow formats of R60. -/
def Ty.isNarrow (t : Ty) : Bool :=
  match t with
  | .f16 | .bf16 | .e4m3 | .e5m2 => true
  | _ => false

/-- The exponent of the least spacing of a format. -/
def Fmt.qmin (f : Fmt) : Int := 1 - (f.bias : Int) - (f.fb : Int)

/-- The value of a bit pattern (R46, R51, R59). -/
def Fmt.dec (f : Fmt) (x : Nat) : Exact :=
  let neg := x / 2 ^ (f.w - 1) % 2 == 1
  let e := x / 2 ^ f.fb % 2 ^ (f.w - 1 - f.fb)
  let m := x % 2 ^ f.fb
  if e > f.maxE || (e == f.maxE && m > f.maxF) then
    if f.hasInf && m == 0 then .inf neg else .nan
  else if e == 0 then .fin neg m f.qmin
  else .fin neg (m + 2 ^ f.fb) (f.qmin + (e : Int) - 1)

/-- The number of bits of a natural number. -/
def bitLen (n : Nat) : Nat := if n == 0 then 0 else n.log2 + 1

/-- The neighbour of m × 2^e that the mode picks, on the grid of spacing 2^q (R48 item 2). -/
def toGrid (neg : Bool) (m : Nat) (e q : Int) (r : Rnd) : Nat :=
  if q ≤ e then m * 2 ^ (e - q).toNat
  else
    let sh := (q - e).toNat
    let far := sh > bitLen m + 1
    let hi := if far then 0 else m / 2 ^ sh
    let lo := if far then min m 1 else m % 2 ^ sh
    let half := if far then 2 else 2 ^ (sh - 1)
    let up :=
      match r with
      | .rne => lo > half || (lo == half && hi % 2 == 1)
      | .rz => false
      | .rd => neg && lo > 0
      | .ru => !neg && lo > 0
    hi + up.toNat

/-- The outcome of rounding: the sign, the integer multiple of 2^q, and q; and whether it overflowed
(R48 item 3). -/
structure Rounded where
  neg : Bool
  m : Nat
  q : Int
  ovf : Bool
  deriving DecidableEq, Repr

/-- Rounds m × 2^e with m nonzero (R48). -/
def Fmt.roundFin (f : Fmt) (r : Rnd) (neg : Bool) (m : Nat) (e : Int) : Rounded :=
  let q := max (e + (bitLen m : Int) - 1 - (f.fb : Int)) f.qmin
  let k := toGrid neg m e q r
  let maxQ := f.qmin + (f.maxE : Int) - 1
  let maxM := 2 ^ f.fb + f.maxF
  let ovf := q > maxQ || (q == maxQ && k > maxM) || (q + 1 == maxQ && k > 2 * maxM)
  ⟨neg, k, q, ovf⟩

/-- The bit pattern of k × 2^q, a value of the format. -/
def Fmt.enc (f : Fmt) (neg : Bool) (k : Nat) (q : Int) : Nat :=
  let s := neg.toNat * 2 ^ (f.w - 1)
  if k < 2 ^ f.fb then s + k
  else if k == 2 ^ (f.fb + 1) then s + ((q - f.qmin).toNat + 2) * 2 ^ f.fb
  else s + ((q - f.qmin).toNat + 1) * 2 ^ f.fb + (k - 2 ^ f.fb)

/-- ±largest finite. -/
def Fmt.maxBits (f : Fmt) (neg : Bool) : Nat :=
  neg.toNat * 2 ^ (f.w - 1) + f.maxE * 2 ^ f.fb + f.maxF

def Fmt.infBits (f : Fmt) (neg : Bool) : Nat :=
  if f.hasInf then neg.toNat * 2 ^ (f.w - 1) + (f.maxE + 1) * 2 ^ f.fb else f.maxBits neg

/-- The IEEE overflow of an arithmetic result (R48 item 3). -/
def Fmt.overBits (f : Fmt) (r : Rnd) (neg : Bool) : Nat :=
  match r with
  | .rne => f.infBits neg
  | .rz => f.maxBits neg
  | .rd => if neg then f.infBits true else f.maxBits false
  | .ru => if neg then f.maxBits true else f.infBits false

/-- Rounds an exact value once (R47, R48): `sat` takes the saturating treatment of a narrow conversion. -/
def Fmt.round (f : Fmt) (sat : Bool) (r : Rnd) : Exact → Nat
  | .nan => f.nan
  | .inf neg => f.infBits neg
  | .fin neg m e =>
    if m == 0 then neg.toNat * 2 ^ (f.w - 1)
    else
      let x := f.roundFin r neg m e
      if x.ovf then (if sat then f.maxBits neg else f.overBits r neg) else f.enc neg x.m x.q

/-- Is a pattern subnormal (R49)? -/
def Fmt.isSub (f : Fmt) (x : Nat) : Bool :=
  x / 2 ^ f.fb % 2 ^ (f.w - 1 - f.fb) == 0 && x % 2 ^ f.fb != 0

/-- Flushes a subnormal pattern to the zero of its sign (R49). -/
def Fmt.flush (f : Fmt) (ftz : Bool) (x : Nat) : Nat :=
  if ftz && f.isSub x then x / 2 ^ (f.w - 1) % 2 * 2 ^ (f.w - 1) else x

/-- .ftz acts on f16, bf16, f32 and f64 only (R49). -/
def Ty.flushes (t : Ty) : Bool :=
  match t with
  | .f16 | .bf16 | .f32 | .f64 => true
  | _ => false

/-- Reads a source of a floating type, flushed when .ftz (R49, R77). -/
def Ty.num (t : Ty) (ftz : Bool) (x : W64) : Exact :=
  t.fmt.dec (t.fmt.flush (ftz && t.flushes) (x.toNat % 2 ^ t.width))

/-- Rounds a result of a floating type, flushed when .ftz (R48, R49). -/
def Ty.result (t : Ty) (sat ftz : Bool) (r : Rnd) (x : Exact) : Nat :=
  t.fmt.flush (ftz && t.flushes) (t.fmt.round sat r x)

/-! ## Exact arithmetic -/

def Exact.neg : Exact → Exact
  | .nan => .nan
  | .inf s => .inf (!s)
  | .fin s m e => .fin (!s) m e

/-- The signed integer multiple of 2^q that a finite value is, for q at most its exponent. -/
def scaled (neg : Bool) (m : Nat) (e q : Int) : Int :=
  let k : Int := (m * 2 ^ (e - q).toNat : Nat)
  if neg then -k else k

/-- The exact sum; the sign of an exact zero follows R50. -/
def Exact.add (r : Rnd) : Exact → Exact → Exact
  | .nan, _ => .nan
  | _, .nan => .nan
  | .inf a, .inf b => if a == b then .inf a else .nan
  | .inf a, _ => .inf a
  | _, .inf b => .inf b
  | .fin sa ma ea, .fin sb mb eb =>
    if ma == 0 then
      if mb == 0 then .fin (if sa == sb then sa else r == .rd) 0 0 else .fin sb mb eb
    else if mb == 0 then .fin sa ma ea
    else
      let q := min ea eb
      let t := scaled sa ma ea q + scaled sb mb eb q
      if t == 0 then .fin (r == .rd) 0 0 else .fin (t < 0) t.natAbs q

/-- The exact product (R101). -/
def Exact.mul : Exact → Exact → Exact
  | .nan, _ => .nan
  | _, .nan => .nan
  | .inf a, .inf b => .inf (a != b)
  | .inf a, .fin sb mb _ => if mb == 0 then .nan else .inf (a != sb)
  | .fin sa ma _, .inf b => if ma == 0 then .nan else .inf (sa != b)
  | .fin sa ma ea, .fin sb mb eb => .fin (sa != sb) (ma * mb) (ea + eb)

/-- a < b for values that are no NaN; −0 equals +0 (R94). -/
def Exact.lt : Exact → Exact → Bool
  | .nan, _ => false
  | _, .nan => false
  | .inf a, .inf b => a && !b
  | .inf a, _ => a
  | _, .inf b => !b
  | .fin sa ma ea, .fin sb mb eb =>
    let q := min ea eb
    if ma == 0 then !sb && mb != 0
    else if mb == 0 then sa
    else scaled sa ma ea q < scaled sb mb eb q

def Exact.isNan : Exact → Bool
  | .nan => true
  | _ => false

/-- Equality of values (R94). -/
def Exact.eq (a b : Exact) : Bool := !a.isNan && !b.isNan && !a.lt b && !b.lt a

/-- Sign bit of a value that is no NaN. -/
def Exact.sign : Exact → Bool
  | .nan => false
  | .inf s => s
  | .fin s _ _ => s

/-- The smaller operand under R50: −0 below +0, a single NaN yields the other. -/
def Exact.min (a b : Exact) : Exact :=
  if a.isNan then b else if b.isNan then a
  else if a.lt b then a else if b.lt a then b else if a.sign then a else b

/-- The larger operand under R50. -/
def Exact.max (a b : Exact) : Exact :=
  if a.isNan then b else if b.isNan then a
  else if b.lt a then a else if a.lt b then b else if a.sign then b else a

/-- The value rounded to an integer by the mode (R48, R105): a signed integer. -/
def finToInt (r : Rnd) (neg : Bool) (m : Nat) (e : Int) : Int :=
  let k : Int := toGrid neg m e 0 r
  if neg then -k else k

/-- Converts to an integer type: rounded, then clamped; NaN gives 0 (R60, R109). -/
def Exact.toIntTy (t : Ty) (r : Rnd) (x : Exact) : Int :=
  let lo : Int := if t.signed then -((2 ^ (t.width - 1) : Nat) : Int) else 0
  let hi : Int := if t.signed then ((2 ^ (t.width - 1) : Nat) : Int) - 1 else ((2 ^ t.width : Nat) : Int) - 1
  match x with
  | .nan => 0
  | .inf neg => if neg then lo else hi
  | .fin neg m e =>
    if m == 0 then 0
    else if e + (bitLen m : Int) > 70 then (if neg then lo else hi)
    else Max.max lo (Min.min hi (finToInt r neg m e))

/-- An integer as an exact value. -/
def Exact.ofInt (x : Int) : Exact := .fin (x < 0) x.natAbs 0

/-! ## NX4 -/

/-- Twice the E2M1 magnitudes (R52). -/
def e2m1x2 (c : Nat) : Nat := ([0, 1, 2, 3, 4, 6, 8, 12])[c % 8]?.getD 0

/-- The value of an NX4 element (R54). -/
def decNx4 (code scale special : Nat) : Exact :=
  if scale == 0xFF then .nan
  else if code == 8 then
    match fmtE4m3.dec special with
    | .fin s m e => .fin s m (e + (scale : Int) - 127)
    | x => x
  else .fin (code / 8 % 2 == 1) (e2m1x2 code) ((scale : Int) - 127 - 1)

/-- m ≤ 6 × 2^x for the magnitude m × 2^e. -/
def leSix (m : Nat) (e x : Int) : Bool :=
  let q := min e x
  m * 2 ^ (e - q).toNat ≤ 6 * 2 ^ (x - q).toNat

/-- The scale exponent of a block (R55 item 2): the least x with m ≤ 6 × 2^x, within −127 to 127. -/
def nx4Exp (mags : List (Nat × Int)) : Int :=
  let nz := mags.filter (·.1 != 0)
  if nz.isEmpty then 0
  else
    let top := nz.foldl (fun t p => Max.max t (p.2 + (bitLen p.1 : Int))) (-100000)
    let ok (x : Int) : Bool := nz.all (fun p => leSix p.1 p.2 x)
    -- m lies in [2^(top-1), 2^top), and 6 × 2^x reaches it from x = top − 3 on
    let x := if ok (top - 4) then top - 4 else if ok (top - 3) then top - 3 else top - 2
    Max.max (-127) (Min.min 127 x)

/-- The element code of a value, and whether it saturated (R55 items 4 and 5). -/
def nx4Code (x : Int) : Exact → Nat × Bool
  | .nan => (0, false)
  | .inf neg => (if neg then 15 else 7, true)
  | .fin neg m e =>
    if m == 0 then (0, false)
    else if !leSix m e x then (if neg then 15 else 7, true)
    else
      -- the E2M1 grid: spacing 1/2 below 2, 1 from 2 to 4, 2 from 4 to 6
      let d := e - x
      let q : Int := Max.max (d + (bitLen m : Int) - 1 - 1) (-1)
      let k := toGrid false m d q .rne
      let twice := k * 2 ^ (q + 1).toNat
      let c := ([0, 1, 2, 3, 4, 6, 8, 12]).findIdx (· == twice)
      (if c == 0 then 0 else if neg then c + 8 else c, false)

/-- A block of values as scale byte, element codes, and the number of saturations (R55). -/
def encNx4 (xs : List Exact) : Nat × List Nat × Nat :=
  if xs.any Exact.isNan then (0xFF, xs.map (fun _ => 0), 0)
  else
    let x := nx4Exp (xs.filterMap fun v => match v with | .fin _ m e => some (m, e) | _ => none)
    let cs := xs.map (nx4Code x)
    ((x + 127).toNat, cs.map (·.1), cs.countP (·.2))

end Sys2Proof
end

