-- ==== Sys2Proof/Machine/Float.lean ====
section
/-! DEFINITION. The correctly rounded functions of R106 and R107: quotients and roots exactly, with a sticky bit;
the transcendental functions by fixed-point bounds of rising precision, taken when both bounds round alike
(notes/assumptions/10.md). -/

namespace Sys2Proof

/-- Binary digits of the integer square root, from bit `b - 1` down. -/
def isqrtFrom : Nat → Nat → Nat → Nat
  | 0, _, r => r
  | b + 1, n, r => if (r + 2 ^ b) * (r + 2 ^ b) ≤ n then isqrtFrom b n (r + 2 ^ b) else isqrtFrom b n r

/-- The integer square root. -/
def isqrt (n : Nat) : Nat := isqrtFrom (bitLen n / 2 + 1) n 0

/-- The quotient of two finite values with nonzero divisor: 80 or more bits and a sticky bit, so that it
rounds as the exact quotient does. -/
def quotient (neg : Bool) (ma : Nat) (ea : Int) (mb : Nat) (eb : Int) : Exact :=
  let k := 80 + bitLen mb
  let n := ma * 2 ^ k
  .fin neg (2 * (n / mb) + (n % mb != 0).toNat) (ea - eb - (k : Int) - 1)

/-- a / b (R106, R107). -/
def Exact.div : Exact → Exact → Exact
  | .nan, _ => .nan
  | _, .nan => .nan
  | .inf _, .inf _ => .nan
  | .inf a, .fin sb _ _ => .inf (a != sb)
  | .fin sa _ _, .inf b => .fin (sa != b) 0 0
  | .fin sa ma ea, .fin sb mb eb =>
    if mb == 0 then (if ma == 0 then .nan else .inf (sa != sb))
    else if ma == 0 then .fin (sa != sb) 0 0
    else quotient (sa != sb) ma ea mb eb

/-- 1. -/
def Exact.one : Exact := .fin false 1 0

/-- √a (R106, R107). -/
def Exact.sqrt : Exact → Exact
  | .nan => .nan
  | .inf neg => if neg then .nan else .inf false
  | .fin neg m e =>
    if m == 0 then .fin neg 0 0
    else if neg then .nan
    else
      let odd := (e % 2).toNat
      let n := m * 2 ^ (160 + odd)
      let r := isqrt n
      .fin false (2 * r + (r * r != n).toNat) ((e - (160 + odd : Nat)) / 2 - 1)

/-- 1 / √a (R106, R107). -/
def Exact.rsqrt : Exact → Exact
  | .nan => .nan
  | .inf neg => if neg then .nan else .fin false 0 0
  | .fin neg m e =>
    if m == 0 then .inf neg
    else if neg then .nan
    else
      let odd := (e % 2).toNat
      let m' := m * 2 ^ odd
      let n := 2 ^ 400 / m'
      let r := isqrt n
      .fin false (2 * r + (r * r * m' != 2 ^ 400).toNat) (-((e - (odd : Int)) / 2) - 200 - 1)

/-! ## Fixed point: integers scaled by 2^p -/

/-- Σ of z^(2k+1) / (2k+1), alternating when `alt`: atanh or atan of z, from term k on. -/
def oddSeries (p : Nat) (alt : Bool) (zz : Int) : Nat → Nat → Int → Int → Int
  | 0, _, _, acc => acc
  | n + 1, k, pw, acc =>
    if pw == 0 then acc
    else
      let t := pw / ((2 * k + 1 : Nat) : Int)
      let t := if alt && k % 2 == 1 then -t else t
      oddSeries p alt zz n (k + 1) (pw * zz / ((2 ^ p : Nat) : Int)) (acc + t)

/-- ln 2 = 2 atanh (1/3). -/
def ln2Fix (p : Nat) : Int :=
  let z : Int := ((2 ^ p / 3 : Nat) : Int)
  2 * oddSeries p false (z * z / ((2 ^ p : Nat) : Int)) p 0 z 0

/-- π / 2 = 8 atan (1/5) − 2 atan (1/239). -/
def halfPiFix (p : Nat) : Int :=
  let a (n : Nat) : Int :=
    let z : Int := ((2 ^ p / n : Nat) : Int)
    oddSeries p true (((2 ^ p / (n * n) : Nat) : Int)) p 0 z 0
  8 * a 5 - 2 * a 239

/-- Σ of y^k / k! from term k on. -/
def expSeries (p : Nat) (y : Int) : Nat → Nat → Int → Int → Int
  | 0, _, _, acc => acc
  | n + 1, k, t, acc =>
    if t == 0 then acc
    else expSeries p y n (k + 1) (t * y / ((2 ^ p : Nat) : Int) / ((k + 1 : Nat) : Int)) (acc + t)

/-- The sine or cosine series in y, from term y^k / k! on. -/
def trigSeries (p : Nat) (yy : Int) : Nat → Nat → Int → Int → Int
  | 0, _, _, acc => acc
  | n + 1, k, t, acc =>
    if t == 0 then acc
    else
      trigSeries p yy n (k + 2)
        (-(t * yy / ((2 ^ p : Nat) : Int) / (((k + 1) * (k + 2) : Nat) : Int))) (acc + t)

/-- m × 2^e scaled by 2^p, rounded down in magnitude. -/
def toFix (neg : Bool) (m : Nat) (e : Int) (p : Nat) : Int :=
  let k : Int := ((if 0 ≤ e + (p : Int) then m * 2 ^ (e + (p : Int)).toNat
    else m / 2 ^ (-(e + (p : Int))).toNat : Nat) : Int)
  if neg then -k else k

/-- An integer times 2^e as an exact value. -/
def Exact.ofScaled (v e : Int) : Exact := .fin (v < 0) v.natAbs e

/-- Rounds by bounds: at each precision, `v` approximates the value within 2^16 units of 2^-p, and the value
is v × 2^(x − p). The first precision whose bounds round alike gives the result. -/
def roundBounds (rnd : Exact → Nat) (f : Nat → Int × Int) : List Nat → Nat
  | [] => 0
  | p :: ps =>
    let (v, x) := f p
    let lo := rnd (Exact.ofScaled (v - 65536) (x - p))
    let hi := rnd (Exact.ofScaled (v + 65536) (x - p))
    if ps.isEmpty || (lo == hi && (v > 65536 || v < -65536)) then lo else roundBounds rnd f ps

/-- The precisions tried. -/
def precisions : List Nat := [192, 640, 2048]

/-- 2^a, rounded by `rnd` (R106, R107). -/
def exp2Round (rnd : Exact → Nat) : Exact → Nat
  | .nan => rnd .nan
  | .inf neg => rnd (if neg then .fin false 0 0 else .inf false)
  | .fin neg m e =>
    if m == 0 then rnd Exact.one
    else if e + (bitLen m : Int) > 20 then rnd (.fin false 1 (if neg then -1000000 else 1000000))
    else if m % 2 ^ (-e).toNat == 0 then
      rnd (.fin false 1 (toFix neg m e 0))
    else
      roundBounds rnd (fun p =>
        let one : Int := ((2 ^ p : Nat) : Int)
        let v := toFix neg m e p
        let k := v / one
        (expSeries p ((v - k * one) * ln2Fix p / one) p 0 one 0, k)) precisions

/-- log2 a, rounded by `rnd` (R106, R107). -/
def log2Round (rnd : Exact → Nat) : Exact → Nat
  | .nan => rnd .nan
  | .inf neg => rnd (if neg then .nan else .inf false)
  | .fin neg m e =>
    if m == 0 then rnd (.inf true)
    else if neg then rnd .nan
    else
      let n := m.log2
      if m == 2 ^ n then rnd (Exact.ofInt (e + (n : Int)))
      else
        let big : Bool := 4 * 2 ^ n < 3 * m
        let d : Int := ((2 ^ (n + big.toNat) : Nat) : Int)
        let k : Int := e + (n : Int) + (big.toNat : Int)
        roundBounds rnd (fun p =>
          let one : Int := ((2 ^ p : Nat) : Int)
          let z := ((m : Int) - d) * one / ((m : Int) + d)
          (k * one + 2 * oddSeries p false (z * z / one) p 0 z 0 * one / ln2Fix p, 0)) precisions

/-- sin a (or cos a), a in radians, rounded by `rnd` (R106, R107). -/
def trigRound (cosine : Bool) (rnd : Exact → Nat) : Exact → Nat
  | .nan => rnd .nan
  | .inf _ => rnd .nan
  | .fin neg m e =>
    if m == 0 then rnd (if cosine then Exact.one else .fin neg 0 0)
    else
      roundBounds rnd (fun p =>
        let one : Int := ((2 ^ p : Nat) : Int)
        let l := (e + (bitLen m : Int)).toNat
        let h := halfPiFix (p + l)
        let v := toFix neg m e (p + l)
        let k := (v + h / 2) / h
        let r := (v - k * h) / ((2 ^ l : Nat) : Int)
        let q := ((k + (if cosine then 1 else 0)) % 4).toNat
        let y := if q % 2 == 0 then trigSeries p (r * r / one) p 1 r 0
          else trigSeries p (r * r / one) p 0 one 0
        (if q / 2 == 1 then -y else y, 0)) precisions

/-- Bit patterns of FCLASS (R104). -/
def fclass (f : Fmt) (x : Nat) : Nat :=
  let neg := x / 2 ^ (f.w - 1) % 2 == 1
  let e := x / 2 ^ f.fb % 2 ^ (f.w - 1 - f.fb)
  let m := x % 2 ^ f.fb
  if e > f.maxE then
    if m == 0 then (if neg then 1 else 128) else if m / 2 ^ (f.fb - 1) == 0 then 256 else 512
  else if e == 0 then
    if m == 0 then (if neg then 8 else 16) else if neg then 4 else 32
  else if neg then 2 else 64

end Sys2Proof
end

