-- ==== Sys2Proof/Machine/AluFn.lean ====
section
/-! DEFINITION. What each instruction of spec/05 computes for one item, and the affine and interval forms that
a compact span gives results (R78, R79, R85, R95, R109). -/

namespace Sys2Proof

/-! ## Integer and bit results of one item -/

inductive IntOp where
  | add | sub | mul | mulHi | mad | div | rem | min | max | abs | neg
  deriving DecidableEq, Repr

/-- The quotient of R45 and R84. -/
def divInt (sg : Bool) (w : Nat) (a b : Int) : Int :=
  if b = 0 then ((2 ^ w : Nat) : Int) - 1
  else if sg && a == -((2 ^ (w - 1) : Nat) : Int) && b == -1 then a
  else Int.tdiv a b

/-- The remainder of R45 and R84. -/
def remInt (sg : Bool) (w : Nat) (a b : Int) : Int :=
  if b = 0 then a
  else if sg && a == -((2 ^ (w - 1) : Nat) : Int) && b == -1 then 0
  else Int.tmod a b

/-- The exact result before it wraps (R82 to R84). -/
def IntOp.exact (o : IntOp) (t : Ty) (a b x : Int) : Int :=
  match o with
  | .add => a + b
  | .sub => a - b
  | .mul => a * b
  | .mulHi => a * b / ((2 ^ t.width : Nat) : Int)
  | .mad => a * b + x
  | .div => divInt t.signed t.width a b
  | .rem => remInt t.signed t.width a b
  | .min => Min.min a b
  | .max => Max.max a b
  | .abs => if a < 0 then -a else a
  | .neg => -a

/-- The `w`-bit result (R45). -/
def intItem (o : IntOp) (t : Ty) (a b x : W64) : Nat :=
  wrapN t.width (o.exact t (t.intVal a) (t.intVal b) (t.intVal x))

inductive BitOp where
  | and | or | xor | not | andn | shl | shr | rot | bfx | bfi | popc | clz | brev
  deriving DecidableEq, Repr

/-- The number of bits set, below bit `n` (R91). -/
def popcount : Nat → Nat → Nat
  | 0, _ => 0
  | n + 1, x => x % 2 + popcount n (x / 2)

/-- Bits n − 1 to 0 reversed (R91). -/
def reverseBits : Nat → Nat → Nat
  | 0, _ => 0
  | n + 1, x => x % 2 * 2 ^ n + reverseBits n (x / 2)

/-- Sign-extends the low `n` bits to `w` bits. -/
def sextN (n w x : Nat) : Nat := wrapN w (intOf true n x)

/-- The bit operations (R88 to R91): `a` and `b` the sources, `d` the old destination, `len` the field X.
Counts and positions are the low 32 bits of `b`, modulo w. -/
def bitItem (o : BitOp) (t : Ty) (len : Nat) (a b d : W64) : Nat :=
  let w := t.width
  let x := a.toNat % 2 ^ w
  let y := b.toNat % 2 ^ w
  let n := b.toNat % 2 ^ 32 % w
  match o with
  | .and => x &&& y
  | .or => x ||| y
  | .xor => x ^^^ y
  | .not => 2 ^ w - 1 - x
  | .andn => x &&& (2 ^ w - 1 - y)
  | .shl => x * 2 ^ n % 2 ^ w
  | .shr => wrapN w (intOf t.signed w x / ((2 ^ n : Nat) : Int))
  | .rot => (x * 2 ^ n % 2 ^ w) + x / 2 ^ (w - n)
  | .bfx =>
    let k := Min.min len (w - n)
    let f := x / 2 ^ n % 2 ^ k
    if k == 0 then 0 else if t.signed then sextN k w f else f
  | .bfi =>
    let k := Min.min len (w - n)
    let o := d.toNat % 2 ^ w
    o / 2 ^ (n + k) * 2 ^ (n + k) + x % 2 ^ k * 2 ^ n + o % 2 ^ n
  | .popc => popcount w x
  | .clz => w - bitLen x
  | .brev => reverseBits w x

/-- IADDX: the result and the carry-out (R86). -/
def addxItem (t : Ty) (a b : W64) (cin : Bool) : Nat × Bool :=
  let s := a.toNat % 2 ^ t.width + b.toNat % 2 ^ t.width + cin.toNat
  (s % 2 ^ t.width, s ≥ 2 ^ t.width)

/-- One result byte of PRM (R92). -/
def prmByte (src g : Nat) : Nat :=
  let b := src / 2 ^ (8 * (g % 8)) % 256
  if g / 8 % 2 == 0 then b else if b ≥ 128 then 0xFF else 0

/-- PRM (R92). -/
def prmItem (a b x : W64) : Nat :=
  let src := a.toNat % 2 ^ 32 + b.toNat % 2 ^ 32 * 2 ^ 32
  ([0, 1, 2, 3].map fun j => prmByte src (x.toNat / 2 ^ (4 * j) % 16) * 2 ^ (8 * j)).sum

inductive Cmp where
  | eq | ne | lt | le | gt | ge | un | num
  deriving DecidableEq, Repr

def Cmp.ofCode (n : Nat) : Cmp :=
  match n with
  | 0 => .eq | 1 => .ne | 2 => .lt | 3 => .le | 4 => .gt | 5 => .ge | 6 => .un | _ => .num

def Cmp.int (c : Cmp) (a b : Int) : Bool :=
  match c with
  | .eq => a == b | .ne => a != b | .lt => a < b | .le => a ≤ b | .gt => b < a | .ge => b ≤ a
  | .un => false | .num => true

/-- FCMP (R94). -/
def Cmp.exact (c : Cmp) (a b : Exact) : Bool :=
  let un := a.isNan || b.isNan
  match c with
  | .eq => a.eq b
  | .ne => un || !a.eq b
  | .lt => a.lt b
  | .le => !un && !b.lt a
  | .gt => b.lt a
  | .ge => !un && !a.lt b
  | .un => un
  | .num => !un

/-- PLOG (R98). -/
def plogItem (v : Nat) (a b : Bool) : Bool :=
  match v with
  | 0 => a && b | 1 => a || b | 2 => a != b | _ => a && !b

/-! ## Floating results of one item -/

inductive FltOp where
  | add | sub | mul | fma | min | max | rnd | rcp | rsq | sqrt | div | exp2 | log2 | sin | cos
  deriving DecidableEq, Repr

/-- FRND as an exact value (R105). -/
def Exact.integral (r : Rnd) : Exact → Exact
  | .fin neg m e => .fin neg (finToInt r neg m e).natAbs 0
  | x => x

/-- The floating arithmetic of R101 to R107; `mod` is the MOD field. -/
def fltItem (o : FltOp) (t : Ty) (mod : Nat) (a b x : W64) : Nat :=
  let r := Rnd.ofCode mod
  let ftz := mod / 4 % 2 == 1
  let na := t.num ftz a
  let nb := t.num ftz b
  let nx := t.num ftz x
  let out (v : Exact) : Nat := t.result false ftz r v
  match o with
  | .add => out (Exact.add r na nb)
  | .sub => out (Exact.add r na nb.neg)
  | .mul => out (na.mul nb)
  | .fma => out (Exact.add r (na.mul nb) nx)
  | .min => out (na.min nb)
  | .max => out (na.max nb)
  | .rnd => (match na with
    | .fin neg m e => if 0 ≤ e then out (.fin neg m e) else out ((Exact.fin neg m e).integral r)
    | v => out v)
  | .rcp => out (Exact.one.div na)
  | .rsq => out na.rsqrt
  | .sqrt => out na.sqrt
  | .div => out (na.div nb)
  | .exp2 => exp2Round out na
  | .log2 => log2Round out na
  | .sin => trigRound false out na
  | .cos => trigRound true out na

/-- FSGN (R103): a's bits with b's sign bit. -/
def fsgnItem (t : Ty) (a b : W64) : Nat :=
  let k := 2 ^ (t.width - 1)
  a.toNat % k + b.toNat / k % 2 * k

/-- SCLB (R113). -/
def sclbItem (t : Ty) (mod : Nat) (a b : W64) : Nat :=
  let ftz := mod / 4 % 2 == 1
  t.result false ftz (Rnd.ofCode mod)
    (match t.num ftz a with
    | .fin neg m e => .fin neg m (e + intOf true 32 b.toNat)
    | v => v)

/-- CVT from `src` to `t` (R60, R109). -/
def cvtItem (t src : Ty) (mod : Nat) (a : W64) : Nat :=
  let r := Rnd.ofCode mod
  let ftz := mod / 4 % 2 == 1
  match src.isFloating, t.isFloating with
  | true, true => t.result t.isNarrow ftz r (src.num ftz a)
  | true, false => wrapN t.width ((src.num ftz a).toIntTy t r)
  | false, true => t.result t.isNarrow ftz r (Exact.ofInt (src.intVal a))
  | false, false => wrapN t.width (src.intVal a)

/-- One half or byte of PACK: f32 to the narrow type (R110). -/
def packOne (t : Ty) (mod : Nat) (a : W64) : Nat := cvtItem t .f32 mod a

/-- PACK but for nx4 (R110). -/
def packItem (t : Ty) (mod h : Nat) (a b d : W64) : Nat :=
  let x := packOne t mod a
  let y := packOne t mod b
  if t.width == 16 then x + y * 2 ^ 16
  else
    let o := d.toNat % 2 ^ 32
    if h == 0 then o / 2 ^ 16 * 2 ^ 16 + x + y * 2 ^ 8 else o % 2 ^ 16 + (x + y * 2 ^ 8) * 2 ^ 16

/-- UNPK (R112). -/
def unpkItem (t : Ty) (sel : Nat) (a : W64) : Nat :=
  let x := a.toNat % 2 ^ 32
  match t with
  | .nx4 =>
    if x / 2 ^ 8 % 256 == 0xFF then fmtF32.nan
    else fmtF32.round false .rne (decNx4 (x / 2 ^ (4 * sel) % 16) 127 (x / 2 ^ 16 % 256))
  | _ => fmtF32.round false .rne (t.fmt.dec (x / 2 ^ (t.width * sel) % 2 ^ t.width))

/-! ## The stream generator -/

def rotl64 (x n : Nat) : Nat := (x * 2 ^ n % 2 ^ 64) + x / 2 ^ (64 - n)

/-- One round of R65. -/
def rndxRound (k : Nat) (xy : Nat × Nat) (j : Nat) : Nat × Nat :=
  let rot : List Nat := [13, 37, 21, 49, 7, 29, 43, 17, 59, 3]
  let x := (rotl64 xy.1 (rot[j]?.getD 0) + xy.2) % 2 ^ 64
  let y := rotl64 xy.2 (rot[(j + 5) % 10]?.getD 0) ^^^ x ^^^ ((k + j * 0xBB67AE8584CAA73B) % 2 ^ 64)
  (x, y)

/-- RNDX_output(k, c) (R65). -/
def rndxOut (k c : Nat) : Nat :=
  let xy := (List.range 10).foldl (rndxRound k) (c, k ^^^ 0x6A09E667F3BCC909)
  xy.1 ^^^ rotl64 xy.2 32

/-- RNDX (R114). -/
def rndxItem (var : Nat) (k c : W64) : Nat :=
  let o := rndxOut k.toNat c.toNat
  match var with
  | 0 => o
  | 1 => o / 2 ^ 32
  | _ => fmtF32.round false .rne (.fin false (o / 2 ^ 40) (-24))

/-! ## Forms in a compact span -/

/-- The form of a value in a compact span (R71): uniform, affine, or needing a value per item. -/
inductive Form where
  | u (x : W64)
  | a (c s : W64)
  | m
  deriving DecidableEq, Repr

/-- The value a form gives item `i`, before it is read at a width. -/
def Form.at (f : Form) (i : Nat) : W64 :=
  match f with
  | .u x => x
  | .a c s => c + s * BitVec.ofNat 64 i
  | .m => 0

/-- An affine result; step 0 is held as U (R78 item 2). -/
def mkA (w : Nat) (c s : W64) : Form :=
  if s.toNat % 2 ^ w == 0 then .u (BitVec.ofNat 64 (c.toNat % 2 ^ w))
  else .a (BitVec.ofNat 64 (c.toNat % 2 ^ w)) (BitVec.ofNat 64 (s.toNat % 2 ^ w))

/-- The affine results of R79 and R83; `.m` where the rule gives none. -/
def affInt (o : IntOp) (w : Nat) (fa fb fx : Form) : Form :=
  let plus (p q : Form) : Form :=
    match p, q with
    | .u x, .u y => .u (x + y)
    | .u x, .a c s => mkA w (x + c) s
    | .a c s, .u y => mkA w (c + y) s
    | .a c s, .a c' s' => mkA w (c + c') (s + s')
    | _, _ => .m
  let times (p q : Form) : Form :=
    match p, q with
    | .u x, .u y => .u (x * y)
    | .u x, .a c s => mkA w (x * c) (x * s)
    | .a c s, .u y => mkA w (c * y) (s * y)
    | _, _ => .m
  let minus (p : Form) : Form :=
    match p with
    | .u x => .u (-x)
    | .a c s => mkA w (-c) (-s)
    | .m => .m
  match o with
  | .add => plus fa fb
  | .sub => plus fa (minus fb)
  | .neg => minus fa
  | .mul => times fa fb
  | .mad => plus (times fa fb) fx
  | _ => .m

/-- SHL of an affine value by a U count (R79, R89). -/
def affShl (w : Nat) (fa fb : Form) : Form :=
  match fa, fb with
  | .a c s, .u n =>
    let k : W64 := BitVec.ofNat 64 (2 ^ (n.toNat % 2 ^ 32 % w))
    mkA w (c * k) (s * k)
  | _, _ => .m

/-- An affine operand does not wrap over [lo, hi) (R79). -/
def noWrap (sg : Bool) (w lo hi : Nat) (c s : W64) : Bool :=
  let v := intOf sg w (c.toNat + s.toNat * lo)
  let e := v + intOf true w s.toNat * ((hi - 1 - lo : Nat) : Int)
  let mn : Int := if sg then -((2 ^ (w - 1) : Nat) : Int) else 0
  let mx : Int := if sg then ((2 ^ (w - 1) : Nat) : Int) - 1 else ((2 ^ w : Nat) : Int) - 1
  mn ≤ e && e ≤ mx

/-- The value at lo and the step of a U operand or of an A operand that does not wrap. -/
def linear (sg : Bool) (w lo hi : Nat) (f : Form) : Option (Int × Int) :=
  match f with
  | .u x => some (intOf sg w x.toNat, 0)
  | .a c s =>
    if noWrap sg w lo hi c s then some (intOf sg w (c.toNat + s.toNat * lo), intOf true w s.toNat)
    else none
  | .m => none

/-- The k in [0, n) with d + e·k < 0, as an interval. -/
def negRun (d e : Int) (n : Nat) : Nat × Nat :=
  if e = 0 then (if d < 0 then (0, n) else (0, 0))
  else if 0 < e then (0, Min.min n (-(d / e)).toNat)
  else (Min.min n (d / (-e) + 1).toNat, n)

/-- The k in [0, n) where d + e·k = 0, as an interval. -/
def zeroRun (d e : Int) (n : Nat) : Nat × Nat :=
  if e = 0 then (if d = 0 then (0, n) else (0, 0))
  else
    let k := (-d) / e
    if k * e = -d && 0 ≤ k && k < (n : Int) then (k.toNat, k.toNat + 1) else (0, 0)

/-- The complement of an interval within [0, n), when it is an interval. -/
def coRun (n : Nat) (r : Nat × Nat) : Option (Nat × Nat) :=
  if r.2 ≤ r.1 then some (0, n)
  else if r.1 == 0 then some (r.2, n)
  else if r.2 == n then some (0, r.1)
  else none

/-- The interval where a comparison of two linear operands holds (R95): none when it is no interval. -/
def cmpRun (c : Cmp) (a b : Int × Int) (n : Nat) : Option (Nat × Nat) :=
  let d := a.1 - b.1
  let e := a.2 - b.2
  match c with
  | .eq => some (zeroRun d e n)
  | .ne => coRun n (zeroRun d e n)
  | .lt => some (negRun d e n)
  | .le => some (negRun (d - 1) e n)
  | .gt => some (negRun (-d) (-e) n)
  | .ge => some (negRun (-d - 1) (-e) n)
  | _ => none

/-- The ends of the greedy affine runs of `r` from index `i` on (R85), `start` and `step` describing the
current run; none after more than 65. -/
def greedyRuns (r : Nat → Nat) (w hi : Nat) : Nat → Nat → Nat → Option Nat → Nat → Option (List Nat)
  | 0, _, _, _, _ => some []
  | fuel + 1, start, i, step, count =>
    if hi ≤ i then some []
    else if i == start then greedyRuns r w hi fuel start (i + 1) none count
    else
      let d := wrapN w ((r i : Int) - (r (i - 1) : Int))
      if step.all (· == d) then greedyRuns r w hi fuel start (i + 1) (some d) count
      else if count ≥ 65 then none
      else (greedyRuns r w hi fuel i (i + 1) none (count + 1)).map (i :: ·)

/-- The cut points of IDIV or IREM over [lo, hi) (R85): none when there are more than 65 pieces. -/
def divCuts (o : IntOp) (t : Ty) (fa : Form) (b : W64) (lo hi : Nat) : Option (List Nat) :=
  greedyRuns (fun i => intItem o t (fa.at i) b 0) t.width hi (hi - lo + 1) lo lo none 1

/-- CVT between integer types keeps an affine form where R109 says so. -/
def affCvt (t src : Ty) (lo hi : Nat) (fa : Form) : Form :=
  match fa with
  | .a c s =>
    if t.isWide && src.isWide then
      if !t.is64 then mkA 32 c s
      else if src.is64 then .m
      else if noWrap src.signed 32 lo hi c s then
        let step : Int := intOf true 32 s.toNat
        let v : Int := intOf src.signed 32 (c.toNat + s.toNat * lo)
        mkA 64 (BitVec.ofInt 64 (v - step * (lo : Int))) (BitVec.ofInt 64 step)
      else .m
    else .m
  | _ => .m

end Sys2Proof
end

