-- ==== Sys2Proof/Machine/State.lean ====
section
/-! DEFINITION. The state of the machine: everything the manual gives the package, as plain data, and the state
after reset. A map is a list of key and value pairs with strictly rising keys. -/

namespace Sys2Proof.Machine

/-- Why the machine stops. -/
inductive Fault where
  /-- An instruction was executed while no context issues: raised by the issue wrapper when `cur` names no
  context that can issue. No run of `step` reaches it for want of a context. Safe: the machine stops. -/
  | noContext
  deriving DecidableEq, Repr

/-- Why an instruction has no meaning. -/
inductive Refusal where
  /-- Raised by the dispatcher for an instruction whose meaning is not written. Safe: the machine stops. -/
  | notModelled (mnemonic : String)
  deriving DecidableEq, Repr

/-- Where an access lands (R118, R172). Scratch areas are keyed by core × 2^20 + offset. -/
inductive Loc where
  | g (pa : Nat) (stamped : Bool)
  | scratch (core off : Nat)
  | control (off : Nat)
  | priv (off : Nat)
  | window (off : Nat)
  deriving DecidableEq, Repr

/-! ## Contexts -/

/-- The form of a register (R71): uniform, affine, one half of a 64-bit affine pair, or materialised. A compact span
reads its registers from it and never holds `m`; a strand's values stand in its lanes whatever the form (R117). -/
inductive RForm where
  | u (x : W32)
  | a (c s : W32)
  | lo (c s : W64)
  | hi (c s : W64)
  | m
  deriving DecidableEq, Repr

/-- The form of a predicate (R71); `i` only in a compact span, `m` only in a strand (R78). -/
inductive PForm where
  | u (x : Bool)
  | i (lo hi : Nat)
  | m
  deriving DecidableEq, Repr

/-- A lane of a strand (R66, R123, R127): its item or idle, its PC, the barrier it waits at, its registers
(the lane array, R72) and predicates p0 to p6. -/
structure Lane where
  item : Option Nat
  pc : W64
  waiting : Option Nat
  regs : List W32
  preds : List Bool
  deriving DecidableEq, Repr

/-- The three kinds of context (06). -/
inductive Kind where
  | span (lo hi : Nat)
  | strand
  | control
  deriving DecidableEq, Repr

/-- A barrier register (R128). A linked one names a join counter; the mask holds the lanes it covers. -/
inductive Bar where
  | clear
  | mask (m : Nat)
  | linked (join : Nat) (m : Nat)
  deriving DecidableEq, Repr

/-- A return-stack entry (R151). -/
structure Ret where
  pc : W64
  mask : Nat
  deriving DecidableEq, Repr

/-- The state of a REP (R40, R154): body length, position to execute next (from 0), pass, passes, ring base
and size, the PC of the body and of the word after it, the lanes that issued it, and those that replay. -/
structure Rep where
  len : Nat
  pos : Nat
  pass : Nat
  total : Nat
  base : Nat
  ring : Nat
  start : W64
  after : W64
  mask : Nat
  replay : Nat
  deriving DecidableEq, Repr

/-- The trap slot (R137): not trapped, waiting for the slot as the n-th trap, or in it. -/
inductive TrapState where
  | none
  | queued (n : Nat)
  | slot
  deriving DecidableEq, Repr

/-- A condition that a word waits for at issue, and that the context finds out by itself (R136). -/
inductive Stall where
  /-- The self-test of a block that serves a byte (R258). -/
  | test (pa : Nat)
  /-- Room for a join counter, or for a waiter on a lock word (R239). -/
  | joinRoom
  | lockRoom (vf pa : Nat)
  /-- The operations that a sub-meter counts (R275). -/
  | meter (m : Nat)
  /-- A place in the ring of a work queue (R272). -/
  | ring (queue : Nat)
  /-- Fewer queued matrix instructions than this (R219, R226). -/
  | engine (depth : Nat)
  /-- The earlier accesses of the control program (R225). -/
  | fence
  /-- The end of a walk on a copy channel (R270). -/
  | chain (chan : Nat)
  /-- The earlier .seq message on a channel (R339). -/
  | seq (chan : Nat)
  /-- Words on a receive channel (R97, R360). -/
  | words (chan need : Nat)
  /-- A stamp above the last one of the core (R317). -/
  | stamp (t : Nat)
  /-- The answers of other nodes to the accesses of the word (R330). -/
  | answers
  deriving DecidableEq, Repr

/-- What a context waits for (R136). -/
inductive Wait where
  | none
  /-- Tokens by their mask: all of them, or with `any` one of them (R36, R159). -/
  | tokens (mask : Nat) (any : Bool)
  | op (id : Nat)
  /-- The phase of an arrival object, read at a level (R217). -/
  | object (loc : Loc) (lvl : Nat) (phase : Bool)
  /-- A group barrier's generation; the acquire that its release performs, as scope + 1, or 0 (R227). -/
  | group (g gen acq : Nat)
  | rjoin (b : Nat)
  | join (until_ : Nat)
  | stall (x : Stall)
  | lock (id : Nat)
  | space (blocks : Nat)
  /-- Room for the pieces of a cut at these points (R122, R239). -/
  | cut (points : List Nat)
  | remainder
  | page (vf proc : Nat) (va : W64)
  /-- A release at fabric scope: these operations are not yet acknowledged (R331). -/
  | acks (ops : List Nat)
  | time (t : W64)
  /-- A read of a line of a CXL device, or of another node (R280, R330). -/
  | cxl (line : Nat)
  /-- A poisoned read: the machine check ends the launch (R259). -/
  | check
  /-- A control program that has executed EXIT while its operations are outstanding (R181). -/
  | ended
  deriving DecidableEq, Repr

/-- What a trap saves in the context (R130, R138, R156). -/
structure Save where
  pc : W64
  next : W64
  mask : Nat
  lanePcs : List W64
  waiting : List (Option Nat)
  bars : List Bar
  rep : Option Rep
  compact : Bool
  wait : Wait
  deriving DecidableEq, Repr

/-- Where an asynchronous result lands. -/
inductive LDst where
  | reg (r : Nat) (lane : Option Nat)
  | scal (r : Nat)
  | pred (p : Nat) (lane : Option Nat)
  deriving DecidableEq, Repr

/-- A result whose token has not been waited on (R73 item 2): reads give the old or the new value. `uni`: the access was
one for the whole context, so that the register is to be U (R173). -/
structure Landing where
  op : Nat
  tok : Nat
  dst : LDst
  val : W64
  uni : Bool
  deriving DecidableEq, Repr

/-- A sub-meter of EMARK (R276). -/
structure Sub where
  count : Nat
  running : Bool
  deriving DecidableEq, Repr

/-- A record held in a receive buffer (R334): the ring offset of its header, its payload words and how many are
popped, SEQ, the sender's node and global core number. -/
structure RecvRec where
  start : Nat
  words : List W32
  popped : Nat
  seq : Bool
  node : Nat
  core : Nat
  deriving DecidableEq, Repr

/-- A receive channel (R334). -/
structure Chan where
  offered : Nat
  group : Nat
  limit : Nat
  held : List RecvRec
  rdoff : Nat
  wroff : Nat
  deriving DecidableEq, Repr

/-- A context (R117, R121, R157). `priv` holds the bytes of the private block that differ from 0 (R138); `slotAt` orders
the active contexts by the time they took their slots (R136); `heldTill` is the core cycle before which STALL keeps it from
issuing again (R24, R36); `landed` is the latest operation whose result a destination has taken (R73 item 2); `part` the
lanes that have made their access while others wait for a page (R139); `copied` the lanes whose records show KIND 0x04 until
the access is retried (R69); `seat` its context slot of the core, while resident (R122, R333); `first` says that the space
which spills free is granted to
it, until its request is met (R120); `billed` that the issue of the word it waits at is counted and charged (R366); `visited`
lists the lines at other nodes whose homes have answered the accesses of that word (R330). -/
structure Ctx where
  id : Nat
  range : Nat
  core : Nat
  kind : Kind
  pc : W64
  lanes : List Lane
  regs : List RForm
  preds : List PForm
  scal : List W64
  bars : List Bar
  rets : List Ret
  rep : Option Rep
  tag : W64
  issued : Nat
  refilled : Bool
  reserve : Nat
  floorLo : Nat
  floorHi : Nat
  subs : List Sub
  priv : List Host.Cell
  chans : List Chan
  save : Option Save
  trap : TrapState
  wait : Wait
  landing : List Landing
  landed : List (LDst × Nat)
  part : Nat
  copied : Nat
  seat : Option Nat
  first : Bool
  active : Bool
  slotAt : Nat
  age : Nat
  resident : Bool
  heldTill : Nat
  billed : Bool
  visited : List Nat
  deriving DecidableEq, Repr

/-! ## Cluster ranges and launches -/

/-- Translated bytes of a transfer: physical address, count, attributes S and C; the virtual address that was translated, and
the size of its leaf (R252). -/
structure Piece where
  pa : Nat
  n : Nat
  stamped : Bool
  cached : Bool
  va : W64
  size : Nat
  deriving DecidableEq, Repr

/-- A queued matrix instruction (R195, R219): its opcode, tile, operands (bases and descriptors), arrival
object, operation and token, the PC of the instruction, whether it has begun and whether its last row group is written, the
write-backs that its release waits for, where an MSTO stores, as far as that could be translated, and whether someone has
written a byte of its operands since the issue (R208 item 2); `parked` is the page that the engine waits for (R199, R284), and
`obj` the translation by which the arrival object was found (R252). -/
structure MqEntry where
  op : Nat
  tile : Nat
  aBase : W64
  aDesc : W64
  bBase : W64
  bDesc : W64
  scope : Nat
  arrive : Option Loc
  opId : Nat
  tok : Option Nat
  pc : W64
  started : Bool
  done : Bool
  acks : Option (List Nat)
  dst : List (Loc × Nat)
  spoiled : Bool
  parked : Option W64
  obj : List Piece
  deriving DecidableEq, Repr

/-- A copy channel of a range (R249, R270). -/
inductive ChanState where
  | idle
  | walking
  | parked
  | error
  deriving DecidableEq, Repr

/-- Its state, its record, and the operation of the CHAIN that walks it. -/
structure CopyChan where
  state : ChanState
  recAt : W64
  opId : Nat
  deriving DecidableEq, Repr

/-- A join counter of a core (R128); `room` says where it stands: 0 in the core's table, 1 in the join and wait region of
the die, 2 in the VF's save pool (R238, R239). -/
structure Join where
  id : Nat
  core : Nat
  count : Nat
  lo : Nat
  hi : Nat
  room : Nat
  deriving DecidableEq, Repr

/-- A translation: the attributes of a leaf entry (R251). -/
structure Leaf where
  pa : Nat
  size : Nat
  r : Bool
  w : Bool
  x : Bool
  s : Bool
  d : Bool
  c : Bool
  p : Bool
  pdie : Nat
  deriving DecidableEq, Repr

/-- A TLB entry of a cluster or of its matrix engine (R252). -/
structure Tlb where
  clu : Nat
  engine : Bool
  vf : Nat
  proc : Nat
  va : Nat
  leaf : Leaf
  deriving DecidableEq, Repr

/-- A cluster range (R179 to R181, R195, R289). `cluster` is none while it is saved; `atBarrier` says that it was
saved at a barrier (R192), `store` where its save lies (die 0 to 7, or 8 for the VF's save pool, R239), `clock` is the
saved logical clock (R299), `late` the matrix instructions that have completed and that the control program has not waited
on (R208), `etlb` the saved entries of the engine's TLB (R195), `failedIn` the accounting window in which a
saved range failed the check of R236. -/
structure Range where
  id : Nat
  launchId : Nat
  lo : Nat
  hi : Nat
  cluster : Option Nat
  m : Nat
  saved : Bool
  order : Nat
  atBarrier : Bool
  store : Nat
  clock : Nat
  scratch : List Host.Cell
  cscratch : List Host.Cell
  tiles : List (Nat × A80)
  prog : List Nat
  mq : List MqEntry
  late : List MqEntry
  chans : List CopyChan
  joins : List Join
  etlb : List Tlb
  failedIn : Option Nat
  elects : List (Nat × Nat)
  deriving DecidableEq, Repr

/-- A run of a group-table entry (R188). -/
structure Run where
  lo : Nat
  count : Nat
  stride : Nat
  deriving DecidableEq, Repr

/-- A non-empty entry of the group table (R188). -/
structure Group where
  k : Nat
  runs : List Run
  deriving DecidableEq, Repr

/-- A group's barrier state in a launch (R190, R191): how many BARGs each item has made, the level at which its
arrival at the unreleased generation stands (0 sent, 1 core, 2 cluster, 3 die, 4 package), and the messages on
their way. -/
structure Gen where
  k : Nat
  counts : List (Nat × Nat)
  levels : List (Nat × Nat)
  sent : List BarrierMsg
  deriving DecidableEq, Repr

/-- A location of RED.ord (R64, R266): its initial value and the leaves of items that contributed. -/
structure RedLoc where
  pa : Nat
  ty : Ty
  initial : W64
  leaves : List (Nat × W64)
  deriving DecidableEq, Repr

/-- The fields of a 128-byte command (R230). -/
structure Cmd where
  kind : Nat
  repro : Bool
  guarded : Bool
  serial : Bool
  wlog : Nat
  vregs : Nat
  scal : Nat
  clog : Nat
  n : Nat
  job : Nat
  codebase : W64
  entry : Nat
  trapidx : Nat
  centry : Nat
  scratch : Nat
  cscratch : Nat
  groups : W64
  depaddr : W64
  depval : W64
  cmpaddr : W64
  cmpval : W64
  recaddr : W64
  estimate : Nat
  guardbase : W64
  guardlen : Nat
  reserved : Bool
  deriving DecidableEq, Repr

/-- A command taken from a queue and not yet finished (R234): its queue, the order in which it became ready,
whether its launch has begun, the page its reads or completion writes are parked on, the pages the host refused,
whether its completion record is written (R231), and the result of a host command that is performed (R291). -/
structure Taken where
  id : Nat
  queue : Nat
  seq : Nat
  vf : Nat
  proc : Nat
  cmd : Cmd
  launchId : Nat
  started : Bool
  parked : Option Nat
  refused : List Nat
  recDone : Bool
  result : Option Nat
  deriving DecidableEq, Repr

/-- A launch (R230 to R232, R375). `status` is set when it is to end; `drain` when a KILL or CHECKPOINT stops it
(R287); `tend` when its work has ended and its stores are on their way to their homes (R231 step 1); `todo` lists the
cluster ranges not yet
placed, and `failedIn` is the accounting window in which its next range failed the check of R236. -/
structure Launch where
  id : Nat
  vf : Nat
  proc : Nat
  taken : Nat
  cmd : Cmd
  n : Nat
  status : Option Nat
  drain : Bool
  tend : Option Nat
  tstart : Option Nat
  drops : Nat
  frame : List Byte
  frec : Option (List Byte)
  energy : Nat
  retired : Nat
  groups : List Group
  gens : List Gen
  reds : List RedLoc
  tags : List (Nat × Nat)
  todo : List (Nat × Nat)
  failedIn : Option Nat
  deriving DecidableEq, Repr

/-- A stamped store (R317): in its commit wait, its record on its way, or its home's status on its way back. -/
inductive StsPhase where
  | waiting
  | sent
  | answered (status : Nat)
  deriving DecidableEq, Repr

/-- A remote memory access of the host (R344): the VF, window, offset and length it names, and the bytes that a write has. -/
structure Rma where
  vf : Nat
  window : Nat
  off : Nat
  len : Nat
  write : Bool
  data : List Byte
  deriving DecidableEq, Repr

/-- What an outstanding operation does (R36, R39). -/
inductive OpWhat where
  /-- Done but for its completion. -/
  | ready
  /-- A FENCE at fabric scope: the operations of its wait set, whether a peer failed, whether it acquires, its
  status scalar. -/
  | fence (set : List Nat) (failed acq : Bool) (dst : Option Nat)
  /-- A store or write-back not yet acknowledged by its home (R177, R342): the node, and whether it was declared
  failed meanwhile, the launch whose store it is. It holds no context. -/
  | remote (node : Nat) (failed : Bool) (launchId : Nat)
  /-- A copy, multicast or chain transfer. -/
  | xfer
  /-- A queued matrix instruction. -/
  | matrix
  /-- A stamped store (R317): its record, its phase, its status byte, and the items it acts for as intervals. -/
  | sts (record : StsRec) (phase : StsPhase) (x : BitVec 8) (items : List (Nat × Nat))
  /-- A read at a time (R319): its time, type, address, destination, status byte, and its items. -/
  | ldat (t : W64) (ty : Ty) (pa : Nat) (d : Opnd) (x : BitVec 8) (items : List (Nat × Nat))
  /-- A request of another node that is performed, and answered when the other nodes of the line's entry have acknowledged
  their invalidations (R331). It holds no context. -/
  | serve (req : RemoteReq) (answer : List Byte)
  /-- A read at a time of another node that is parked here, its home (R319). It holds no context. -/
  | serveAt (req : RemoteReq)
  /-- A read of a line of another node, which its answer brings into the L2 slice (R330, R331). It holds no context. -/
  | fetch (line : Nat)
  /-- A load or atomic of a context at fabric scope at the home of a line on another node (R330). -/
  | visit (line : Nat)
  /-- A remote memory access of the host that waits for a line of a CXL device or of another node, or for the test of a block. It
  holds no context. -/
  | rma (r : Rma)
  /-- A group send: its message, its status scalar. -/
  | send (msg : Nat) (dst : Option Nat)
  deriving DecidableEq, Repr

/-- An outstanding operation: the contexts that hold it, its token, and the sub-meters that ran when it was
issued (R276). -/
structure Op where
  id : Nat
  ctxs : List Nat
  tok : Option Nat
  what : OpWhat
  meters : Nat
  deriving DecidableEq, Repr

/-- A transfer of a copy engine, or a multicast (R185, R218, R246, R248): its channel and record, the source as
translated pieces or as a scratch location, the source address modulo 16, the destination pieces or the targets and
offset of a multicast, the bytes done, the STATUS it will have, the write-backs that its release waits for (R345), and the
translation by which its arrival object was found (R252). -/
structure Xfer where
  id : Nat
  opId : Nat
  range : Nat
  chan : Option Nat
  recPa : Nat
  next : W64
  src : List Piece
  srcLoc : Option Loc
  low : Nat
  dst : List Piece
  mcst : Bool
  targets : Nat
  dstOff : Nat
  len : Nat
  done : Nat
  scope : Nat
  arrive : Option Loc
  status : Nat
  acks : Option (List Nat)
  obj : List Piece
  deriving DecidableEq, Repr

/-! ## Memory -/

/-- A byte a cache holds: its value and whether it is dirty (R182). -/
structure CByte where
  val : Byte
  dirty : Bool
  deriving DecidableEq, Repr

/-- An update-only delta (R244): cluster, address, operation, type, value. -/
structure Delta where
  clu : Nat
  pa : Nat
  op : Nat
  ty : Ty
  val : W64
  deriving DecidableEq, Repr

/-- A record of a stamped line (R312). -/
structure Rec where
  stamp : Nat
  node : Nat
  g : Nat
  off : Nat
  size : Nat
  data : W64
  deriving DecidableEq, Repr

/-- A stamped line (R312, R313): the 64 bytes of BASE, BASEST, HAS, the records in its version slots and those in the
overflow area, each in key order. -/
structure SLine where
  base : List Byte
  basest : Option Nat
  has : Bool
  slots : List Rec
  moved : List Rec
  deriving DecidableEq, Repr

/-- A parked lock request (R245), oldest first: of a context, or of another package; `room` says where it stands: 0 in the
wait list of its home slice, 1 in the die's join and wait region, 2 in the VF's save pool (R238, R239). -/
structure LockWait where
  id : Nat
  pa : Nat
  write : Bool
  ctx : Nat
  scope : Nat
  vf : Nat
  room : Nat
  peer : Option RemoteReq
  deriving DecidableEq, Repr

/-- A directory entry (R331): up to four nodes, or beyond that a 64-bit mask of groups of 128 nodes. -/
structure Dir where
  nodes : List Nat
  mask : Nat
  deriving DecidableEq, Repr

/-- The memory system. `home` is the bytes at the homes over the whole physical address space. Caches are
keyed by address, an L1 by cluster × 2^56 + address. `plain` is BASEST of lines that no access has reached through an S page
yet (R312); `cline` lists the remote and CXL lines that accesses have reached through a page with C (R279). -/
structure Mem where
  home : List Host.Cell
  l1 : List (Nat × CByte)
  l2 : List (Nat × CByte)
  cp : List (Nat × CByte)
  deltas : List Delta
  slines : List (Nat × SLine)
  plain : List (Nat × Nat)
  cline : List (Nat × Bool)
  stamps : List (Nat × Nat)
  clocks : List (Nat × Nat)
  dir : List (Nat × Dir)
  poison : List Nat
  tlb : List Tlb
  lockq : List LockWait
  deriving DecidableEq, Repr

/-! ## The package -/

/-- A queue descriptor (R233), and when its head command was seen to be ready (R234, R235). The tail stands in the
command window. -/
structure Queue where
  base : W64
  logsz : Nat
  prio : Nat
  vf : Nat
  proc : Nat
  en : Bool
  head : W64
  readyAt : Option Nat
  deriving DecidableEq, Repr

/-- A count of a generation that this package's combiner has sent to the root (R191). -/
structure Told where
  node : Nat
  job : Nat
  group : Nat
  gen : Nat
  deriving DecidableEq, Repr

/-- What another package's combiner, or a release, has said of a job's group barrier (R191): `node` and the launch
there, its generation, and whether its count is complete. -/
structure PeerCount where
  node : Nat
  launchId : Nat
  job : Nat
  group : Nat
  gen : Nat
  complete : Bool
  deriving DecidableEq, Repr

/-- The number of generations a job has released on a group (R191). -/
structure JobGen where
  job : Nat
  group : Nat
  released : Nat
  deriving DecidableEq, Repr

structure Disp where
  queues : List (Nat × Queue)
  cmds : List Taken
  peers : List PeerCount
  jobGens : List JobGen
  told : List Told
  deriving DecidableEq, Repr

/-- A VF account (R281), the EU posted in the running window, and its slice state (R235). -/
structure Account where
  bal : Int
  refill : Nat
  cap : Int
  resume : Int
  rbal : Int
  rrefill : Nat
  rcap : Nat
  state : Nat
  vfflags : Nat
  slice : Nat
  period : Nat
  clumax : Nat
  spent : Int
  shared : Int
  posted : Int
  deepest : Int
  savebase : Nat
  savelen : Nat
  sliceOver : Bool
  resident : Bool
  deriving DecidableEq, Repr

/-- A process of a VF (R235, R250): its page-table root, weight and deficit. -/
structure Proc where
  root : Nat
  weight : Nat
  deficit : Nat
  deriving DecidableEq, Repr

/-- A metering tile (R254 to R256): coefficients in 2^-16 EU, factor in 16.16, raw and posted charges of the
window. -/
structure Tile where
  coefs : List Nat
  f : Nat
  raw : Nat
  posted : Nat
  last : Nat
  deriving DecidableEq, Repr

/-- A tag's charges at a tile not yet posted, in 2^-16 EU (R255). -/
structure Charge where
  tile : Nat
  node : Nat
  vf : Nat
  proc : Nat
  launchId : Nat
  remote : Bool
  amount : Nat
  deriving DecidableEq, Repr

structure Energy where
  tiles : List (Nat × Tile)
  charges : List Charge
  device : Int
  window : Nat
  deriving DecidableEq, Repr

/-- The Meridian unit (R301 to R311; `uref` the half-width of its reference input, R304): the computed pair and the
standby's in 2^-32 ticks; the reported pair and its die
copy; whether a sync was accepted; the registers; the tick each port was last heard at, and the ticks since reset. -/
structure Meridian where
  clo : Nat
  chi : Nat
  lo : Nat
  hi : Nat
  dielo : Nat
  diehi : Nat
  synced : Bool
  mulim : Nat
  mwin : Nat
  mret : Nat
  mlast : Nat
  state : Nat
  cause : Nat
  unit : Nat
  ref : Nat
  uref : Nat
  breach : Nat
  standbyLo : Nat
  standbyHi : Nat
  heard : List (Nat × Nat)
  ticks : Nat
  deriving DecidableEq, Repr

/-- What a flit that this package sends carries (R303, R323), its source node first: a transaction's bytes on a virtual
channel, the reported pair, or what control and keying flits say; `body` is the index of the free bytes of its payload. -/
inductive Cargo where
  | data (src vc dst tag body : Nat)
  | timing (src lo hi body : Nat)
  | control (src body : Nat) (keying : Bool)
  deriving DecidableEq, Repr

/-- One of a port's last 64 flits (R324): its key slot, its counter, what it carries, and its 256 bytes (R323). -/
structure SentFlit where
  keyidx : Bool
  ctr : Nat
  cargo : Cargo
  bytes : List Byte
  deriving DecidableEq, Repr

/-- A Jalgus port (R303, R323 to R328): the fields of LINKSTAT, CTR being the counter of the next flit; the receiving
side's slot in use and last accepted counter of each slot; the counters asked for again; the timing round trip and dmin;
the control key's counter, and the last that the receiver accepted; whether the service core has ordered the staged key;
the last 64 flits; those that wait to be sent; the VCs that this receiver pauses; the last accepted data flit. -/
structure Port where
  state : Nat
  erased : Nat
  keyidx : Bool
  staged : Bool
  ctr : Nat
  paused : Nat
  rxidx : Bool
  rx0 : Option Nat
  rx1 : Option Nat
  asked : List Nat
  rho : Nat
  dmin : Nat
  cctr : Nat
  rxc : Option Nat
  ordered : Bool
  sent : List SentFlit
  queue : List Cargo
  pausing : Nat
  got : Option Flit
  deriving DecidableEq, Repr

/-- A remote transaction this package has outstanding (R330): its tag, node, how often it was sent again, its operation, the
port it left by, and the tick since which it has had neither an answer nor a HOLD. -/
structure Rtx where
  tag : Nat
  node : Nat
  resends : Nat
  opId : Nat
  port : Option Nat
  since : Nat
  deriving DecidableEq, Repr

/-- An answer that a home keeps for 1 ms (R330), and the tick it was given at. -/
structure Kept where
  req : RemoteReq
  answer : List Byte
  tick : Nat
  deriving DecidableEq, Repr

/-- What this home answers another node (R330): the answer's bytes, or HOLD. -/
structure Reply where
  node : Nat
  tag : Nat
  hold : Bool
  bytes : List Byte
  deriving DecidableEq, Repr

/-- A 2 MiB leaf that a collapse replaced by 32 leaves (R332): the address of its entry, the entry, the leaves. -/
structure Split where
  entry : Nat
  old : Nat
  leaves : List Nat
  deriving DecidableEq, Repr

/-- The fabric (R323 to R332): node number, ports, routing table, transactions outstanding, answers kept, requests
queued, replies, the failed map, replica sets and owners of read-duplicate pieces, whether a switch tier is configured. -/
structure Fabric where
  node : Nat
  ports : List Port
  routes : List (Nat × List Nat)
  rtx : List Rtx
  kept : List Kept
  queued : List RemoteReq
  replies : List Reply
  failed : List Nat
  replicas : List (Nat × List Nat)
  owners : List (Nat × Nat)
  splits : List Split
  tier : Bool
  deriving DecidableEq, Repr

/-- What a level knows of a key at one child (R333): its count, saturating at 65,535, and LIVE. -/
structure Ready where
  level : Level
  place : Nat
  child : Nat
  key : Key
  total : Nat
  live : Bool
  deriving DecidableEq, Repr

/-- The round-robin pointer of a key at a level (R333). -/
structure Robin where
  level : Level
  place : Nat
  key : Key
  next : Nat
  deriving DecidableEq, Repr

/-- A child marked unlisted for a key at a level (R333). -/
structure Unlisted where
  level : Level
  place : Nat
  child : Nat
  key : Key
  deriving DecidableEq, Repr

/-- A group-send message (R336): its key and data; the sender's node, core, contexts, launch and operation; the level
and place it is at, whether it climbs, came down from above, or is parked; the parking place it holds, or keeps while it
is woken, and the order in which it parked; its bounces; the status on its way to the sender, and whether PARKED was
returned. -/
structure Msg where
  id : Nat
  key : Key
  seq : Bool
  words : List W32
  node : Nat
  core : Nat
  vf : Nat
  proc : Nat
  launchId : Nat
  ctxs : List Nat
  opId : Nat
  level : Level
  place : Nat
  climbing : Bool
  came : Bool
  parked : Bool
  held : Option Level
  order : Nat
  bounces : Nat
  outcome : Option Nat
  returned : Bool
  deriving DecidableEq, Repr

structure Sends where
  ready : List Ready
  robin : List Robin
  unlisted : List Unlisted
  msgs : List Msg
  deriving DecidableEq, Repr

/-- A memory window of a VF (R344). -/
structure Window where
  vf : Nat
  index : Nat
  proc : Nat
  base : W64
  len : Nat
  r : Bool
  w : Bool
  deriving DecidableEq, Repr

/-- A notice of a notification ring (R344): 1 a launch that ended, 2 a host command that completed, 3 a completion
write that could not be made, 4 a demand fault, 5 a node declared failed. -/
structure Notice where
  kind : Nat
  launchId : Nat
  status : Nat
  addr : W64
  deriving DecidableEq, Repr

/-- A notification ring (R344): its host address and size, head and tail, the notices written to the host's memory and
those that the service core holds while the ring is full. -/
structure Ring where
  vf : Nat
  addr : W64
  log : Nat
  head : Nat
  tail : Nat
  written : List Notice
  held : List Notice
  deriving DecidableEq, Repr

/-- A fault message of demand paging (R253), and the launches parked on its page. -/
structure FaultMsg where
  vf : Nat
  proc : Nat
  page : W64
  kind : Nat
  job : Nat
  parties : List Nat
  deriving DecidableEq, Repr

/-- The host's side (R343, R344): windows, rings, answers, fault messages, error logs, and the VFs' security keys. -/
structure HostSide where
  keys : List (Nat × BitVec 256)
  windows : List Window
  rings : List Ring
  answers : List (List Byte)
  faults : List FaultMsg
  errlog : List (Nat × Nat × Nat)
  deriving DecidableEq, Repr

/-- A CXL.mem request (R280): its tag, line, direction, and the operation it acknowledges (0: none); `failed`: a read that the
device answered with poison, or not in time, and whose reader has not met it yet. -/
structure CxlReq where
  tag : Nat
  line : Nat
  write : Bool
  op : Nat
  failed : Bool
  deriving DecidableEq, Repr

/-- An attestation report, less its signature (R296). -/
structure Report where
  image : BitVec 256
  key : BitVec 256
  cacheUnits : Nat
  pinUnits : Nat
  cxl : List CxlRange
  nonce : BitVec 256
  index : Nat
  deriving DecidableEq, Repr

/-- Firmware configuration that reset loads (R307, R329): node number, MULIM, MWIN, MRET, reference package,
UREF (R304). -/
structure Firmware where
  node : Nat
  mulim : Nat
  mwin : Nat
  mret : Nat
  ref : Bool
  uref : Nat
  deriving DecidableEq, Repr

/-- The service core (R258, R259, R280, R294 to R297) and the package's configuration: recovery, whether flash
verifies, frozen, stopped for good; the next one-time key, the digests, the last report; CACHE in units of 128 MiB, PIN in
units of 64 MiB, the CXL ranges and requests; blocks with errors to test, blocks that failed, rows replaced and bank
groups out of spares; the log of self-tests; machine checks to come. -/
structure Service where
  firmware : Firmware
  recovery : Bool
  flashOk : Bool
  frozen : Bool
  dead : Bool
  attIdx : Nat
  imageDigest : BitVec 256
  keyDigest : BitVec 256
  report : Option Report
  cacheUnits : Nat
  pinUnits : Nat
  cxl : List CxlRange
  cxlReqs : List CxlReq
  errors : List Block
  failedBlocks : List Block
  spares : List (Nat × Nat)
  retired : List Nat
  tests : List (Block × Bool)
  checks : List (Nat × Nat)
  deriving DecidableEq, Repr

/-- What a checkpoint image stands for, and the bytes it is written as (R292): one that this package wrote, or another. -/
structure Image where
  addr : W64
  vf : Nat
  proc : Nat
  launch : Launch
  ranges : List Range
  ctxs : List Ctx
  ops : List Op
  xfers : List Xfer
  msgs : List Msg
  locks : List LockWait
  gens : List JobGen
  bytes : List Byte
  deriving DecidableEq, Repr

/-- Who moves next (the model's own, notes/assumptions/1.md): a context issues, an event happens, another package stores
bytes at its own home, a lock operation there leaves a word behind, or another package has written a checkpoint image
(notes/assumptions/5.md). -/
inductive Turn where
  | issue (ctx : Nat)
  | event (e : Instr)
  | peer (pa : Nat) (bytes : List Byte)
  | peerLock (pa : Nat) (word : W32)
  | peerImage (image : Image)
  deriving DecidableEq, Repr

/-- The package. The first five fields are the model's own (notes/assumptions/1.md, 2.md and 97.md): `wrote` lists what a
step has written, until its end. -/
structure State where
  tape : List Turn
  cur : Nat
  fresh : Nat
  nextId : Nat
  wrote : List (Nat × Loc)
  ctxs : List Ctx
  ranges : List Range
  launches : List Launch
  launchCount : Nat
  ops : List Op
  xfers : List Xfer
  lastStamps : List (Nat × Nat)
  cycles : List (Nat × Nat)
  mem : Mem
  disp : Disp
  accts : List (Nat × Account)
  procs : List (Nat × Proc)
  energy : Energy
  mer : Meridian
  fabric : Fabric
  sends : Sends
  host : HostSide
  svc : Service
  images : List Image
  deriving DecidableEq, Repr

/-! ## Reset -/

def Mem.reset : Mem :=
  { home := [], l1 := [], l2 := [], cp := [], deltas := [], slines := [], plain := [], cline := [], stamps := [], clocks := []
    dir := [], poison := [], tlb := [], lockq := [] }

/-- R281: every field is 0. -/
def Account.reset : Account :=
  { bal := 0, refill := 0, cap := 0, resume := 0, rbal := 0, rrefill := 0, rcap := 0, state := 0
    vfflags := 0, slice := 0, period := 0, clumax := 0, spent := 0, shared := 0, posted := 0, deepest := 0
    savebase := 0, savelen := 0, sliceOver := false, resident := false }

def Proc.reset : Proc := { root := 0, weight := 1, deficit := 0 }

/-- The reset coefficients of R255 in 2^-16 EU: affine issue, vector lane-cycle, matrix block in nx4, 8-bit and
16-bit, L1 byte, L2 byte, deep-store byte, CXL byte, copy byte, flit. -/
def coefsReset : List Nat :=
  [24 * 65536, 7 * 32768, 164 * 65536, 328 * 65536, 655 * 65536, 32768, 3 * 32768, 3 * 65536,
    12 * 65536, 65536, 3072 * 65536]

def Tile.reset : Tile := { coefs := coefsReset, f := 65536, raw := 0, posted := 0, last := 0 }

/-- R301, R311. -/
def Meridian.reset : Meridian :=
  { clo := 0, chi := (2 ^ 64 - 1) * 2 ^ 32, lo := 0, hi := 2 ^ 64 - 1, dielo := 0, diehi := 2 ^ 64 - 1
    synced := false, mulim := 2000, mwin := 4000, mret := 64000, mlast := 0, state := 2, cause := 0
    unit := 0, ref := 0, uref := 0, breach := 0, standbyLo := 0, standbyHi := (2 ^ 64 - 1) * 2 ^ 32, heard := [], ticks := 0 }

/-- R328: DOWN, nothing staged. -/
def Port.reset : Port :=
  { state := 0, erased := 0, keyidx := false, staged := false, ctr := 0, paused := 0, rxidx := false, rx0 := none
    rx1 := none, asked := [], rho := 0, dmin := 0, cctr := 0, rxc := none, ordered := false, sent := [], queue := []
    pausing := 0, got := none }

def Fabric.reset : Fabric :=
  { node := 0, ports := List.replicate 64 Port.reset, routes := [], rtx := [], kept := [], queued := [], replies := []
    failed := [], replicas := [], owners := [], splits := [], tier := false }

def Service.reset : Service :=
  { firmware := ⟨0, 2000, 4000, 64000, false, 0⟩, recovery := false, flashOk := true, frozen := false, dead := false, attIdx := 0, imageDigest := 0
    keyDigest := 0, report := none, cacheUnits := 0, pinUnits := 0, cxl := [], cxlReqs := [], errors := []
    failedBlocks := [], spares := [], retired := [], tests := [], checks := [] }

/-- The package right after reset. -/
def State.reset : State :=
  { tape := [], cur := 0, fresh := 0, nextId := 1, wrote := [], ctxs := [], ranges := [], launches := []
    launchCount := 0, ops := [], xfers := [], lastStamps := [], cycles := [], mem := Mem.reset
    disp := { queues := [], cmds := [], peers := [], jobGens := [], told := [] }, accts := [], procs := []
    energy := { tiles := [], charges := [], device := 0, window := 0 }
    mer := Meridian.reset, fabric := Fabric.reset, sends := { ready := [], robin := [], unlisted := [], msgs := [] }
    host := { keys := [], windows := [], rings := [], answers := [], faults := [], errlog := [] }
    svc := Service.reset, images := [] }

end Sys2Proof.Machine
end

