-- ==== Sys2Proof/Machine/Maps.lean ====
section
/-! DEFINITION. Maps as lists with strictly rising keys, the byte memory in its canonical form, and look-up and
update of records by their numbers. -/

namespace Sys2Proof.Machine

/-- The value at a key. -/
def kget {α : Type} (m : List (Nat × α)) (k : Nat) : Option α := (m.find? (·.1 == k)).map (·.2)

/-- Sets the value at a key, keeping the keys rising. -/
def kset {α : Type} : List (Nat × α) → Nat → α → List (Nat × α)
  | [], k, v => [(k, v)]
  | (j, w) :: t, k, v =>
    if k < j then (k, v) :: (j, w) :: t
    else if k = j then (k, v) :: t
    else (j, w) :: kset t k v

/-- Removes a key. -/
def kdel {α : Type} (m : List (Nat × α)) (k : Nat) : List (Nat × α) := m.filter (·.1 != k)

/-- The keys rise strictly. -/
def Sorted {α : Type} (m : List (Nat × α)) : Prop := (m.map (·.1)).Pairwise (· < ·)

/-- Byte memory: an address that is not listed reads as 0 (notes/assumptions/8.md). -/
abbrev Memory := List Host.Cell

def Memory.read (m : Memory) (a : Nat) : Byte := (kget m a).getD 0

/-- Writes a byte; writing 0 removes the entry. -/
def Memory.write (m : Memory) (a : Nat) (b : Byte) : Memory := if b = 0 then kdel m a else kset m a b

/-- The canonical form: addresses strictly rising, no entry equal to 0. -/
abbrev Memory.wf (m : Memory) : Prop := (m.map (·.1)).Pairwise (· < ·) ∧ ∀ c ∈ m, c.2 ≠ 0

/-- The bytes from an address on. -/
def Memory.readN (m : Memory) (a n : Nat) : List Byte := (List.range n).map fun i => m.read (a + i)

/-- Writes bytes from an address on. -/
def Memory.writeN (m : Memory) : Nat → List Byte → Memory
  | _, [] => m
  | a, b :: bs => Memory.writeN (m.write a b) (a + 1) bs

/-- Bit `n` of a mask. -/
def bitOf (m n : Nat) : Bool := m / 2 ^ n % 2 == 1

/-- The mask of a list of bit numbers, each once. -/
def maskOf (ns : List Nat) : Nat := ns.foldl (fun m n => if bitOf m n then m else m + 2 ^ n) 0

/-- The bits of `m` that are in `keep`. -/
def maskAnd (m keep : Nat) : Nat := m &&& keep

/-- `m` without bit `n`. -/
def maskDel (m n : Nat) : Nat := if bitOf m n then m - 2 ^ n else m

/-- The element of least key. -/
def leastBy {α : Type} (key : α → Nat) : List α → Option α
  | [] => none
  | x :: xs => match leastBy key xs with
    | none => some x
    | some y => if key x ≤ key y then some x else some y

def setAt {α : Type} (l : List α) (n : Nat) (x : α) : List α := l.set n x

def State.ctx (s : State) (id : Nat) : Option Ctx := s.ctxs.find? (·.id == id)
def State.range (s : State) (id : Nat) : Option Range := s.ranges.find? (·.id == id)
def State.launch (s : State) (id : Nat) : Option Launch := s.launches.find? (·.id == id)
def State.op (s : State) (id : Nat) : Option Op := s.ops.find? (·.id == id)
def State.xfer (s : State) (id : Nat) : Option Xfer := s.xfers.find? (·.id == id)

def State.modCtx (s : State) (id : Nat) (f : Ctx → Ctx) : State :=
  { s with ctxs := s.ctxs.map fun c => if c.id == id then f c else c }
def State.modRange (s : State) (id : Nat) (f : Range → Range) : State :=
  { s with ranges := s.ranges.map fun r => if r.id == id then f r else r }
def State.modLaunch (s : State) (id : Nat) (f : Launch → Launch) : State :=
  { s with launches := s.launches.map fun l => if l.id == id then f l else l }
def State.setCtx (s : State) (c : Ctx) : State := s.modCtx c.id fun _ => c

/-- A fresh number. -/
def State.newId (s : State) : Nat × State := (s.nextId, { s with nextId := s.nextId + 1 })

/-- A fresh index for free values (notes/assumptions/2.md). -/
def State.newFree (s : State) : Nat × State := (s.fresh, { s with fresh := s.fresh + 1 })

/-- The launch of a context. -/
def State.launchOf (s : State) (c : Ctx) : Option Launch :=
  match s.range c.range with
  | some r => s.launch r.launchId
  | none => none

/-- The cluster a context runs on (0 while its range is not placed). -/
def State.cluOf (s : State) (c : Ctx) : Nat :=
  match s.range c.range with
  | some r => r.cluster.getD 0
  | none => 0

def State.acct (s : State) (vf : Nat) : Account := (kget s.accts vf).getD Account.reset
def State.setAcct (s : State) (vf : Nat) (a : Account) : State := { s with accts := kset s.accts vf a }

/-- A process is keyed by VF × 256 + process. -/
def State.proc (s : State) (vf proc : Nat) : Proc := (kget s.procs (vf * 256 + proc)).getD Proc.reset
def State.setProc (s : State) (vf proc : Nat) (p : Proc) : State :=
  { s with procs := kset s.procs (vf * 256 + proc) p }

/-- The items a context holds (R121, R123): a span's as an interval. -/
def Ctx.items (c : Ctx) : List Nat :=
  match c.kind with
  | .span lo hi => (List.range (hi - lo)).map (lo + ·)
  | .strand => c.lanes.filterMap (·.item)
  | .control => []

/-- Does the context hold the item? -/
def Ctx.holds (c : Ctx) (i : Nat) : Bool :=
  match c.kind with
  | .span lo hi => lo ≤ i && i < hi
  | .strand => c.lanes.any (·.item == some i)
  | .control => false

/-- Lane numbers of a strand that hold an item (LIVEMASK, R138). -/
def Ctx.live (c : Ctx) : List Nat :=
  (List.range c.lanes.length).filter fun l => match c.lanes[l]? with
    | some x => x.item.isSome
    | none => false

end Sys2Proof.Machine
end

