-- ==== Sys2Proof/Machine/Memory.lean ====
section
/-! DEFINITION. The memory system below an access: regions (R277, R278), translation (R250 to R253, R277), the
cluster L1 and the homes (R182, R183, R204 to R206, R243, R244, R279, R315, R331), scratch and private
blocks (R118, R172). -/

namespace Sys2Proof.Machine

/-! ## Regions -/

def nodeOf (pa : Nat) : Nat := pa / 2 ^ 43 % 2 ^ 13
def offOf (pa : Nat) : Nat := pa % 2 ^ 43

/-- In the CXL window of the local window. -/
def inCxl (pa : Nat) : Bool := 0x04000000000 ≤ offOf pa

/-- The home is another package. -/
def State.remote (s : State) (pa : Nat) : Bool := nodeOf pa != s.fabric.node

/-- The home die of a line (R243, R277): the die of its pinned region for a line homed here. -/
def State.homeDieOf (s : State) (pa : Nat) : Nat :=
  if !s.remote pa && 2 ^ 36 ≤ offOf pa && offOf pa < 2 ^ 37 then (offOf pa - 2 ^ 36) / 2 ^ 33 else pa / 2 ^ 16 % 8

/-- The home slice of a line on its die (R243); the lines of a slice that failed are remapped by a hash to the die's other
slices (R258). -/
def State.homeSlice (s : State) (pa : Nat) : Nat :=
  let h := pa / 2 ^ 6 % 16 ^^^ pa / 2 ^ 10 % 16 ^^^ pa / 2 ^ 14 % 16
  let lost (k : Nat) : Bool := s.svc.failedBlocks.contains (.l2 (s.homeDieOf pa) k)
  if lost h then
    let others := (List.range 16).filter fun k => !lost k
    (others[Config.sliceHash (pa / 64) % max 1 others.length]?).getD h
  else h

/-- The metering tile of a line's home slice: a slice pair of its home die (R243, R275). -/
def State.homeTile (s : State) (pa : Nat) : Nat := s.homeDieOf pa * 64 + 16 + s.homeSlice pa / 2

/-- A line cached below L1: remote or CXL (R243). -/
def State.lowCached (s : State) (pa : Nat) : Bool := s.remote pa || inCxl pa

/-- A block that serves a line at its home slice waits for its self-test (R258): the slice, or a bank group of the die's deep
store. -/
def State.underTest (s : State) (pa : Nat) : Bool :=
  s.svc.errors.any fun b => match b with
    | .l2 d k => d == s.homeDieOf pa && k == s.homeSlice pa
    | .bank d _ => d == s.homeDieOf pa && !s.lowCached pa
    | _ => false

/-- Interleaved bytes of one die (R278). -/
def State.interleaved (s : State) : Nat :=
  46 * 2 ^ 27 - s.svc.cacheUnits * 2 ^ 27 - s.svc.pinUnits * 2 ^ 26

/-- [pa, pa + size) lies in a populated part of the pinned region of a die (R277). -/
def State.pinnedAt (s : State) (d pa size : Nat) : Bool :=
  let b := 0x01000000000 + d * 0x200000000
  b ≤ offOf pa && offOf pa + size ≤ b + s.svc.pinUnits * 2 ^ 26

/-- CXL ranges cover [a, e) of the CXL window, where several may meet (R280). -/
def cxlCovers (rs : List CxlRange) : Nat → Nat → Nat → Bool
  | 0, _, _ => false
  | fuel + 1, a, e =>
    e ≤ a || (match rs.find? fun r => r.base ≤ a && a < r.base + r.size with
      | some r => cxlCovers rs fuel (r.base + r.size) e
      | none => false)

/-- [pa, pa + size) is populated as a leaf with the given P and PDIE may name it (R277, R280). How another package divides
its deep store is not known here: the most that a division gives is taken (notes/assumptions/91.md). -/
def State.populated (s : State) (pa size : Nat) (p : Bool) (pdie : Nat) : Bool :=
  let cxl := 0x04000000000
  if s.remote pa then
    if p then
      let b := 0x01000000000 + pdie * 0x200000000
      b ≤ offOf pa && offOf pa + size ≤ b + 92 * 2 ^ 26
    else offOf pa + size ≤ 46 * 2 ^ 30 || cxl ≤ offOf pa
  else if p then s.pinnedAt pdie pa size
  else
    offOf pa + size ≤ 8 * s.interleaved ||
    (cxl ≤ offOf pa && cxlCovers s.svc.cxl (s.svc.cxl.length + 1) (offOf pa - cxl) (offOf pa + size - cxl))

/-! ## Bytes at and below the homes -/

/-- Someone writes a byte in this step, of memory or of a scratch area of a range (R208 item 2). -/
def State.note (s : State) (range : Nat) (loc : Loc) : State := { s with wrote := (range, loc) :: s.wrote }

/-- The same of bytes in a row of a scratch area. -/
def State.noteScratch (s : State) (range core off n : Nat) : State :=
  (List.range n).foldl (fun s k => s.note range (.scratch core (off + k))) s

/-- The byte lies in a tile that an MSTO stores and that the control program has not waited for: whoever else reads it gets a
free value (R208 item 3). -/
def State.openAt (s : State) (range : Nat) (loc : Loc) : Bool :=
  s.ranges.any fun r => (r.mq ++ r.late).any fun e => e.op == 0xB4 && e.dst.any fun d => match d.1, loc with
    | .g p _, .g q _ => p ≤ q && q < p + d.2
    | .scratch c o, .scratch c' o' => r.id == range && c == c' && o ≤ o' && o' < o + d.2
    | _, _ => false

/-- A byte as a party other than the engine reads it. -/
def State.unlessOpen (s : State) (range : Nat) (loc : Loc) (b : Byte) : Byte :=
  if s.openAt range loc then
    Config.freeByte (s.fresh * 2 ^ 60 + (match loc with
      | .g pa _ => pa
      | .scratch core off => core * 2 ^ 20 + off
      | _ => 0))
  else b

/-- The current contents of a home byte. -/
def State.homeRead (s : State) (pa : Nat) : Byte := Memory.read s.mem.home pa

def State.homeReadN (s : State) (pa n : Nat) : List Byte := Memory.readN s.mem.home pa n


/-- A write that is no STS: folds the line's records and acts on BASE (R315). The home bytes hold the current
contents throughout. -/
def State.homeWrite (s : State) (pa : Nat) (b : Byte) : State :=
  let line := pa / 64
  let home := Memory.write s.mem.home pa b
  let slines := match kget s.mem.slines line with
    | none => s.mem.slines
    | some l =>
      kset s.mem.slines line
        { l with base := Memory.readN home (line * 64) 64, basest := some s.mer.diehi, slots := [], moved := [] }
  let plain := if (kget s.mem.slines line).isNone then kset s.mem.plain line s.mer.diehi else s.mem.plain
  { s with mem := { s.mem with
    home := home, slines := slines, plain := plain, poison := s.mem.poison.filter (· != pa) } }

def State.homeWriteN (s : State) : Nat → List Byte → State
  | _, [] => s
  | pa, b :: bs => State.homeWriteN ((s.homeWrite pa b).note 0 (.g pa false)) (pa + 1) bs

/-- The home node has failed: a store to it is discarded (R330). -/
def State.lost (s : State) (pa : Nat) : Bool := s.remote pa && s.fabric.failed.contains (nodeOf pa)

/-! ## Lines that leave the L2 and the cache portion (R183, R279) -/

/-- The 64 bytes of a line. -/
def linePas (line : Nat) : List Nat := (List.range 64).map (64 * line + ·)

/-- The cache portion of a line's home die has room for a byte of it (R278, R279). -/
def State.portionRoom (s : State) (pa : Nat) : Bool :=
  s.mem.cp.length < s.svc.cacheUnits * 2 ^ 27 ||
  (kget s.mem.cp pa).isSome || (s.mem.cp.filter fun e => s.homeDieOf e.1 == s.homeDieOf pa).length < s.svc.cacheUnits * 2 ^ 27

/-- One byte leaves the L2 slice: a dirty one of a C line goes to the cache portion, else to its home. -/
def State.evictL2 (s : State) (pa : Nat) (toPortion : Bool) : State :=
  match kget s.mem.l2 pa with
  | none => s
  | some c =>
    let s := { s with mem := { s.mem with l2 := kdel s.mem.l2 pa } }
    if !c.dirty then s
    else if toPortion && s.portionRoom pa then { s with mem := { s.mem with cp := kset s.mem.cp pa ⟨c.val, true⟩ } }
    else if s.lost pa then s
    else { s with mem := { s.mem with cp := kdel s.mem.cp pa } }.homeWrite pa c.val

/-- A write of an evicted line to its CXL device, which the device is to answer (R280). -/
def State.sendCxl (s : State) (line : Nat) : State :=
  if s.remote (64 * line) || !inCxl (64 * line) then s
  else
    let (id, s) := s.newId
    { s with svc := { s.svc with cxlReqs := s.svc.cxlReqs ++ [⟨id, line, true, 0, false⟩] } }

/-- The line has dirty bytes in the cache. -/
def dirtyLine (m : List (Nat × CByte)) (line : Nat) : Bool :=
  (List.range 64).any fun k => (kget m (64 * line + k)).any (·.dirty)

/-- A line leaves the L2: dirty bytes of a C line go to the cache portion, where there is one; others go to the device or the
remote home. -/
def State.evictLine (s : State) (line : Nat) : State :=
  let held := kget s.mem.cline line == some true && s.svc.cacheUnits != 0
  let s := if !held && dirtyLine s.mem.l2 line then s.sendCxl line else s
  (linePas line).foldl (fun (s : State) pa => s.evictL2 pa held) s

/-- The L2 of a die holds 64 MiB (R2): a byte that finds them full makes some line leave. -/
def State.makeRoom (s : State) (pa : Nat) : State :=
  if s.mem.l2.length < 2 ^ 26 || (kget s.mem.l2 pa).isSome then s
  else
    let mine := s.mem.l2.filter fun e => s.homeDieOf e.1 == s.homeDieOf pa
    if mine.length < 2 ^ 26 then s
    else
      let (k, s) := s.newFree
      s.evictLine (((mine[Config.freeCycles k % mine.length]?).map (·.1)).getD 0 / 64)

/-- Puts a byte into the L2 slice. -/
def State.putL2 (s : State) (pa : Nat) (c : CByte) : State :=
  let s := s.makeRoom pa
  { s with mem := { s.mem with l2 := kset s.mem.l2 pa c } }

/-- A byte at the home slice of this package (R204, R243): the L2 copy of a remote or CXL line, else its
copy in the cache portion, else the home. -/
def State.sliceRead (s : State) (pa : Nat) : Byte :=
  if s.lowCached pa then
    match kget s.mem.l2 pa, kget s.mem.cp pa with
    | some c, _ => c.val
    | none, some c => c.val
    | none, none => s.homeRead pa
  else s.homeRead pa

/-- A byte write at the home slice: a remote or CXL line keeps it dirty in L2 (R205), but for a stamped line of this
package's CXL memory, whose records it folds at once (R315). -/
def State.sliceWrite (s : State) (pa : Nat) (b : Byte) : State :=
  if s.remote pa then s.putL2 pa ⟨b, true⟩
  else if inCxl pa then
    if (kget s.mem.slines (pa / 64)).isSome then
      let s := s.putL2 pa ⟨b, false⟩
      { s with mem := { s.mem with cp := kdel s.mem.cp pa } }.homeWrite pa b
    else s.putL2 pa ⟨b, true⟩
  else s.homeWrite pa b

/-- A CXL device returned the line as poisoned, or did not answer (R280). -/
def State.unread (s : State) (pa : Nat) : Bool :=
  !s.remote pa && s.svc.cxlReqs.any fun r => r.failed && r.line == pa / 64

/-- The byte is poisoned, its CXL read failed, or its home node has failed, and no cache below L1 holds it (R259, R280,
R330). -/
def State.poisoned (s : State) (pa : Nat) : Bool :=
  (s.mem.poison.contains pa || s.lost pa || s.unread pa) &&
  !(s.lowCached pa && ((kget s.mem.l2 pa).isSome || (kget s.mem.cp pa).isSome))

/-- The reader has met a failed CXL read; a later read asks the device again (R280). -/
def State.meet (s : State) (pa : Nat) : State :=
  { s with svc := { s.svc with cxlReqs := s.svc.cxlReqs.filter fun r => !(r.failed && r.line == pa / 64) } }

/-- Fills an L2 copy of a remote or CXL byte, clean, when none is valid. -/
def State.fillL2 (s : State) (pa : Nat) (b : Byte) : State :=
  match kget s.mem.l2 pa with
  | some _ => s
  | none => s.putL2 pa ⟨b, false⟩

/-- A byte of a remote or CXL line that neither the L2 nor the cache portion holds (R243). -/
def State.lowMiss (s : State) (pa : Nat) : Bool := s.lowCached pa && (kget s.mem.l2 pa).isNone && (kget s.mem.cp pa).isNone

/-- A line has been asked for, of its CXL device or of its home on another node (R280, R330). -/
def State.lineAsked (s : State) (line : Nat) : Bool :=
  (s.svc.cxlReqs.any fun r => r.line == line && !r.write && !r.failed) || s.ops.any fun o => o.what == .fetch line

/-- A byte at the home slice as a party other than the engine reads it (R208 item 3). -/
def State.sliceSeen (s : State) (pa : Nat) : Byte := s.unlessOpen 0 (.g pa false) (s.sliceRead pa)

/-- The value of the bytes of an access at the slice, least significant first. -/
def State.sliceVal (s : State) (pa n : Nat) : Nat := leVal ((List.range n).map fun i => s.sliceRead (pa + i))

/-- The same as a party other than the engine reads them. -/
def State.sliceSeenVal (s : State) (pa n : Nat) : Nat := leVal ((List.range n).map fun i => s.sliceSeen (pa + i))

def State.sliceWriteN (s : State) : Nat → List Byte → State
  | _, [] => s
  | pa, b :: bs => State.sliceWriteN ((s.sliceWrite pa b).note 0 (.g pa false)) (pa + 1) bs

/-! ## Read-modify-write at the home (R43, R244, R263) -/

/-- The new value of an ATOM or RED operation: 0 add, 1 min, 2 max, 3 and, 4 or, 5 xor, 6 exchange. Floating
add rounds under RNE; floating min and max follow R50. -/
def rmwVal (op : Nat) (t : Ty) (old x : W64) : Nat :=
  if t.isFloating then
    match op with
    | 0 => fltItem .add t 0 old x 0
    | 1 => fltItem .min t 0 old x 0
    | 2 => fltItem .max t 0 old x 0
    | _ => x.toNat % 2 ^ t.width
  else
    match op with
    | 0 => intItem .add t old x 0
    | 1 => intItem .min t old x 0
    | 2 => intItem .max t old x 0
    | 3 => (old &&& x).toNat % 2 ^ t.width
    | 4 => (old ||| x).toNat % 2 ^ t.width
    | 5 => (old ^^^ x).toNat % 2 ^ t.width
    | _ => x.toNat % 2 ^ t.width

/-- Applies one delta at the home (R244). -/
def State.applyDelta (s : State) (d : Delta) : State :=
  let old := BitVec.ofNat 64 (s.sliceVal d.pa d.ty.bytes)
  s.sliceWriteN d.pa (leBytes d.ty.bytes (rmwVal d.op d.ty old d.val))

/-- Inserts a delta in cluster order. -/
def deltaIns (d : Delta) : List Delta → List Delta
  | [] => [d]
  | e :: es => if d.clu < e.clu then d :: e :: es else e :: deltaIns d es

/-- Collects the deltas that satisfy `q`, in cluster order, before an access at the home (R244). -/
def State.collect (s : State) (q : Delta → Bool) : State :=
  let ds := (s.mem.deltas.filter q).foldl (fun l d => deltaIns d l) []
  ds.foldl State.applyDelta { s with mem := { s.mem with deltas := s.mem.deltas.filter fun d => !q d } }

/-- The delta touches [pa, pa + n). -/
def Delta.meets (d : Delta) (pa n : Nat) : Bool := d.pa < pa + n && pa < d.pa + d.ty.bytes

/-! ## The cluster L1 -/

def l1Key (clu pa : Nat) : Nat := clu * 2 ^ 56 + pa

/-- Writes one dirty byte of a cluster's L1 to its home slice and keeps it as a clean copy. -/
def State.cleanByte (s : State) (clu pa : Nat) : State :=
  match kget s.mem.l1 (l1Key clu pa) with
  | some c =>
    if c.dirty then
      let s := s.sliceWrite pa c.val
      { s with mem := { s.mem with l1 := kset s.mem.l1 (l1Key clu pa) ⟨c.val, false⟩ } }
    else s
  | none => s

/-- Drops one byte from a cluster's L1, dirty or clean. -/
def State.dropByte (s : State) (clu pa : Nat) : State :=
  { s with mem := { s.mem with l1 := kdel s.mem.l1 (l1Key clu pa) } }

/-- The addresses a cluster's L1 holds that satisfy `q`. -/
def State.l1Held (s : State) (clu : Nat) (q : Nat → CByte → Bool) : List Nat :=
  (s.mem.l1.filter fun e => e.1 / 2 ^ 56 == clu && q (e.1 % 2 ^ 56) e.2).map (·.1 % 2 ^ 56)

/-- A release at scope die or wider: every dirty byte of the L1 goes to its home (R205), after the cluster's
deltas (R244). -/
def State.writeBackL1 (s : State) (clu : Nat) : State :=
  let s := s.collect fun d => d.clu == clu
  (s.l1Held clu fun _ c => c.dirty).foldl (fun s pa => s.cleanByte clu pa) s

/-- An acquire at scope die or wider drops every clean byte of the L1 (R206). -/
def State.dropClean (s : State) (clu : Nat) : State :=
  { s with mem := { s.mem with l1 := s.mem.l1.filter fun e => e.1 / 2 ^ 56 != clu || e.2.dirty } }

/-- Reads one byte through the L1, filling its line with clean copies unless the RD hint is 7 (R182). -/
def State.l1Read (s : State) (clu pa : Nat) : Byte :=
  match kget s.mem.l1 (l1Key clu pa) with
  | some c => c.val
  | none => s.sliceRead pa

def State.l1Fill (s : State) (clu pa : Nat) : State :=
  let base := pa / 64 * 64
  (List.range 64).foldl (fun s i =>
    match kget s.mem.l1 (l1Key clu (base + i)), s.poisoned (base + i) || s.lowMiss (base + i) with
    | some _, _ => s
    | none, true => s
    | none, false =>
      let b := s.sliceRead (base + i)
      let s := if s.lowCached pa then s.fillL2 (base + i) b else s
      { s with mem := { s.mem with l1 := kset s.mem.l1 (l1Key clu (base + i)) ⟨b, false⟩ } }) s

def State.l1Write (s : State) (clu pa : Nat) (b : Byte) : State :=
  { s with mem := { s.mem with l1 := kset s.mem.l1 (l1Key clu pa) ⟨b, true⟩ } }

/-! ## Fabric scope (R331) -/

/-- Sends one dirty byte of L2 or of the cache portion to its home; one for a failed node is discarded (R330). -/
def State.cleanLow (s : State) (pa : Nat) : State :=
  match kget s.mem.l2 pa, kget s.mem.cp pa with
  | some c, _ =>
    if c.dirty && s.lost pa then { s with mem := { s.mem with l2 := kdel s.mem.l2 pa, cp := kdel s.mem.cp pa } }
    else if c.dirty then
      let s := s.homeWrite pa c.val
      { s with mem := { s.mem with l2 := kset s.mem.l2 pa ⟨c.val, false⟩, cp := kdel s.mem.cp pa } }
    else s
  | none, some c =>
    if c.dirty && s.lost pa then { s with mem := { s.mem with cp := kdel s.mem.cp pa } }
    else if c.dirty then
      let s := s.homeWrite pa c.val
      { s with mem := { s.mem with cp := kset s.mem.cp pa ⟨c.val, false⟩ } }
    else s
  | none, none => s

/-- Marks a line as stamped: an access through an S page reaches it (R312). What the slice holds dirty of it goes home. -/
def State.markStamped (s : State) (pa : Nat) : State :=
  let line := pa / 64
  match kget s.mem.slines line with
  | some _ => s
  | none =>
    let s := if s.lowCached pa then ((List.range 64).map (64 * line + ·)).foldl State.cleanLow s else s
    let l : SLine := ⟨s.homeReadN (line * 64) 64, kget s.mem.plain line, false, [], []⟩
    { s with mem := { s.mem with slines := kset s.mem.slines line l } }

/-- The addresses below L1 that hold dirty bytes. -/
def State.lowDirty (s : State) : List Nat :=
  ((s.mem.l2.filter (·.2.dirty)) ++ (s.mem.cp.filter (·.2.dirty))).map (·.1)

/-! ## Translation -/

/-- What an access meets instead of a location: a fault kind (R69), a demand page (R253), a write to a
read-duplicate page, which the service core resolves (R69, R332), a poisoned byte (R259), a line whose home block is
under test (R258), or one that must first be read from a CXL device or another node (R280, R330). -/
inductive Miss where
  | kind (k : Nat)
  | park
  | copy
  | bad (pa : Nat)
  | test (pa : Nat)
  | cxl (line : Nat)
  deriving DecidableEq, Repr

/-- The fields of a valid leaf entry that maps `size` bytes (R251, R277). -/
def State.leafFields (s : State) (e size : Nat) : Except Miss Leaf :=
  let pa := e / 2 ^ 16 % 2 ^ 40 * 2 ^ 16
  let p := bitOf e 8
  let pdie := e / 2 ^ 56 % 8
  if e / 2 ^ 10 % 2 ^ 6 != 0 || e / 2 ^ 59 != 0 || pa % size != 0 || !s.populated pa size p pdie then .error (.kind 2)
  else .ok ⟨pa, size, bitOf e 2, bitOf e 3, bitOf e 4, bitOf e 5, bitOf e 6, bitOf e 7, p, pdie⟩

/-- Decodes a leaf entry that maps `size` bytes (R251); attribute D needs a 2 MiB leaf in the local deep store
(R332). -/
def State.leafOf (s : State) (e size : Nat) : Except Miss Leaf :=
  if e % 2 == 0 then
    if e / 2 ^ 9 % 2 == 1 && e / 2 ^ 10 % 2 ^ 6 == 0 && e / 2 ^ 59 == 0 then .error .park else .error (.kind 2)
  else
    let pa := e / 2 ^ 16 % 2 ^ 40 * 2 ^ 16
    if bitOf e 6 && (size != 2 ^ 21 || s.remote pa || inCxl pa) then .error (.kind 2) else s.leafFields e size

/-- The index bits, leaf size and fuel of the walk: levels 0 to 3 (R250). -/
def walkLevels : List (Nat × Nat × Nat) :=
  [(39, 17, 0), (30, 9, 2 ^ 30), (21, 9, 2 ^ 21), (16, 5, 2 ^ 16)]

/-- A byte can be read at its home slice: not while a block that serves it is under test, while it is poisoned, or while it
must come from a CXL device or another node (R258, R259, R280, R330). -/
def State.sliceReady (s : State) (pa : Nat) : Except Miss Nat :=
  if s.underTest pa then .error (.test pa)
  else if s.poisoned pa then .error (.bad pa)
  else if s.lowMiss pa then .error (.cxl (pa / 64))
  else .ok pa

/-- The first of some bytes that cannot be read at the home slice yet. -/
def State.slicesReady (s : State) (pas : List Nat) : Except Miss Unit :=
  match (pas.filterMap fun pa => match s.sliceReady pa with
    | .error m => some m
    | .ok _ => none).head? with
  | some m => .error m
  | none => .ok ()

/-- A table entry as the walk reads it at its home, the deltas on it collected first (R244). -/
def State.tableEntry (s : State) (pa : Nat) : Except Miss Nat :=
  (s.slicesReady ((List.range 8).map (pa + ·))).map fun _ =>
    leVal ((List.range 8).map fun k => (s.collect fun d => d.meets pa 8).sliceSeen (pa + k))

/-- The four-level walk from a table address (R250, R251). A V = 0 entry with DEMAND parks at any level a leaf
may stand. -/
def State.walkFrom (s : State) (va : Nat) : List (Nat × Nat × Nat) → Nat → Except Miss Leaf
  | [], _ => .error (.kind 2)
  | (sh, n, size) :: rest, table =>
    match s.tableEntry (table + va / 2 ^ sh % 2 ^ n * 8) with
    | .error m => .error m
    | .ok e =>
    match s.fabric.splits.find? fun x => x.entry == table + va / 2 ^ sh % 2 ^ n * 8 && x.old == e with
    | some x => s.leafFields ((x.leaves[va / 2 ^ 16 % 32]?).getD 0) (2 ^ 16)
    | none =>
    if e % 2 == 0 then s.leafOf e (if size == 0 then 2 ^ 16 else size)
    else if bitOf e 1 then (if size == 0 then .error (.kind 2) else s.leafOf e size)
    else if e / 4 % 2 ^ 6 != 0 || e / 2 ^ 56 != 0 then .error (.kind 2)
    else s.walkFrom va rest (e / 2 ^ 8 % 2 ^ 48 * 2 ^ 8)

/-- Walks the table of a process (R250). -/
def State.walk (s : State) (vf proc : Nat) (va : W64) : Except Miss Leaf :=
  s.walkFrom (va.toNat % 2 ^ 56) walkLevels (s.proc vf proc).root

/-- The TLB entry of a cluster or engine for an address (R252). -/
def State.tlbHit (s : State) (clu : Nat) (engine : Bool) (vf proc : Nat) (va : W64) : Option Tlb :=
  s.mem.tlb.find? fun t =>
    t.clu == clu && t.engine == engine && t.vf == vf && t.proc == proc &&
    va.toNat % 2 ^ 56 / t.leaf.size == t.va / t.leaf.size

/-- Translates through the TLB, or by a walk. -/
def State.translate (s : State) (clu : Nat) (engine : Bool) (vf proc : Nat) (va : W64) : Except Miss Leaf :=
  match s.tlbHit clu engine vf proc va with
  | some t => .ok t.leaf
  | none => s.walk vf proc va

/-- The physical address of a virtual one under a leaf. -/
def Leaf.phys (l : Leaf) (va : W64) : Nat := l.pa + va.toNat % l.size

/-- A remote or CXL line is reached through a page with C: the cache portion may hold it (R279). -/
def State.markCached (s : State) (pa : Nat) (c : Bool) : State :=
  if c && s.lowCached pa then { s with mem := { s.mem with cline := kset s.mem.cline (pa / 64) true } } else s

/-- Fills the TLB of a cluster, 4,096 entries, or of its engine, 512, after a miss (R195, R252). -/
def State.tlbFill (s : State) (clu : Nat) (engine : Bool) (vf proc : Nat) (va : W64) : State :=
  match s.tlbHit clu engine vf proc va with
  | some t => s.markCached (t.leaf.phys va) t.leaf.c
  | none =>
    match s.walk vf proc va with
    | .ok l =>
      let s := s.markCached (l.phys va) l.c
      let t : Tlb := ⟨clu, engine, vf, proc, va.toNat % 2 ^ 56 / l.size * l.size, l⟩
      let same (x : Tlb) : Bool := x.clu == clu && x.engine == engine
      let cap := if engine then 511 else 4095
      { s with mem := { s.mem with
        tlb := t :: ((s.mem.tlb.filter same).take cap ++ s.mem.tlb.filter fun x => !same x) } }
    | .error _ => s

/-- Bits 63:56 copy bit 55 (R69). -/
def canonical (va : W64) : Bool :=
  va.toNat / 2 ^ 55 == 0 || va.toNat / 2 ^ 55 == 2 ^ 9 - 1

/-- The place of a check in the order of R373. -/
def Miss.rank : Miss → Nat
  | .kind 1 => 0
  | .kind 7 => 1
  | .kind 6 => 2
  | .kind 3 => 4
  | .kind 4 => 5
  | .copy => 5
  | .kind 5 => 6
  | .kind 8 => 7
  | _ => 3

/-- Of the checks that fail over the parts of one access, the first in the order of R373, at its lowest address. -/
def worstMiss : List (W64 × Miss) → Option (W64 × Miss)
  | [] => none
  | x :: xs => match worstMiss xs with
    | none => some x
    | some y => if x.2.rank ≤ y.2.rank then some x else some y

/-- The parts of an access that pass their checks, or what the access meets (R372, R373). -/
def wholeAccess {α : Type} (xs : List (W64 × Except Miss α)) : Except (W64 × Miss) (List α) :=
  match worstMiss (xs.filterMap fun x => match x.2 with
    | .error m => some (x.1, m)
    | .ok _ => none) with
  | some m => .error m
  | none => .ok (xs.filterMap fun x => match x.2 with
    | .ok a => some a
    | .error _ => none)

/-- What an access does with a byte. -/
structure Want where
  read : Bool
  write : Bool
  fetch : Bool
  stamped : Bool
  deriving DecidableEq, Repr

def wantRead : Want := ⟨true, false, false, false⟩
def wantWrite : Want := ⟨false, true, false, false⟩
def wantRmw : Want := ⟨true, true, false, false⟩
def wantFetch : Want := ⟨false, false, true, false⟩

/-- The checks of a translated access, in the order of R373. -/
def Leaf.check (l : Leaf) (w : Want) : Except Miss Unit :=
  if w.read && !l.r then .error (.kind 3)
  else if w.write && !l.w then .error (.kind 4)
  else if w.write && l.d then .error .copy
  else if w.fetch && !l.x then .error (.kind 5)
  else if w.stamped && !l.s then .error (.kind 8)
  else .ok ()

/-- The physical address of one byte of a .g access, or what it meets (R373). -/
def State.gByte (s : State) (clu : Nat) (engine : Bool) (vf proc : Nat) (va : W64) (w : Want) :
    Except Miss (Nat × Leaf) :=
  if !canonical va then .error (.kind 1)
  else
    match s.translate clu engine vf proc va with
    | .error e => .error e
    | .ok l =>
      match l.check w with
      | .error e => .error e
      | .ok _ => .ok (l.phys va, l)

/-- The device appends a notice to the ring of a VF, or holds it while the ring is full (R344). -/
def State.notify (s : State) (vf : Nat) (n : Notice) : State :=
  let push (r : Ring) : Ring :=
    if r.vf != vf then r
    else if r.tail - r.head < 2 ^ r.log then { r with tail := r.tail + 1, written := r.written ++ [n] }
    else { r with held := r.held ++ [n] }
  { s with host := { s.host with rings := s.host.rings.map push } }

/-- The dispatcher's message to the host's fault queue (R253): several parties' accesses to a page share one; each
party is a launch. -/
def State.faultMsg (s : State) (vf proc : Nat) (page : W64) (kind job party : Nat) : State :=
  let hit (f : FaultMsg) : Bool := f.vf == vf && f.proc == proc && f.page == page
  let join (f : FaultMsg) : FaultMsg := if hit f then { f with parties := f.parties ++ [party] } else f
  if s.host.faults.any hit then { s with host := { s.host with faults := s.host.faults.map join } }
  else
    let m : FaultMsg := { vf := vf, proc := proc, page := page, kind := kind, job := job, parties := [party] }
    ({ s with host := { s.host with faults := s.host.faults ++ [m] } } : State).notify vf ⟨4, party, 0, page⟩

/-- Bytes of the core scratch area a program may address (R116, R118): S. -/
def Launch.s (l : Launch) : Nat := l.cmd.scratch

/-- Bytes of a private block (R117). -/
def Launch.p (l : Launch) : Nat := if l.groups.isEmpty then 2048 else 4096

/-- Bytes of the private block of a context: a control program's has no receive buffer (R193). -/
def Launch.privOf (l : Launch) (c : Ctx) : Nat := if c.kind == .control then 2048 else l.p

/-- Vector and scalar register counts, strand width, C (R230). -/
def Launch.v (l : Launch) : Nat := l.cmd.vregs + 1
def Launch.sn (l : Launch) : Nat := l.cmd.scal
def Launch.w (l : Launch) : Nat := 2 ^ l.cmd.wlog
def Launch.c (l : Launch) : Nat := 2 ^ l.cmd.clog

/-- The location of an access of `n` bytes in a space, `align` when it must be naturally aligned (R373). -/
def State.locate (s : State) (c : Ctx) (space : Nat) (va : W64) (n : Nat) (align : Bool) (w : Want) :
    Except Miss Loc :=
  match s.range c.range, s.launchOf c with
  | some r, some l =>
    let a := va.toNat
    let odd := align && a % n != 0
    match space with
    | 0 =>
      if !canonical va then .error (.kind 1)
      else if odd then .error (.kind 6)
      else (s.gByte (r.cluster.getD 0) false l.vf l.proc va w).map fun p => .g p.1 p.2.s
    | 1 =>
      if 0x100000 ≤ a && a < 0x100000 + l.privOf c && a + n ≤ 0x100000 + l.privOf c then
        if odd then .error (.kind 6) else .ok (.priv (a - 0x100000))
      else if c.kind == .control then
        if a + n ≤ l.cmd.cscratch then (if odd then .error (.kind 6) else .ok (.control a)) else .error (.kind 7)
      else if a + n ≤ l.s then (if odd then .error (.kind 6) else .ok (.scratch c.core a))
      else .error (.kind 7)
    | 2 =>
      let core := a / 2 ^ 20
      let off := a % 2 ^ 20
      if a / 2 ^ 23 != 0 || r.m ≤ core || l.s < off + n then .error (.kind 7)
      else if odd then .error (.kind 6)
      else .ok (.scratch core off)
    | _ =>
      if 4 * l.v * l.w < a + n then .error (.kind 7)
      else if odd then .error (.kind 6)
      else .ok (.window a)
  | _, _ => .error (.kind 2)

end Sys2Proof.Machine
end

