-- ==== Sys2Proof/Machine/Links.lean ====
section
/-! DEFINITION. The Jalgus links (14 R323 to R330): the layout of a flit, the sender's and the receiver's side of a port, its
status register, the port that a transaction takes, and the transactions that are outstanding. -/

namespace Sys2Proof.Machine

/-! ## Flits (R323) -/

/-- The number that `n` bytes of a flit hold from an offset on. -/
def flitNum (bs : List Byte) (off n : Nat) : Nat := leVal ((bs.drop off).take n)

/-- The fields of the 256 bytes of a flit. -/
def Flit.ofBytes (bs : List Byte) : Flit :=
  let t := flitNum bs 0 1
  let dst := flitNum bs 2 2
  let src := flitNum bs 4 2
  { type := t % 16, vc := t / 16 % 8, keyIdx := bitOf t 7, dst := dst % 2 ^ 13, src := src % 2 ^ 13, len := flitNum bs 6 2
    ctr := flitNum bs 8 4, payload := (bs.drop 16).take (min 224 (flitNum bs 6 2)), tag := (bs.drop 240).take 16
    reservedZero := flitNum bs 1 1 == 0 && flitNum bs 12 4 == 0 && dst < 2 ^ 13 && src < 2 ^ 13 }

/-- The flit is one that the receiver may take: every beat correctable, its tag right, nothing reserved in it (R323, R324). -/
def RawFlit.ok (x : RawFlit) : Bool :=
  let f := Flit.ofBytes x.bytes
  x.correctable && x.tagOk && x.bytes.length == 256 && f.reservedZero && f.type < 4 && f.len ≤ 224

/-- A free number under an index. -/
def freeNum (k : Nat) : Nat := (Config.freeWord k).toNat

/-- The 256 bytes of a flit that this package sends, its payload in the clear. How a transaction's data is laid out in the
payload, and so LEN, is not given, and the cipher is not in the model: they and TAG are free (notes/assumptions/112.md). -/
def flitBytes (type vc : Nat) (slot : Bool) (dst src ctr body : Nat) : List Byte :=
  let free (k : Nat) : Byte := Config.freeByte (body * 2 ^ 60 + 2 ^ 59 + k)
  leBytes 1 (type + vc * 2 ^ 4 + slot.toNat * 2 ^ 7) ++ leBytes 1 0 ++ leBytes 2 dst ++ leBytes 2 src ++
    leBytes 2 (Config.freeCycles body % 225) ++ leBytes 4 ctr ++ leBytes 4 0 ++ (List.range 224).map free ++
    (List.range 16).map fun k => free (2 ^ 40 + ctr * 32 + slot.toNat * 16 + k)

/-- The flit that carries it, under a counter. One toward the switch tiers, a timing and a control flit name no node that this
package knows: DST is free there, as are the VC of the last two and the slot of the control key (notes/assumptions/112.md). -/
def Cargo.bytes (c : Cargo) (slot : Bool) (ctr : Nat) : List Byte :=
  match c with
  | .data src vc dst _ body => flitBytes 0 vc slot (if dst == src then freeNum body % 2 ^ 13 else dst) src ctr body
  | .timing src _ _ body => flitBytes 2 (freeNum body / 2 ^ 13 % 8) slot (freeNum body % 2 ^ 13) src ctr body
  | .control src body keying =>
    flitBytes (if keying then 3 else 1) (freeNum body / 2 ^ 13 % 8) (Config.freeBool body) (freeNum body % 2 ^ 13) src ctr body

/-! ## A port's sender (R324 to R327) -/

/-- A port is UP or DEGRADED: it carries data and timing flits (R303, R327). -/
def Port.carries (p : Port) : Bool := p.state == 2 || p.state == 3

/-- The state of a port that can carry data: UP, or DEGRADED with an erased lane. -/
def Port.upState (p : Port) : Nat := if p.erased == 0 then 2 else 3

/-- The staged key is taken into use from CTR 0 (R326). -/
def Port.switchKey (p : Port) : Port := { p with keyidx := !p.keyidx, staged := false, ordered := false, ctr := 0 }

/-- The flit stays among the last 64 that were sent (R324). -/
def Port.keep (p : Port) (ctr : Nat) (c : Cargo) : Port :=
  let sent := p.sent ++ [⟨p.keyidx, ctr, c, c.bytes p.keyidx ctr⟩]
  { p with sent := sent.drop (sent.length - 64) }

/-- Sends one flit under the data key: the first one after CTR has reached 2^31, or after the
service core's order, goes under a staged key, and the last counter without one exhausts the key (R324, R326, R327). -/
def Port.sendFlit (p : Port) (c : Cargo) : Port :=
  let p := if p.staged && (p.ordered || 2 ^ 31 < p.ctr) then p.switchKey else p
  let p := p.keep p.ctr c
  if p.ctr + 1 < 2 ^ 32 then { p with ctr := p.ctr + 1 }
  else if p.staged then p.switchKey
  else { p with state := 4 }

/-- The peer pauses the flit's virtual channel (R325). -/
def Port.holds (p : Port) (c : Cargo) : Bool :=
  match c with
  | .data _ vc _ _ _ => bitOf p.paused vc
  | _ => false

/-- A flit leaves, or waits while its channel is paused or the port carries none (R325, R327). -/
def Port.put (p : Port) (c : Cargo) : Port :=
  if p.carries && !p.holds c then p.sendFlit c else { p with queue := p.queue ++ [c] }

/-- The flits that wait leave, as far as they may. -/
def Port.drain (p : Port) : Port := p.queue.foldl Port.put { p with queue := [] }

/-- A control or keying flit is sent under the control key (R326). -/
def Port.control (p : Port) (src body : Nat) (keying : Bool) : Port :=
  { (p.keep p.cctr (.control src body keying)) with cctr := p.cctr + 1 }

/-- The contents of a flit that was lost go again under the next counter of their key; a lost timing flit is absent (R303,
R324). -/
def Port.again (p : Port) (c : Cargo) : Port :=
  match c with
  | .data _ _ _ _ _ => p.put c
  | .timing _ _ _ _ => p
  | .control src body keying => p.control src body keying

/-- Goes DOWN (R324). -/
def Port.down (p : Port) : Port := { p with state := 0 }

/-- The 64-bit status register (R328). -/
def Port.linkstat (p : Port) : Nat :=
  p.state % 8 + p.erased % 16 * 2 ^ 4 + p.keyidx.toNat * 2 ^ 8 + p.staged.toNat * 2 ^ 9 + p.ctr % 2 ^ 32 * 2 ^ 16 +
    p.paused % 2 ^ 8 * 2 ^ 48

/-! ## Routes (R329) -/

def State.modPort (s : State) (port : Nat) (f : Port → Port) : State :=
  { s with fabric := { s.fabric with ports := s.fabric.ports.modify port f } }

/-- The ports of a node's route that are not down or in training. -/
def State.routesTo (s : State) (node : Nat) : List Nat :=
  ((kget s.fabric.routes node).getD []).filter fun p => (s.fabric.ports[p]?).any fun x => 2 ≤ x.state

/-- The port that a transaction takes, by the hash of source, destination and tag. -/
def State.portFor (s : State) (node tag : Nat) : Option Nat :=
  let ps := s.routesTo node
  ps[Config.routeHash s.fabric.node node tag % max 1 ps.length]?

/-- A port takes what it is to carry. -/
def State.putOn (s : State) (port : Option Nat) (c : Cargo) : State :=
  match port with
  | some p => s.modPort p fun x => x.put c
  | none => s

/-- Sends a flit of a transaction on a virtual channel; with no port to the node it goes nowhere. -/
def State.sendData (s : State) (vc node tag : Nat) : State :=
  let (k, s) := s.newFree
  s.putOn (s.portFor node tag) (.data s.fabric.node vc node tag k)

/-- The port toward the switch tiers, one of those that are up: where a message goes is theirs to say. -/
def State.tierPort (s : State) (tag : Nat) : Option Nat :=
  let ps := (List.range 64).filter fun p => (s.fabric.ports[p]?).any (·.carries)
  ps[Config.routeHash s.fabric.node s.fabric.node tag % max 1 ps.length]?

/-- Sends a flit toward the switch tiers. -/
def State.sendTier (s : State) (vc tag : Nat) : State :=
  let (k, s) := s.newFree
  s.putOn (s.tierPort tag) (.data s.fabric.node vc s.fabric.node tag k)

/-- The metering tile of a port: its group of four (R254, R275). -/
def portTile (port : Nat) : Nat := 512 + port / 4

/-- The traffic of a port that went down moves to other ports (R324). -/
def State.moveTraffic (s : State) (port : Nat) : State :=
  match s.fabric.ports[port]? with
  | none => s
  | some p =>
    p.queue.foldl (fun s c => match c with
      | .data src _ node tag _ => s.putOn (if node == src then s.tierPort tag else s.portFor node tag) c
      | _ => s) (s.modPort port fun p => { p with queue := [] })

/-- A flit of the transaction still waits to be sent. -/
def State.unsent (s : State) (tag : Nat) : Bool :=
  s.fabric.ports.any fun p => p.queue.any fun c => match c with
    | .data _ _ _ t _ => t == tag
    | _ => false

/-! ## Transactions with other nodes (R330) -/

/-- An operation opens a transaction with another node (R330). -/
def State.openTx (s : State) (node op : Nat) : State :=
  let tag := op % 2 ^ 16
  let t : Rtx := ⟨tag, node, 0, op, s.portFor node tag, s.mer.ticks⟩
  ({ s with fabric := { s.fabric with rtx := s.fabric.rtx ++ [t] } } : State).sendData 0 node tag

/-- Its answer has come. -/
def State.closeTx (s : State) (op : Nat) : State :=
  { s with fabric := { s.fabric with rtx := s.fabric.rtx.filter (·.opId != op) } }

/-- The transaction of an operation has not left yet: its flit waits (R325, R327), or no port leads to the node (R329). -/
def State.txUnsent (s : State) (op : Nat) : Bool :=
  s.unsent (op % 2 ^ 16) || s.fabric.rtx.any fun x => x.opId == op && x.port.isNone

/-! ## Answers to other nodes (R330) -/

/-- Answers a request of another node. -/
def State.reply (s : State) (r : RemoteReq) (hold : Bool) (bytes : List Byte) : State :=
  ({ s with fabric := { s.fabric with replies := s.fabric.replies ++ [⟨r.node, r.tag, hold, bytes⟩] } } : State).sendData 1
    r.node r.tag

/-- Answers a write, atomic, STS or directory request, and keeps the answer for 1 ms. -/
def State.keep (s : State) (r : RemoteReq) (answer : List Byte) : State :=
  ({ s with fabric := { s.fabric with kept := s.fabric.kept ++ [⟨r, answer, s.mer.ticks⟩] } } : State).reply r false answer

end Sys2Proof.Machine
end

