-- ==== Sys2Proof/Machine/Readiness.lean ====
section
/-! DEFINITION. The readiness that the levels of group sends keep (14 R333, R336): counts, LIVE bits, unlisted children and
round-robin pointers. A child of a core is a context slot, of a die 8 × cluster + core, of the package switch a die. -/

namespace Sys2Proof.Machine

/-- The keys a level holds. -/
def levelCap : Level → Nat
  | .core => 256
  | .die => 4096
  | _ => 16384

def Ready.at (x : Ready) (level : Level) (place : Nat) (key : Key) : Bool :=
  x.level == level && x.place == place && x.key == key

/-- The total of a key at a level. -/
def Sends.total (d : Sends) (level : Level) (place : Nat) (key : Key) : Nat :=
  ((d.ready.filter (·.at level place key)).map (·.total)).sum

/-- Some LIVE bit of (job, group) is set at a level. -/
def Sends.live (d : Sends) (level : Level) (place : Nat) (key : Key) : Bool :=
  d.ready.any fun x => x.level == level && x.place == place && x.key.job == key.job && x.key.group == key.group && x.live

/-- The children with a count for the key, or unlisted for it. -/
def Sends.kids (d : Sends) (level : Level) (place : Nat) (key : Key) : List Nat :=
  (d.ready.filter fun x => x.at level place key && x.total != 0).map (·.child) ++
    (d.unlisted.filter fun x => x.level == level && x.place == place && x.key == key).map (·.child)

/-- A key leaves its level's table with its pointer, which is 0 again when it enters (R336). -/
def Sends.noRobin (d : Sends) (level : Level) (place : Nat) (key : Key) : Sends :=
  { d with robin := d.robin.filter fun r => !(r.level == level && r.place == place && r.key == key) }

/-- A child's report: its total, saturating at 65,535, and LIVE. An entry with neither leaves the table, a key without
entries takes its pointer with it; a level without room marks the child unlisted for the key. -/
def Sends.report (d : Sends) (level : Level) (place child : Nat) (key : Key) (total : Nat) (live : Bool) : Sends :=
  let others := d.ready.filter fun x => !(x.at level place key && x.child == child)
  let keys := ((others.filter fun x => x.level == level && x.place == place).map (·.key)).eraseDups
  let d : Sends := { d with unlisted := d.unlisted.filter fun x => x != (⟨level, place, child, key⟩ : Unlisted) }
  if total == 0 && !live then
    let d : Sends := { d with ready := others }
    if keys.contains key then d else d.noRobin level place key
  else if keys.contains key || keys.length < levelCap level then
    let d := if keys.contains key then d else d.noRobin level place key
    { d with ready := others ++ [⟨level, place, child, key, min total 65535, live⟩] }
  else { d with unlisted := d.unlisted ++ [⟨level, place, child, key⟩] }

/-- A count set to 0 after a bounce; an unlisted child loses its mark for the key (R336). -/
def Sends.zero (d : Sends) (level : Level) (place child : Nat) (key : Key) : Sends :=
  if d.ready.any fun x => x.at level place key && x.child == child then
    { d with ready := d.ready.map fun (x : Ready) =>
        { x with total := if x.at level place key && x.child == child then 0 else x.total } }
  else { d with unlisted := d.unlisted.filter fun x => x != (⟨level, place, child, key⟩ : Unlisted) }

/-- A level has something to tell its parent at once: the total of a key has moved between 0 and nonzero, or a LIVE bit has
changed (R333). -/
def Sends.moved (a b : Sends) (level : Level) (place : Nat) (key : Key) : Bool :=
  (a.total level place key == 0) != (b.total level place key == 0) || a.live level place key != b.live level place key

/-- A message passes down: the child's count falls unless it is saturated. -/
def Sends.pass (d : Sends) (level : Level) (place child : Nat) (key : Key) : Sends :=
  let less (x : Ready) : Nat :=
    if x.at level place key && x.child == child && x.total != 65535 then x.total - 1 else x.total
  { d with ready := d.ready.map fun (x : Ready) => { x with total := less x } }

def Sends.next (d : Sends) (level : Level) (place : Nat) (key : Key) : Nat :=
  ((d.robin.find? fun r => r.level == level && r.place == place && r.key == key).map (·.next)).getD 0

/-- The pointer of a key that the level's table holds (R333, R336). -/
def Sends.setNext (d : Sends) (level : Level) (place : Nat) (key : Key) (n : Nat) : Sends :=
  if !(d.ready.any (·.at level place key)) then d
  else { d with robin := (d.robin.filter fun r => !(r.level == level && r.place == place && r.key == key)) ++
      [⟨level, place, key, n⟩] }

/-- The first number at or above the pointer, wrapping past the highest. -/
def pick (next : Nat) (xs : List Nat) : Option Nat :=
  let least (ys : List Nat) : Option Nat := ys.find? fun y => ys.all (y ≤ ·)
  match least (xs.filter (next ≤ ·)) with
  | some x => some x
  | none => least xs

/-- The die and the child number there of a core, or of a control core, which is no child. -/
def dieOf (core : Nat) : Nat := if core < 1024 then core / 128 else (core - 1024) / 16

end Sys2Proof.Machine
end

