-- ==== Sys2Proof/Machine/Ops.lean ====
section
/-! DEFINITION. The operations on contexts that many instructions share: store accounting (R115 to R120), cuts and
materialisation (R122 to R125), ending items (R123, R152), barriers (R128, R129), merges (R131), charges
(R255, R276), and TAKING A TRAP (R137, R138) with the return from it (R156). -/

namespace Sys2Proof.Machine

/-! ## The unified store -/

def round256 (n : Nat) : Nat := (n + 255) / 256 * 256

/-- Window bytes of a context (R117). -/
def Launch.window (l : Launch) (strand : Bool) : Nat :=
  round256 (256 + 8 * l.sn + 16 * (l.v + 8) + l.p + if strand then 4 * l.v * l.w + 8 * l.w + 64 else 0)

/-- Blocks of the allocatable store that a context holds, its reservation included (R117, R165). -/
def Ctx.blocks (c : Ctx) (l : Launch) : Nat :=
  match c.kind with
  | .control => 0
  | .span _ _ => l.window false / 256 + c.reserve * (l.window true / 256)
  | .strand => l.window true / 256

/-- The working cores of a cluster (R180, R258). -/
def State.workCores (s : State) (clu : Nat) : List Nat :=
  (List.range 8).filter fun k => !s.svc.failedBlocks.contains (.core clu k)

/-- The working core that holds logical core `k` of a range (R180, R290). -/
def State.physCore (s : State) (range k : Nat) : Nat :=
  match (s.range range).bind (·.cluster) with
  | some clu => ((s.workCores clu)[k % max 1 (s.workCores clu).length]?).getD k
  | none => k

/-- The core a context's CYCLE counter belongs to (R157, R299). -/
def State.coreNumber (s : State) (c : Ctx) : Nat :=
  if c.kind == .control then 1024 + s.cluOf c else 8 * s.cluOf c + s.physCore c.range c.core

/-- The resident contexts of the core that holds a logical core. -/
def State.onCore (s : State) (range core : Nat) : List Ctx :=
  s.ctxs.filter fun c =>
    c.range == range && s.physCore range c.core == s.physCore range core && c.resident && c.kind != .control

/-- Free blocks of the core that holds a logical core (R115, R116). -/
def State.freeBlocks (s : State) (l : Launch) (range core : Nat) : Nat :=
  let m := ((s.range range).map (·.m)).getD 0
  let areas := ((List.range m).filter fun k => s.physCore range k == s.physCore range core).length
  3584 - areas * (round256 l.s / 256) - ((s.onCore range core).map (·.blocks l)).sum

/-- Free blocks that a context may take: none while they are granted to another space waiter of its core (R120). -/
def State.freeFor (s : State) (c : Ctx) (l : Launch) : Nat :=
  if (s.onCore c.range c.core).any fun d => d.first && d.id != c.id then 0 else s.freeBlocks l c.range c.core

/-- Bytes of a saved range whose size the manual gives (R289): scratch areas, control scratch, the 16 tiles, the window
of each context, and the control program's private block. -/
def State.savedBytes (s : State) (r : Range) : Nat :=
  match s.launch r.launchId with
  | none => 0
  | some l =>
    r.m * round256 l.s + l.cmd.cscratch + 16 * 40960 + 2048 +
      ((s.ctxs.filter (·.range == r.id)).map fun c => 256 * c.blocks l).sum

/-- Free context slots of the core that holds a logical core (R122). -/
def State.freeSlots (s : State) (range core : Nat) : Nat := 64 - (s.onCore range core).length

/-! ## Charges (R255, R276) -/

/-- The metering tile of a cluster (R275). -/
def clusterTile (clu : Nat) : Nat := clu / 16 * 64 + clu % 16

def State.tile (s : State) (t : Nat) : Tile := (kget s.energy.tiles t).getD Tile.reset

/-- Adds an amount to a tag's unposted charges at a tile. -/
def addCharge (cs : List Charge) (c : Charge) : List Charge :=
  match cs with
  | [] => [c]
  | d :: ds =>
    if d.tile == c.tile && d.node == c.node && d.vf == c.vf && d.proc == c.proc && d.launchId == c.launchId &&
        d.remote == c.remote then
      { d with amount := (d.amount + c.amount) % 2 ^ 80 } :: ds
    else d :: addCharge ds c

/-- Charges coefficient × count × f to a tag at a tile, in 2^-16 EU; which way an inexact product rounds is
free (R255, notes/assumptions/2.md). Answers the amount. -/
def State.charge (s : State) (tile vf proc launchId : Nat) (remote : Bool) (raw : Nat) : State × Nat :=
  let t := s.tile tile
  let exact := raw * t.f
  let up := exact % 65536 != 0 && Config.freeBool s.fresh
  let amount := exact / 65536 + up.toNat
  let t' := { t with raw := (t.raw + raw) % 2 ^ 80 }
  ({ s with
    fresh := s.fresh + 1
    energy := { s.energy with
      tiles := kset s.energy.tiles tile t'
      charges := addCharge s.energy.charges ⟨tile, s.fabric.node, vf, proc, launchId, remote, amount⟩ } }, amount)

/-- The coefficient of an event class (R255). -/
def State.coef (s : State) (tile cls : Nat) : Nat := ((s.tile tile).coefs)[cls]?.getD 0

/-- Charges a context's own tag at a tile, its running sub-meters gathering the amount (R276). -/
def State.chargeCtx (s : State) (c : Ctx) (tile cls count2 : Nat) : State :=
  match s.launchOf c with
  | none => s
  | some l =>
    let (s, a) := s.charge tile l.vf l.proc l.id false (s.coef tile cls * count2 / 2)
    s.modCtx c.id fun c =>
      { c with subs := c.subs.map fun x => if x.running then { x with count := (x.count + a) % 2 ^ 80 } else x }

/-- Charges bytes written to a VF's save pool to its tag, at the deep-store or the CXL coefficient (R239, R255); which bank
group or port they take is free. -/
def State.chargePool (s : State) (vf proc launch n : Nat) (remote : Bool := false) : State :=
  if n = 0 then s
  else
    let base := (s.acct vf).savebase
    let (k, s) := s.newFree
    let tile := if inCxl base then 528 + Config.freeCycles k % 16 else s.homeDieOf base * 64 + 28 + Config.freeCycles k % 8
    (s.charge tile vf proc launch remote (s.coef tile (if inCxl base then 8 else 7) * n)).1

/-! ## Registers of spans as values of items -/

def RForm.at (f : RForm) (i : Nat) : W32 :=
  match f with
  | .u x => x
  | .a c s => c + s * BitVec.ofNat 32 i
  | .lo c s => (c + s * BitVec.ofNat 64 i).setWidth 32
  | .hi c s => (c + s * BitVec.ofNat 64 i).ushiftRight 32 |>.setWidth 32
  | .m => 0

def PForm.at (f : PForm) (i : Nat) : Bool :=
  match f with
  | .u x => x
  | .i lo hi => lo ≤ i && i < hi
  | .m => false

/-- A predicate restricted to [lo, hi): whole or empty is held as U (R71). -/
def PForm.within (f : PForm) (lo hi : Nat) : PForm :=
  match f with
  | .u x => .u x
  | .i a b => if b ≤ lo || hi ≤ a || b ≤ a then .u false else if a ≤ lo && hi ≤ b then .u true
    else .i (max a lo) (min b hi)
  | .m => .m

/-- The form of a predicate in a strand: none holds an interval (R78). -/
def PForm.lanes (f : PForm) : PForm :=
  match f with
  | .i _ _ => .m
  | f => f

/-- The lane array entry of item `i` of a span. A lane that carries no item holds 0 in every register, and after its item
ends what the item held: the manual does not say what a .w access meets there (R72, notes/assumptions/86.md). -/
def Ctx.laneOf (c : Ctx) (item : Option Nat) : Lane :=
  match item with
  | some i => ⟨some i, c.pc, none, c.regs.map (·.at i), c.preds.map (·.at i)⟩
  | none => ⟨none, 0, none, c.regs.map fun _ => 0, c.preds.map fun _ => false⟩

/-- A channel at its reset values (R334). -/
def Chan.reset : Chan := ⟨0, 0, 0, [], 16, 16⟩

/-- The header of a channel area (R334). -/
def Chan.bytes (h : Chan) : List Byte :=
  leBytes 2 h.held.length ++ leBytes 2 h.offered ++ leBytes 2 h.rdoff ++ leBytes 2 h.wroff ++ leBytes 2 h.group ++
    leBytes 2 h.limit ++ leBytes 4 0

/-- Sets a channel and its header in the private block. -/
def Ctx.putChan (c : Ctx) (n : Nat) (h : Chan) : Ctx :=
  { c with chans := c.chans.set n h, priv := Memory.writeN c.priv (0x800 + 512 * n) h.bytes }

/-- A private block at its reset values (R138, R334). -/
def Launch.blank (l : Launch) : List Host.Cell :=
  if l.groups.isEmpty then []
  else [0, 1, 2, 3].foldl (fun m n => Memory.writeN m (0x800 + 512 * n) Chan.reset.bytes) []

/-- The part of a context that a piece other than the lowest starts afresh (R124, R165, R276). -/
def Ctx.fresh (c : Ctx) (id : Nat) (blank : List Host.Cell) : Ctx :=
  { c with
    id := id, priv := blank, chans := c.chans.map fun _ => Chan.reset, reserve := 0, issued := 0, billed := false, visited := []
    subs := c.subs.map fun x => { x with count := 0 }, active := false, seat := none }

/-- Restricts a span to [lo, hi). -/
def Ctx.narrow (c : Ctx) (lo hi : Nat) : Ctx :=
  { c with kind := .span lo hi, preds := c.preds.map (·.within lo hi) }

/-- The strand that holds items [lo, hi), item i in lane i mod W (R123). It keeps the span's forms (R124); linked barriers
cover its lanes (R128), and return masks are restricted to them (R151). -/
def Ctx.toStrand (c : Ctx) (w lo hi : Nat) : Ctx :=
  let lanes := (List.range w).map fun l =>
    let i := lo / w * w + l
    c.laneOf (if lo ≤ i && i < hi then some i else none)
  let live := maskOf ((List.range w).filter fun l => lo ≤ lo / w * w + l && lo / w * w + l < hi)
  { c with
    kind := .strand, lanes := lanes, preds := c.preds.map fun p => (p.within lo hi).lanes, reserve := 0
    bars := c.bars.map fun b => match b with
      | .linked j _ => .linked j live
      | x => x
    rets := c.rets.map fun r => { r with mask := live }
    rep := c.rep.map fun r => { r with mask := live }
    landing := c.landing.flatMap fun x => match x.dst with
      | .reg r none => ((List.range w).filter (bitOf live)).map fun l => { x with dst := .reg r (some l), uni := true }
      | .pred p none => ((List.range w).filter (bitOf live)).map fun l => { x with dst := .pred p (some l), uni := true }
      | _ => [x] }

/-- Puts pieces in the place of a context: the first keeps its number, and every operation of the parent is
held by all, as is its part in messages (R124). -/
def State.replaceCtx (s : State) (id : Nat) (pieces : List Ctx) : State :=
  let ids := (pieces.map (·.id)).filter (· != id)
  let add (xs : List Nat) : List Nat := if xs.contains id then xs ++ ids else xs
  { s with
    ctxs := s.ctxs.flatMap fun c => if c.id == id then pieces else [c]
    ops := s.ops.map fun (o : Op) => { o with ctxs := add o.ctxs }
    sends := { s.sends with msgs := s.sends.msgs.map fun (m : Msg) => { m with ctxs := add m.ctxs } } }

/-- A context leaves its slot (R122). -/
def Ctx.spill (c : Ctx) : Ctx := { c with resident := false, active := false, seat := none }

/-- Spills the pieces that find no place: the lowest-indexed stay resident (R122). -/
def spillFrom (free : Nat) : List Ctx → List Ctx
  | [] => []
  | c :: cs =>
    match free with
    | 0 => c.spill :: spillFrom 0 cs
    | n + 1 => c :: spillFrom n cs

/-- How many new compact spans a core can keep resident: each needs a slot and its window (R115, R122). -/
def State.roomForSpans (s : State) (c : Ctx) (l : Launch) : Nat :=
  min (s.freeSlots c.range c.core) (s.freeFor c l / (l.window false / 256))

/-- The lowest context slot of a core that no resident context sits in. -/
def State.freeSeat (s : State) (c : Ctx) : Nat :=
  ((List.range 64).find? fun k => !(s.onCore c.range c.core).any fun d => d.id != c.id && d.seat == some k).getD 0

/-- Every resident context without a slot takes the lowest free one of its core (R122). -/
def State.seatAll (s : State) : State :=
  (s.ctxs.filter fun c => c.resident && c.seat.isNone && c.kind != .control).foldl
    (fun s c => s.modCtx c.id fun d => { d with seat := some (s.freeSeat c) }) s

/-! ## What a context may wait for (R136) -/

/-- A token has an operation outstanding (R39). -/
def State.tokBusy (s : State) (id t : Nat) : Bool :=
  s.ops.any fun o => o.tok == some t && o.ctxs.contains id

/-- The operation keeps its contexts' windows: all but unacknowledged stores (R123, R152). -/
def Op.holds (o : Op) : Bool :=
  match o.what with
  | .remote _ _ _ => false
  | _ => true

/-- Accesses of a control program that MFEN waits for: all but the engine's (R225). -/
def State.unfenced (s : State) (ctx : Nat) : Bool :=
  s.ops.any fun o => o.ctxs.contains ctx && o.holds && o.what != .matrix

/-- An operation issued while a sub-meter ran is outstanding (R276). -/
def State.metered (s : State) (ctx m : Nat) : Bool :=
  s.ops.any fun o => o.ctxs.head? == some ctx && bitOf o.meters m

/-- A .seq message of the context on a channel is outstanding (R339). -/
def State.seqOut (s : State) (id chan : Nat) : Bool :=
  s.sends.msgs.any fun m => m.seq && m.ctxs.contains id && m.key.chan == chan && (m.outcome.isNone || m.outcome == some 1)

/-- Payload words of a channel that are not yet popped. -/
def Chan.waiting (h : Chan) : Nat := (h.held.map fun r => r.words.length - r.popped).sum

/-- The physical address of a queue's tail in the command window (R233). -/
def State.tailPa (s : State) (q : Nat) : Nat := s.fabric.node * 2 ^ 43 + 0x02000000000 + 8 * q

def State.tailOf (s : State) (q : Nat) : Nat := leVal (s.homeReadN (s.tailPa q) 8)

def Queue.reset : Queue := ⟨0, 0, 0, 0, 0, false, 0, none⟩

def State.queue (s : State) (q : Nat) : Queue := (kget s.disp.queues q).getD Queue.reset

/-- The ring of a queue holds as many commands as it has places (R233). -/
def State.ringFull (s : State) (q : Nat) : Bool := s.tailOf q - (s.queue q).head.toNat == 2 ^ (s.queue q).logsz

/-- The PHASE bit of an arrival object (R186) as an AWAIT of the cluster would read it. -/
def State.phaseAt (s : State) (range ctx clu lvl : Nat) (loc : Loc) : Bool :=
  match loc with
  | .g pa _ =>
    let own := (kget s.mem.l1 (l1Key clu (pa + 8))).filter (·.dirty)
    let t := s.collect fun d => d.meets (pa / 64 * 64) 64
    bitOf (match own with
      | some c => c.val.toNat
      | none => (if lvl == 4 && s.remote pa && !((kget s.mem.l2 (pa + 8)).any (·.dirty) || (kget s.mem.cp (pa + 8)).any (·.dirty))
          then t.homeRead (pa + 8) else t.sliceRead (pa + 8)).toNat) 0
  | .scratch core off => bitOf (((s.range range).map fun r => Memory.read r.scratch (core * 2 ^ 20 + off + 8)).getD 0).toNat 0
  | .control off => bitOf (((s.range range).map fun r => Memory.read r.cscratch (off + 8)).getD 0).toNat 0
  | .priv off => bitOf (((s.ctx ctx).map fun c => Memory.read c.priv (off + 8)).getD 0).toNat 0
  | .window _ => false

/-- Is `d` a compact span of the same per-core range that touches `c`? -/
def adjacent (c d : Ctx) : Bool :=
  match c.kind, d.kind with
  | .span lo hi, .span lo' hi' =>
    d.range == c.range && d.core == c.core && d.id != c.id && (hi == lo' || hi' == lo)
  | _, _ => false

/-- Waits at a JOIN at this PC (R131, R161). -/
def atJoin (pc : W64) (d : Ctx) : Bool :=
  d.pc == pc && (match d.wait with
    | .join _ => true
    | _ => false)

/-! ## Groups (R188, R189) -/

def Run.has (r : Run) (i : Nat) : Bool :=
  r.lo ≤ i && (i - r.lo) % r.stride == 0 && (i - r.lo) / r.stride < r.count

def Group.has (g : Group) (i : Nat) : Bool := g.runs.any (·.has i)

/-- Item `i` is a member of group `k` of the launch. -/
def Launch.member (l : Launch) (k i : Nat) : Bool := l.groups.any fun g => g.k == k && g.has i

/-- A channel's offers of a key. -/
def Ctx.offersOf (c : Ctx) (l : Launch) (key : Key) : Nat :=
  match c.chans[key.chan]? with
  | some h => if h.group == key.group && l.cmd.job == key.job then h.offered else 0
  | none => 0

/-- The context holds a live member of the key's group. -/
def Ctx.member (c : Ctx) (l : Launch) (key : Key) : Bool := l.cmd.job == key.job && c.items.any (l.member key.group)

/-- The resident context in a slot of a core, its range placed. -/
def State.inSeat (s : State) (core seat : Nat) : Option Ctx :=
  s.ctxs.find? fun c => c.resident && c.seat == some seat && c.kind != .control && s.coreNumber c == core &&
    (s.range c.range).any (·.cluster.isSome)

/-- The offers and the LIVE bit of a context slot for a key. -/
def State.slotTotal (s : State) (core seat : Nat) (key : Key) : Nat × Bool :=
  match s.inSeat core seat with
  | some c => (match s.launchOf c with
    | some l => (c.offersOf l key, c.member l key)
    | none => (0, false))
  | none => (0, false)

/-- The package switch tells the switch tier at once what has moved there, in a flit on VC 4 (R325, R333). It names the port of
the switch that this package hangs at by its own node number (notes/assumptions/113.md). -/
def State.tierReport (s : State) (before : Sends) (key : Key) : State :=
  if !s.fabric.tier || !Sends.moved before s.sends .pkg 0 key then s
  else
    ({ s with sends := s.sends.report .fabric 0 s.fabric.node key (s.sends.total .pkg 0 key) (s.sends.live .pkg 0 key) } :
      State).sendTier 4 (2 ^ 16)

/-- A context slot reports to its core; a total that moves between 0 and nonzero, and a LIVE bit that changes, go up at once
(R333). -/
def State.report (s : State) (core seat : Nat) (key : Key) : State :=
  let now := s.slotTotal core seat key
  let moved (level : Level) (place : Nat) (a b : Sends) : Bool := a.moved b level place key
  let d := s.sends
  let d1 := d.report .core core seat key now.1 now.2
  if !moved .core core d d1 then { s with sends := d1 }
  else
    let d2 := d1.report .die (core / 128) (core % 128) key (d1.total .core core key) (d1.live .core core key)
    if !moved .die (core / 128) d1 d2 then { s with sends := d2 }
    else
      let d3 := d2.report .pkg 0 (core / 128) key (d2.total .die (core / 128) key) (d2.live .die (core / 128) key)
      ({ s with sends := d3 } : State).tierReport d2 key

/-- What a core may have to report: the keys it knows of, those that its contexts offer, and their groups. -/
def State.reports (s : State) (range core number : Nat) : List (Nat × Key) :=
  let known := (s.sends.ready.filter fun x => x.level == .core && x.place == number).map fun x => (x.child, x.key)
  let own := (s.onCore range core).flatMap fun c => match s.launchOf c, c.seat with
    | some l, some k =>
      ((l.groups.filter fun g => c.items.any g.has).map fun g => (k, (⟨l.cmd.job, g.k, 0⟩ : Key))) ++
        ([0, 1, 2, 3].filterMap fun n => match c.chans[n]? with
          | some h => if h.offered == 0 then none else some (k, (⟨l.cmd.job, h.group, n⟩ : Key))
          | none => none)
    | _, _ => []
  (known ++ own).eraseDups

/-- A core reports again everything that it knows of. -/
def State.reportCore (s : State) (number : Nat) : State :=
  (s.sends.ready.filter fun x => x.level == .core && x.place == number).foldl (fun s x => s.report number x.child x.key) s

/-- The core of a context reports whatever has changed there (R333, R335). -/
def State.refresh (s : State) (c : Ctx) : State :=
  if c.kind == .control then s
  else (s.reports c.range c.core (s.coreNumber c)).foldl (fun s x => s.report (s.coreNumber c) x.1 x.2) s

/-- A context withdraws the offers of a group of which it holds no live member (R124, R335). -/
def Ctx.dropOffers (c : Ctx) (l : Launch) : Ctx :=
  [0, 1, 2, 3].foldl (fun (d : Ctx) n => match c.chans[n]? with
    | some h => if h.offered == 0 || c.items.any (l.member h.group) then d else d.putChan n { h with offered := 0 }
    | none => d) c

/-! ## Room outside the cores -/

/-- Bytes of the spilled windows of a core (R238). -/
def State.spilled (s : State) (l : Launch) (range core : Nat) : Nat :=
  ((s.ctxs.filter fun c => c.range == range && s.physCore range c.core == s.physCore range core && !c.resident &&
    c.kind != .control).map fun c => 256 * c.blocks l).sum

/-- Bytes of a VF's save pool in use: tag tables (R241), ranges saved there, spilled windows beyond the core's own
MiB, and join counters and lock waiters beyond their die's region (R238, R239). -/
def State.poolUsed (s : State) (vf : Nat) : Nat :=
  let mine := s.launches.filter fun l => l.vf == vf
  let tags := (mine.map fun l => if l.cmd.repro && l.cmd.guarded then 4096 * l.cmd.guardlen else 0).sum
  let ranges := s.ranges.filter fun r => mine.any fun l => l.id == r.launchId
  let saved := (ranges.map fun r => if r.saved && r.store == 8 then s.savedBytes r else 0).sum
  let spills := (ranges.flatMap fun r => (mine.filter (·.id == r.launchId)).flatMap fun l =>
    if r.saved then [] else (List.range r.m).map fun k => s.spilled l r.id k - 2 ^ 20).sum
  let joins := (ranges.map fun r => (r.joins.filter (·.room == 2)).length).sum
  let waiters := (s.mem.lockq.filter fun x => x.vf == vf && x.room == 2).length
  tags + saved + spills + Config.waitBytes * (joins + waiters)

def State.poolRoom (s : State) (vf n : Nat) : Bool := s.poolUsed vf + n ≤ (s.acct vf).savelen

/-- Entries in the join and wait region of a die (R238). -/
def State.regionUsed (s : State) (die : Nat) : Nat :=
  ((s.ranges.filter fun r => r.cluster.any (· / 16 == die)).map fun r => (r.joins.filter (·.room == 1)).length).sum +
    (s.mem.lockq.filter fun x => s.homeDieOf x.pa == die && x.room == 1).length

/-- Where a join counter or a lock waiter finds room: in its table, in the region of the die, in the VF's pool (R238, R239). -/
def State.entryRoom (s : State) (vf die : Nat) (table : Bool) : Option Nat :=
  if table then some 0
  else if s.regionUsed die < Config.waitEntries then some 1
  else if s.poolRoom vf Config.waitBytes then some 2
  else none

/-- The same for a new join counter of a context's core (R128). -/
def State.joinRoom (s : State) (c : Ctx) (vf : Nat) : Option Nat :=
  let here := ((s.range c.range).map (·.joins)).getD []
  s.entryRoom vf (s.cluOf c / 16) ((here.filter fun j => j.room == 0 && s.physCore c.range j.core == s.physCore c.range c.core).length < 256)

/-- The same for a waiter on a lock word (R245). -/
def State.waiterRoom (s : State) (vf pa : Nat) : Option Nat :=
  s.entryRoom vf (s.homeDieOf pa) ((s.mem.lockq.filter fun x =>
    x.room == 0 && s.homeDieOf x.pa == s.homeDieOf pa && s.homeSlice x.pa == s.homeSlice pa).length < 1024)

/-- Charges the spilled windows of a core that have gone to the pool since `before` (R239). -/
def State.chargeSpill (s : State) (before : State) (c : Ctx) : State :=
  match s.launchOf c with
  | none => s
  | some l => s.chargePool l.vf l.proc l.id
      ((s.spilled l c.range c.core - 2 ^ 20) - (before.spilled l c.range c.core - 2 ^ 20))

/-! ## Cuts -/

/-- The intervals of [lo, hi) cut at rising points inside it. -/
def intervals (lo hi : Nat) : List Nat → List (Nat × Nat)
  | [] => [(lo, hi)]
  | p :: ps => if lo < p && p < hi then (lo, p) :: intervals p hi ps else intervals lo hi ps

/-- Cuts a span at points inside it into compact spans (R124). -/
def State.cutSpan (s : State) (c : Ctx) (points : List Nat) : State :=
  match c.kind with
  | .span lo hi =>
    match intervals lo hi points with
    | [] => s
    | (a, b) :: rest =>
      let n := s.nextId
      let news := (List.range rest.length).zipWith
        (fun k (p : Nat × Nat) => (c.fresh (n + k) (((s.launchOf c).map (·.blank)).getD [])).narrow p.1 p.2) rest
      let free := ((s.launchOf c).map (s.roomForSpans c)).getD 0
      let first := match s.launchOf c with
        | some l => (c.narrow a b).dropOffers l
        | none => c.narrow a b
      (({ (s.replaceCtx c.id (first :: spillFrom free news)) with nextId := n + rest.length } : State).seatAll.chargeSpill
        s c).refresh c
  | _ => s

/-- The pieces that a cut leaves without a slot have room to be spilled (R122, R239). -/
def State.roomToCut (s : State) (c : Ctx) (l : Launch) (points : List Nat) : Bool :=
  match c.kind with
  | .span lo hi =>
    let n := (intervals lo hi points).length - 1 - s.roomForSpans c l
    let bytes := n * l.window false
    n == 0 || s.spilled l c.range c.core + bytes ≤ 2 ^ 20 || s.poolRoom l.vf bytes
  | _ => true

/-- The divisions of [lo, hi) at absolute multiples of W (R125). -/
def divisions (w : Nat) : Nat → Nat → Nat → List (Nat × Nat)
  | 0, _, _ => []
  | fuel + 1, lo, hi =>
    if hi ≤ lo then [] else
      let e := min hi ((lo / w + 1) * w)
      (lo, e) :: divisions w fuel e hi

/-- How many strands can be formed: each needs a slot and a window's worth of store, the reservation
first (R125, R165). -/
def canForm (slots blocks window : Nat) : Nat → Nat
  | 0 => 0
  | n + 1 => if slots = 0 || blocks < window then 0 else 1 + canForm (slots - 1) (blocks - window) window n

/-- Forms up to `limit` strands from a span's lowest indices; what is left stays a compact remainder that waits
(R125). With none formed the span waits for space (R120). -/
def State.formStrands (s : State) (c : Ctx) (l : Launch) (limit : Nat) : State :=
  match c.kind with
  | .span lo hi =>
    let w := l.w
    let ds := divisions w (hi - lo) lo hi
    let win := l.window true / 256
    let k := min limit (canForm (s.freeSlots c.range c.core)
      (s.freeFor c l + c.reserve * win) win ds.length)
    if k = 0 then s.setCtx { c with wait := .remainder, active := false }
    else
      let n := s.nextId
      let made := (List.range k).zipWith
        (fun j (p : Nat × Nat) =>
          ((if j = 0 then c else c.fresh (n + j - 1) l.blank).toStrand w p.1 p.2).dropOffers l) (ds.take k)
      let made := made.map fun x => { x with wait := .none, first := false }
      let rest := ds.drop k
      let left := match rest with
        | [] => []
        | (a, _) :: _ =>
          [{ ((c.fresh (n + k - 1) l.blank).narrow a hi) with
            wait := .remainder, reserve := c.reserve - k, first := false }]
      (({ (s.replaceCtx c.id (made ++ left)) with nextId := n + k } : State).seatAll).refresh c
  | _ => s

/-- Materialises a span (R125). -/
def State.materialise (s : State) (c : Ctx) (l : Launch) : State :=
  match c.kind with
  | .span lo hi => s.formStrands c l (hi - lo)
  | _ => s

/-! ## Barriers -/

/-- A lane mask of a barrier as the frame shows it (R138). -/
def Bar.frameMask : Bar → Nat
  | .clear => 0
  | .mask m => m
  | .linked _ m => m

/-- The lane waits at barrier `b`. -/
def laneWaits (b : Nat) (x : Lane) : Bool := x.item.isSome && x.waiting == some b

/-- Releases the lanes that wait at barrier `b` at the word after the RJOIN. -/
def Ctx.releaseLanes (c : Ctx) (b : Nat) : Ctx :=
  { c with
    lanes := c.lanes.map fun x => if laneWaits b x then { x with pc := x.pc + 12, waiting := none } else x
    bars := c.bars.set b .clear }

/-- Every lane of a local mask has arrived, exited or been killed (R129). -/
def Ctx.localDone (c : Ctx) (b : Nat) : Bool :=
  match c.bars[b]? with
  | some (.mask m) =>
    (List.range c.lanes.length).all fun l =>
      !bitOf m l || (match c.lanes[l]? with
        | some x => x.item.isNone || x.waiting == some b
        | none => true)
  | _ => false

/-- Releases every local barrier that is complete. -/
def Ctx.checkLocal (c : Ctx) : Ctx :=
  [0, 1, 2, 3].foldl (fun c b => if c.localDone b then c.releaseLanes b else c) c

/-- The barrier record is linked to a join counter. -/
def Bar.linkedTo (b : Bar) (j : Nat) : Bool :=
  match b with
  | .linked k _ => k == j
  | _ => false

/-- The barrier register among four that is linked to a join counter. -/
def linkedIn (bars : List Bar) (j : Nat) : Option Nat :=
  [0, 1, 2, 3].find? fun b => (bars[b]?).any (·.linkedTo j)

def Ctx.linkedBar (c : Ctx) (j : Nat) : Option Nat := linkedIn c.bars j

/-- What a trap saved, with the lanes that wait at a linked barrier released from it (R129, R130). -/
def Save.releaseLinked (v : Save) (j : Nat) : Save :=
  match linkedIn v.bars j with
  | none => v
  | some b =>
    { v with
      lanePcs := (v.lanePcs.zip v.waiting).map fun x => if x.2 == some b then x.1 + 12 else x.1
      waiting := v.waiting.map fun x => if x == some b then none else x
      bars := v.bars.set b .clear }

/-- Releases one context from a linked barrier (R129). -/
def Ctx.releaseLinked (c : Ctx) (j : Nat) : Ctx :=
  let c : Ctx := { c with save := c.save.map fun (v : Save) => v.releaseLinked j }
  match c.linkedBar j with
  | none => c
  | some b =>
    let c := c.releaseLanes b
    if c.wait == .rjoin b then { c with wait := .none, pc := c.pc + 12 } else c

/-- The barrier records of the program: those that a trap saved, while it has the context (R130). -/
def Ctx.barsNow (c : Ctx) : List Bar :=
  match c.save with
  | some v => v.bars
  | none => c.bars

/-- The barrier a lane of the program has arrived at and waits for. -/
def Ctx.arrivedAt (c : Ctx) (l : Nat) : Option Nat :=
  match c.save with
  | some v => (v.waiting[l]?).getD none
  | none => (c.lanes[l]?).bind (·.waiting)

/-- Lanes of `ls` that a join counter still counts: they are in the mask of the barrier linked to it and have not
arrived (R129). -/
def Ctx.uncounted (c : Ctx) (j : Nat) (ls : List Nat) : Nat :=
  match linkedIn c.barsNow j with
  | none => 0
  | some b => (ls.filter fun l => bitOf ((c.barsNow[b]?.getD .clear).frameMask) l && c.arrivedAt l != some b).length

/-- Two adjacent spans meet the conditions of R131 for registers and predicates. -/
def PForm.union (p q : PForm) (lo mid hi : Nat) : Option PForm :=
  let iv (f : PForm) (a b : Nat) : Nat × Nat :=
    match f.within a b with
    | .u true => (a, b)
    | .i x y => (x, y)
    | _ => (a, a)
  let (a, b) := iv p lo mid
  let (c, d) := iv q mid hi
  if a == b then some (PForm.within (.i c d) lo hi)
  else if c == d then some (PForm.within (.i a b) lo hi)
  else if b == mid && c == mid then some (PForm.within (.i a d) lo hi)
  else none

/-- A channel with a held record or a remaining offer (R131 item 6). -/
def Ctx.busyChan (c : Ctx) : Bool := c.chans.any fun h => !h.held.isEmpty || h.offered != 0

/-- Spans `c` = [lo, mid) and `d` = [mid, hi) merged, when they may (R131, R161): released from one RJOIN they stand at
one PC, and results not yet waited on are the same in both (notes/assumptions/87.md). -/
def mergeSpans (s : State) (c d : Ctx) : Option Ctx :=
  match c.kind, d.kind with
  | .span lo mid, .span mid' hi =>
    let idle (x : Ctx) : Bool := s.ops.all fun o => !(o.tok.isSome && o.ctxs.contains x.id)
    let preds := (c.preds.zip d.preds).map fun p => PForm.union p.1 p.2 lo mid hi
    if mid == mid' && c.range == d.range && c.core == d.core && c.pc == d.pc && c.scal == d.scal && c.bars == d.bars &&
        c.rets == d.rets && c.regs == d.regs && c.landing == d.landing && preds.all Option.isSome && idle c && idle d &&
        !(c.busyChan && d.busyChan) then
      let keep := if d.busyChan then d else c
      some { c with
        kind := .span lo hi, preds := preds.filterMap id, age := min c.age d.age, landed := []
        priv := keep.priv, chans := keep.chans, floorLo := max c.floorLo d.floorLo, floorHi := max c.floorHi d.floorHi
        subs := (c.subs.zip d.subs).map fun p => ⟨p.1.count + p.2.count, p.1.running || p.2.running⟩ }
    else none
  | _, _ => none

/-- Merges a context with its right neighbour among those that satisfy `q`. -/
def State.mergeRight (s : State) (q : Ctx → Bool) (id : Nat) : Option State :=
  match s.ctx id with
  | none => none
  | some c =>
    (s.ctxs.filterMap fun d => if d.id != id && q d then (mergeSpans s c d).map (d.id, ·) else none).head?.map
      fun p => { s with
        ctxs := (s.ctxs.filter (·.id != p.1)).map fun x => if x.id == id then p.2 else x
        ops := s.ops.map fun (o : Op) => { o with ctxs := o.ctxs.map fun x => if x == p.1 then id else x }
        sends := { s.sends with msgs := s.sends.msgs.map fun (m : Msg) =>
          { m with ctxs := m.ctxs.map fun x => if x == p.1 then id else x } } }

/-- Merges every pair of adjacent spans among those that satisfy `q` (R131). -/
def State.mergeAll (q : Ctx → Bool) : Nat → State → State
  | 0, s => s
  | n + 1, s =>
    match ((s.ctxs.filter q).filterMap fun c => s.mergeRight q c.id).head? with
    | some s' => s'.mergeAll q n
    | none => s

/-! ## Ending a launch -/

/-- The launch is to end with a status; the first one stands (R231). -/
def State.endLaunch (s : State) (id status : Nat) : State :=
  s.modLaunch id fun l => if l.status.isNone then { l with status := some status } else l

/-! ## Traps -/

/-- A PC as the code base plus 12 × word index (02). -/
def Launch.pcOf (l : Launch) (index : Nat) : W64 := l.cmd.codebase + 12 * BitVec.ofNat 64 index

/-- The trap entry, if the launch has one (R137, R230). -/
def Launch.trapEntry (l : Launch) : Option W64 :=
  if l.cmd.trapidx == 0xFFFFFFFF then none else some (l.pcOf l.cmd.trapidx)

/-- The PCs of a strand's non-idle lanes are not all equal (R127). -/
def Ctx.scattered (c : Ctx) : Bool :=
  match c.lanes.filter (·.item.isSome) with
  | [] => false
  | x :: xs => xs.any (fun y => y.pc != x.pc) || (x :: xs).any (·.waiting.isSome)

/-- Bytes 0x000 to 0x057 and the LANEPC array of the frame (R138). -/
def Ctx.frameHead (c : Ctx) (cls detail mask : Nat) (pc next : W64) : List Byte :=
  let compact := match c.kind with
    | .span _ _ => true
    | _ => false
  let (lo, hi) := match c.kind with
    | .span lo hi => (lo, hi)
    | _ => (0, 0)
  let cause := cls + detail * 2 ^ 8 + (c.kind == .strand && c.scattered).toNat * 2 ^ 16 +
    compact.toNat * 2 ^ 17 + c.rep.isSome.toNat * 2 ^ 18
  let repst := match c.rep with
    | some r => r.pass + r.pos * 2 ^ 32 + r.base * 2 ^ 36
    | none => 0
  leBytes 8 cause ++ leBytes 8 pc.toNat ++ leBytes 8 next.toNat ++ leBytes 8 mask ++
    leBytes 8 (maskOf c.live) ++ leBytes 4 lo ++ leBytes 4 hi ++
    (c.bars.flatMap fun b => leBytes 8 b.frameMask) ++ leBytes 8 repst

def Ctx.framePcs (c : Ctx) : List Byte :=
  (List.range 64).flatMap fun l => leBytes 8 (match c.lanes[l]? with
    | some x => if x.item.isSome then x.pc.toNat else 0
    | none => 0)

/-- No context of the core is in its trap slot (R137). -/
def State.slotFree (s : State) (range core : Nat) : Bool :=
  s.ctxs.all fun c =>
    !(c.range == range && s.physCore range c.core == s.physCore range core && c.trap == .slot)

/-- A context may take the trap slot of its core at once: nobody is in it and nobody waits for it (R137). -/
def State.slotOpen (s : State) (range core : Nat) : Bool :=
  s.slotFree range core && s.ctxs.all fun c =>
    !(c.range == range && s.physCore range c.core == s.physCore range core && (match c.trap with
      | .queued _ => true
      | _ => false))

/-- The context starts its handler: unscattered, outside any REP body, at the trap entry (R137). -/
def Ctx.enterSlot (c : Ctx) (entry : W64) : Ctx :=
  { c with
    trap := .slot, pc := entry, rep := none, wait := .none
    lanes := c.lanes.map fun x => if x.item.isSome then { x with pc := entry, waiting := none } else x }

/-- TAKING A TRAP (R137, R138): the frame is written to the private block, the per-lane PCs, waiting lanes,
barrier masks and REP state are saved in the context, and the context takes the trap slot, or waits for it in
the order of the traps. Without a trap entry, or in a control program, the launch ends UNHANDLED, and inside a
handler DOUBLE, with the frame in its record. -/
def State.takeTrap (s : State) (id cls detail mask : Nat) (pc next : W64) : State :=
  match s.ctx id with
  | none => s
  | some c =>
    match s.launchOf c with
    | none => s
    | some l =>
      let head := c.frameHead cls detail mask pc next
      let priv := Memory.writeN c.priv 0 (head ++ List.replicate 40 0 ++ c.framePcs)
      let frec := Memory.readN c.priv (0x280 + 16 * (if c.kind == .strand
        then ((List.range 64).find? (bitOf mask)).getD 0 else 0)) 16
      let s := if cls == 2 then s.modLaunch l.id fun l =>
        if l.frec.isNone then { l with frec := some frec } else l else s
      let fatal (s : State) (st : Nat) : State :=
        (s.setCtx { c with priv := priv }).modLaunch l.id fun l =>
          if l.status.isNone then { l with status := some st, frame := head } else l
      if c.trap == .slot then fatal s 3
      else
        match (if c.kind == .control then none else l.trapEntry) with
        | none => fatal s 4
        | some entry =>
          let save : Save :=
            { pc := pc, next := next, mask := mask, lanePcs := c.lanes.map (·.pc)
              waiting := c.lanes.map (·.waiting), bars := c.bars, rep := c.rep
              compact := c.kind != .strand, wait := c.wait }
          let c := { c with priv := priv, save := some save, active := false, billed := false, visited := [] }
          if s.slotOpen c.range c.core then s.setCtx (c.enterSlot entry)
          else { (s.setCtx { c with trap := .queued s.nextId, wait := .none }) with nextId := s.nextId + 1 }

/-- The turn of a context that waits for the trap slot. -/
def Ctx.turn (c : Ctx) : Option Nat :=
  match c.trap with
  | .queued n => some n
  | _ => none

/-- The strand can never continue: every lane waits and no barrier can complete (R129). It takes ILLEGAL with
DETAIL 0x01 at the RJOIN of its lowest waiting lane. -/
def State.checkStuck (s : State) (id : Nat) : State :=
  match s.ctx id with
  | none => s
  | some c =>
    match c.live with
    | [] => s
    | l0 :: ls =>
      let waiting (l : Nat) : Option Nat := (c.lanes[l]?).bind (·.waiting)
      if c.kind != .strand || c.turn.isSome || (l0 :: ls).any (fun l => (waiting l).isNone) then s
      else
        let hope (b : Nat) : Bool := match c.bars[b]? with
          | some (.linked j m) =>
            let own := ((l0 :: ls).filter fun l => bitOf m l && waiting l != some b).length
            match (s.range c.range).bind (fun r => r.joins.find? (·.id == j)) with
            | some jn => own < jn.count
            | none => false
          | _ => false
        if (l0 :: ls).any fun l => (waiting l).any hope then s
        else
          let b := waiting l0
          let pc := ((c.lanes[l0]?).map (·.pc)).getD 0
          let mask := maskOf ((l0 :: ls).filter fun l => waiting l == b && ((c.lanes[l]?).map (·.pc)) == some pc)
          s.takeTrap id 1 1 mask pc (pc + 12)

/-! ## Join counters -/

/-- Subtracts from a join counter; at 0 every waiting lane and context is released, and compact spans released
together merge (R128, R129, R131). Before that, a strand that no other context can release any more traps. -/
def State.joinSub (s : State) (range j n : Nat) : State :=
  match s.range range with
  | none => s
  | some r =>
    match r.joins.find? (·.id == j) with
    | none => s
    | some jn =>
      if jn.count ≤ n then
        let freed := (s.ctxs.filter fun c => c.range == range && (c.linkedBar j).any fun b => c.wait == .rjoin b).map
          (·.id)
        let s := s.modRange range fun r => { r with joins := r.joins.filter (·.id != j) }
        let s := { s with ctxs := s.ctxs.map fun (c : Ctx) => if c.range == range then c.releaseLinked j else c }
        s.mergeAll (fun c => freed.contains c.id) freed.length
      else
        let s := s.modRange range fun r =>
          { r with joins := r.joins.map fun x => if x.id == j then { x with count := x.count - n } else x }
        ((s.ctxs.filter fun c => c.range == range && (c.linkedBar j).isSome).map (·.id)).foldl State.checkStuck s

/-- The join counters a context's barriers are linked to. -/
def Ctx.joinsOf (c : Ctx) : List Nat :=
  c.barsNow.filterMap fun b => match b with
    | .linked j _ => some j
    | _ => none

/-! ## Ending items -/

/-- A context without items is removed once it holds no operation; until then its window stays (R123,
R152). Messages it still holds are drops of its launch (R335). -/
def State.retireCtx (s : State) (id : Nat) : State :=
  match s.ctx id with
  | none => s
  | some c =>
    if c.kind == .control then
      (if c.wait == .ended && !(s.ops.any fun o => o.holds && o.ctxs.contains id) then
        { s with ctxs := s.ctxs.filter (·.id != id) }
      else s)
    else if c.items.isEmpty then
      if s.ops.any fun o => o.holds && o.ctxs.contains id then
        s.setCtx { c with trap := .none, wait := .none, active := false, landing := [] }
      else
        let held := (c.chans.map fun h => h.held.length).sum
        let s := { s with ctxs := s.ctxs.filter (·.id != id) }
        match s.launchOf c with
        | some l => if held == 0 then s else s.modLaunch l.id fun l => { l with drops := l.drops + held }
        | none => s
    else s

/-- Ends the items of lanes `ls` of a strand (R152): the lanes become idle and leave return masks, local
barriers and linked counters. -/
def State.endLanes (s : State) (id : Nat) (ls : List Nat) : State :=
  match s.ctx id with
  | none => s
  | some c =>
    let ls := ls.filter fun l => (c.lanes[l]?).any (·.item.isSome)
    let away := maskOf ls
    let lanes := (List.range c.lanes.length).zipWith
      (fun l (x : Lane) => if bitOf away l then { x with item := none, waiting := none, pc := 0 } else x) c.lanes
    let drop (m : Nat) : Nat := m - maskAnd m away
    let c' := { c with
      lanes := lanes
      rets := c.rets.map fun (r : Ret) => { r with mask := drop r.mask }
      landing := c.landing.filter fun x => match x.dst with
        | .reg _ (some l) => !bitOf away l
        | .pred _ (some l) => !bitOf away l
        | _ => true
      rep := c.rep.bind fun (r : Rep) =>
        if drop r.mask == 0 then none else some { r with mask := drop r.mask, replay := drop r.replay } }
    let c' := match s.launchOf c with
      | some l => c'.dropOffers l
      | none => c'
    let s := s.setCtx c'.checkLocal
    let s := c.joinsOf.foldl (fun s j => s.joinSub c.range j (c.uncounted j ls)) s
    (s.retireCtx id).refresh c

/-- Ends the lowest `n` items of a span (R152, R156). -/
def State.endSpanItems (s : State) (id n : Nat) : State :=
  match s.ctx id with
  | some c =>
    match c.kind with
    | .span lo hi =>
      let k := min n (hi - lo)
      let d := c.narrow (lo + k) hi
      let s := s.setCtx (match s.launchOf c with
        | some l => d.dropOffers l
        | none => d)
      let s := c.joinsOf.foldl (fun s j => s.joinSub c.range j k) s
      (s.retireCtx id).refresh c
    | _ => s
  | none => s

/-- Restores what the trap saved, lanes that have ended dropped from every mask (R130, R156). A lane that a refill has filled
since the trap keeps its own PC. -/
def Ctx.restore (c : Ctx) (v : Save) : Ctx :=
  let live := maskOf c.live
  { c with
    trap := .none, save := none, pc := v.pc, wait := v.wait
    lanes := ((c.lanes.zip v.lanePcs).zip v.waiting).map fun x =>
      if x.1.1.item.isSome then { x.1.1 with pc := x.1.2, waiting := x.2 } else x.1.1
    bars := v.bars.map fun b => match b with
      | .mask m => .mask (maskAnd m live)
      | .linked j m => .linked j (maskAnd m live)
      | .clear => .clear
    rep := v.rep.bind fun r =>
      if c.kind == .strand then
        (if maskAnd r.mask live == 0 then none else some { r with mask := maskAnd r.mask live })
      else some r }

end Sys2Proof.Machine
end

