-- ==== Sys2Proof/Machine/Operands.lean ====
section
/-! DEFINITION. Every operand form: what a lane, a span or a control program reads from an operand (R28 to R30,
R71, R73, R77, R78), and how a result is written (R44, R46, R71, R76). -/

namespace Sys2Proof.Machine

/-- What an issue fixes: the state at issue, the context, its launch and range, the PCs of the word and of its
successor, the lanes that issue the word, and those of them whose guard is true; `acked`: the word's release at fabric
scope has been performed (R331). -/
structure Iss where
  s : State
  c : Ctx
  l : Launch
  r : Range
  pc : W64
  next : W64
  issuing : List Nat
  lanes : List Nat
  h : Hints
  acked : Bool

/-- The index of a free choice of one read: per issue, per item, per operand slot, per landing
(R73 item 2). -/
def freeIx (fresh item slot k : Nat) : Nat := fresh * 2 ^ 44 + item * 2 ^ 12 + slot % 16 * 2 ^ 8 + k % 256

/-- The value read from a destination of outstanding asynchronous writes: each either the old or the new one,
until a wait on its token returns (R73 item 2). A synchronous write to such a destination changes the old one only: the
manual does not order it against the result (notes/assumptions/88.md). -/
def landRead (ls : List Landing) (fresh item slot : Nat) (old : W64) : W64 :=
  (ls.foldl (fun (p : W64 × Nat) x =>
    (if Config.freeBool (freeIx fresh item slot (x.op % 256)) then x.val else p.1, p.2 + 1)) (old, 0)).1

/-- The landings on a register of a lane. -/
def Ctx.landReg (c : Ctx) (r l : Nat) : List Landing :=
  c.landing.filter fun x => match x.dst with
    | .reg r' none => r' == r
    | .reg r' (some l') => r' == r && l' == l
    | _ => false

def Ctx.landScal (c : Ctx) (r : Nat) : List Landing := c.landing.filter (·.dst == .scal r)

/-- A special operand that is the same for every item (R30, R78). -/
def Iss.special (i : Iss) (x : Special) : W64 :=
  let clu := i.r.cluster.getD 0
  let place (n : Nat) : W64 := if i.l.cmd.repro then 0 else BitVec.ofNat 64 n
  match x with
  | .n => BitVec.ofNat 64 i.l.n
  | .w => BitVec.ofNat 64 i.l.w
  | .core => place i.c.core
  | .clu => place (clu % 16)
  | .die => place (clu / 16)
  | .pkg => place i.s.fabric.node
  | .job => BitVec.ofNat 64 i.l.cmd.job
  | .lc => (match i.c.rep with
    | some r => BitVec.ofNat 64 r.pass
    | none => 0)
  | .ix => 0
  | .lane => 0

/-- A scalar (R9, R73). -/
def Iss.scal (i : Iss) (slot r : Nat) : W64 :=
  landRead (i.c.landScal r) i.s.fresh 0 slot ((i.c.scal[r]?).getD 0)

/-- A uniform operand: scalar, immediate, literal, %z or a uniform special (R78). -/
def Iss.uni (i : Iss) (slot : Nat) (o : Opnd) : W64 :=
  match o with
  | .s r => i.scal slot r.toNat
  | .sp x => i.special x
  | .lit x => x
  | .imm x => x.signExtend 64
  | _ => 0

/-- An item register of a lane, with the landings on it. -/
def Iss.laneReg (i : Iss) (slot l r : Nat) : W64 :=
  match i.c.lanes[l]? with
  | some x =>
    landRead (i.c.landReg r l) i.s.fresh (x.item.getD 0) slot (((x.regs[r]?).getD 0).setWidth 64)
  | none => 0

/-- What lane `l` reads from an operand (R77). -/
def Iss.lane (i : Iss) (slot l : Nat) (wide : Bool) (o : Opnd) : W64 :=
  match o with
  | .v r =>
    if wide then i.laneReg slot l r.toNat + i.laneReg slot l (r.toNat + 1) * 2 ^ 32
    else i.laneReg slot l r.toNat
  | .sp .ix => BitVec.ofNat 64 (((i.c.lanes[l]?).bind (·.item)).getD 0)
  | .sp .lane => BitVec.ofNat 64 l
  | .s r => landRead (i.c.landScal r.toNat) i.s.fresh (((i.c.lanes[l]?).bind (·.item)).getD 0) slot
      ((i.c.scal[r.toNat]?).getD 0)
  | _ => i.uni slot o

/-- A predicate of a lane; p7 is true (R66). -/
def Ctx.lanePred (c : Ctx) (l p : Nat) : Bool :=
  if p == 7 then true
  else ((c.lanes[l]?).bind (fun x => x.preds[p]?)).getD false

/-- The landings on a register of any lane. -/
def Ctx.landsOn (c : Ctx) (r : Nat) : List Landing :=
  c.landing.filter fun x => match x.dst with
    | .reg r' _ => r' == r
    | _ => false

/-- A register as a 32-bit form: the odd half of an affine pair needs a value per item (R71). A span reads a uniform
register with an outstanding uniform result as one of the two, for all its items, since both are U (R78); a strand reads it
lane by lane. -/
def Iss.spanReg (i : Iss) (slot r : Nat) : Form :=
  let ls := i.c.landsOn r
  if i.c.kind == .strand && !ls.isEmpty then .m
  else match (i.c.regs[r]?).getD (.u 0) with
  | .u x => .u (landRead ls i.s.fresh 0 slot (x.setWidth 64))
  | .a c s => if ls.isEmpty then .a (c.setWidth 64) (s.setWidth 64) else .m
  | .lo c s => if ls.isEmpty then mkA 32 c s else .m
  | .hi _ _ => .m
  | .m => .m

/-- No result is outstanding on the register (R73 item 2). -/
def Ctx.calm (c : Ctx) (r : Nat) : Bool := (c.landsOn r).isEmpty

/-- The form of what a context reads from an operand, a span's value with it (R71, R78). Where a result is outstanding on
an affine pair, or in a strand on a scalar, each item reads the old or the new value for itself (R73 item 2). -/
def Iss.form (i : Iss) (slot : Nat) (wide : Bool) (o : Opnd) : Form :=
  match o with
  | .v r =>
    if wide then
      match (i.c.regs[r.toNat]?).getD (.u 0), (i.c.regs[r.toNat + 1]?).getD (.u 0) with
      | .lo c s, .hi c' s' =>
        if c == c' && s == s' && i.c.calm r.toNat && i.c.calm (r.toNat + 1) then .a c s else .m
      | _, _ =>
        (match i.spanReg slot r.toNat, i.spanReg slot (r.toNat + 1) with
        | .u x, .u y => .u (x + y * 2 ^ 32)
        | _, _ => .m)
    else i.spanReg slot r.toNat
  | .sp .ix => .a 0 1
  | .sp .lane => .m
  | .s r => if i.c.kind == .strand && !(i.c.landScal r.toNat).isEmpty then .m else .u (i.uni slot o)
  | _ => .u (i.uni slot o)

/-- A predicate of a span or control program. -/
def Ctx.spanPred (c : Ctx) (p : Nat) : PForm := if p == 7 then .u true else (c.preds[p]?).getD (.u false)

/-! ## Writing -/

/-- Writes an item register, or an even pair, of one lane. -/
def Lane.write (x : Lane) (r : Nat) (wide : Bool) (v : W64) : Lane :=
  let regs := x.regs.set r (v.setWidth 32)
  { x with regs := if wide then regs.set (r + 1) ((v.ushiftRight 32).setWidth 32) else regs }

/-- A register, or pair, is held in M form from now on, and so is the other half of an affine pair (R71). -/
def Ctx.blur (c : Ctx) (r : Nat) (wide : Bool) : Ctx :=
  let regs := match c.regs[r]? with
    | some (.lo _ _) => c.regs.set (r + 1) .m
    | some (.hi _ _) => c.regs.set (r - 1) .m
    | _ => c.regs
  let regs := regs.set r .m
  { c with regs := if wide then regs.set (r + 1) .m else regs }

/-- Writes per-lane values to an item register, which is then held in M form (R78). -/
def Ctx.writeLanes (c : Ctx) (r : Nat) (wide : Bool) (vs : List (Nat × W64)) : Ctx :=
  { c.blur r wide with
    lanes := (List.range c.lanes.length).zipWith
      (fun l (x : Lane) => match vs.find? (·.1 == l) with
        | some p => x.write r wide p.2
        | none => x) c.lanes }

/-- Writes per-lane values to a predicate, which is then held in M form (R78). -/
def Ctx.writeLanePreds (c : Ctx) (p : Nat) (vs : List (Nat × Bool)) : Ctx :=
  { c with
    preds := c.preds.set p .m
    lanes := (List.range c.lanes.length).zipWith
      (fun l (x : Lane) => match vs.find? (·.1 == l) with
        | some q => { x with preds := x.preds.set p q.2 }
        | none => x) c.lanes }

/-- Holds a register, or pair, in a U or A form: all that a span's registers are. -/
def Ctx.writeForm (c : Ctx) (r : Nat) (wide : Bool) (f : Form) : Ctx :=
  match f with
  | .u x =>
    let regs := c.regs.set r (.u (x.setWidth 32))
    { c with regs := if wide then regs.set (r + 1) (.u ((x.ushiftRight 32).setWidth 32)) else regs }
  | .a p q =>
    { c with
      regs := if wide then (c.regs.set r (.lo p q)).set (r + 1) (.hi p q)
        else c.regs.set r (.a (p.setWidth 32) (q.setWidth 32)) }
  | .m => c

/-- A 32-bit write to one register of an affine pair needs the other one's values (R71). -/
def Ctx.splitsPair (c : Ctx) (r : Nat) (wide : Bool) : Bool :=
  let half (k : Nat) : Bool := match c.regs[k]? with
    | some (.lo _ _) => true
    | some (.hi _ _) => true
    | _ => false
  if wide then false else half r

/-- Writes a predicate of a span or control program. -/
def Ctx.writePForm (c : Ctx) (p : Nat) (f : PForm) : Ctx := { c with preds := c.preds.set p f }

/-- Every non-idle lane of the strand is present: a result may take a form other than M (R78, R167). -/
def Iss.whole (i : Iss) : Bool := i.c.kind == .strand && i.lanes.length == i.c.live.length

/-- Writes a strand's results, and the form they have where every lane is present. -/
def Iss.putLanes (i : Iss) (c : Ctx) (r : Nat) (wide : Bool) (vs : List (Nat × W64)) (f : Form) : Ctx :=
  let c := c.writeLanes r wide vs
  if i.whole then c.writeForm r wide f else c

/-- Writes a strand's predicate results, held as U where they are and every lane is present. -/
def Iss.putLanePreds (i : Iss) (c : Ctx) (p : Nat) (vs : List (Nat × Bool)) (f : PForm) : Ctx :=
  let c := c.writeLanePreds p vs
  if i.whole then c.writePForm p f.lanes else c

/-- The indices a context holds, as the least and one above the greatest (R79). -/
def Ctx.bounds (c : Ctx) : Nat × Nat :=
  match c.kind with
  | .span lo hi => (lo, hi)
  | _ => (c.items.foldl min (2 ^ 32), c.items.foldl max 0 + 1)

/-- A register's form gives the values its lanes hold. -/
def Ctx.formHolds (c : Ctx) (r : Nat) (f : RForm) : Bool :=
  c.lanes.all fun x => match x.item with
    | some i => x.regs[r]? == some (f.at i)
    | none => true

/-- A predicate's form gives the values its lanes hold. -/
def Ctx.pformHolds (c : Ctx) (p : Nat) (f : PForm) : Bool :=
  c.lanes.all fun x => match x.item with
    | some i => x.preds[p]? == some (f.at i)
    | none => true

/-- Items have come into lanes: a register stays in a form only if that form gives the new items' values too (R71, R133). -/
def Ctx.settleForms (c : Ctx) : Ctx :=
  let ok (r : Nat) : Bool := (c.regs[r]?).any fun f => f != .m && c.formHolds r f
  let reg (r : Nat) (f : RForm) : RForm :=
    if ok r && (match f with
      | .lo _ _ => ok (r + 1)
      | .hi _ _ => ok (r - 1)
      | _ => true) then f else .m
  let pred (p : Nat) (f : PForm) : PForm := if f != .m && c.pformHolds p f then f else .m
  { c with
    regs := (List.range c.regs.length).zipWith reg c.regs
    preds := (List.range c.preds.length).zipWith pred c.preds }

/-- Sets a predicate of one lane, or of a span or control program. -/
def Ctx.setPred (c : Ctx) (p : Nat) (lane : Option Nat) (v : Bool) : Ctx :=
  match lane with
  | some l => c.writeLanePreds p [(l, v)]
  | none => c.writePForm p (.u v)

/-- The predicates as one issue reads them: each destination of an outstanding asynchronous write holds the old or the
new value (R73 item 2). -/
def Ctx.predView (c : Ctx) (fresh : Nat) : Ctx :=
  c.landing.foldl (fun (c : Ctx) x => match x.dst with
    | .pred p lane =>
      if Config.freeBool (freeIx fresh (lane.getD 0) 6 (x.op % 256)) then c.setPred p lane (x.val != 0) else c
    | _ => c) c

/-- Writes a scalar. -/
def Ctx.writeScal (c : Ctx) (r : Nat) (v : W64) : Ctx := { c with scal := c.scal.set r v }

/-- Writes a scalar destination, nothing for %z. -/
def Ctx.writeScalD (c : Ctx) (d : Opnd) (v : W64) : Ctx :=
  match d with
  | .s r => c.writeScal r.toNat v
  | _ => c

/-! ## Tokens (R36, R39, R73) -/

/-- A value is about to land in one half of an affine pair of a span: an even half left behind is affine with the low
halves of c and s, and an odd one keeps its values, which a read materialises (R71, notes/assumptions/107.md). -/
def Ctx.loosen (c : Ctx) (r : Nat) : Ctx :=
  match c.regs[r]?, c.regs[r - 1]? with
  | some (.hi _ _), some (.lo p q) => { c with regs := c.regs.set (r - 1) (.a (p.setWidth 32) (q.setWidth 32)) }
  | _, _ => c

/-- Puts one landed value into its register (R73 item 2). -/
def Ctx.land (c : Ctx) (x : Landing) : Ctx :=
  match x.dst with
  | .scal r => c.writeScal r x.val
  | .reg r (some l) => if c.kind == .strand then c.writeLanes r false [(l, x.val)] else c
  | .reg r none => (c.loosen r).writeForm r false (.u x.val)
  | .pred p lane => c.setPred p lane (x.val != 0)

/-- Puts a landing in its place: the list follows program order, which is the order of the operations' numbers. -/
def insertLanding (x : Landing) : List Landing → List Landing
  | [] => [x]
  | y :: ys => if x.op < y.op then x :: y :: ys else y :: insertLanding x ys

/-- Notes the latest operation whose result a destination has taken. -/
def noteLanded (d : LDst) (op : Nat) : List (LDst × Nat) → List (LDst × Nat)
  | [] => [(d, op)]
  | (e, n) :: rest => if e == d then (d, max n op) :: rest else (e, n) :: noteLanded d op rest

/-- A result arrives: not on a destination that has taken that of a later operation, which it ends with (R73 item 2). -/
def Ctx.addLanding (c : Ctx) (x : Landing) : Ctx :=
  if c.landed.any fun d => d.1 == x.dst && x.op < d.2 then c else { c with landing := insertLanding x c.landing }

/-- Lands one of the results of a token: what one value filled in every non-idle lane is U (R173, R348). -/
def Ctx.landOne (c : Ctx) (mine : List Landing) (x : Landing) : Ctx :=
  let d := c.land x
  let full (dst : Nat → LDst) : Bool := x.uni && c.live.all fun l => mine.any fun y => y.op == x.op && y.dst == dst l
  match x.dst with
  | .reg r (some _) => if full fun l => .reg r (some l) then d.writeForm r false (.u x.val) else d
  | .pred p (some _) => if full fun l => .pred p (some l) then d.writePForm p (.u (x.val != 0)) else d
  | _ => d

/-- A wait on a token has returned: its results land, in program order; an earlier landing on the same place is
dropped, since the place ends with the later value (R73 item 2). -/
def Ctx.landTok (c : Ctx) (t : Nat) : Ctx :=
  let mine := c.landing.filter (·.tok == t)
  let covered (x : Landing) : Bool :=
    mine.any fun y => y.dst == x.dst && x.op < y.op
  let c := mine.foldl (fun c x => c.landOne mine x) c
  { c with
    landing := c.landing.filter fun x => x.tok != t && !covered x
    landed := mine.foldl (fun ds x => noteLanded x.dst x.op ds) c.landed }

end Sys2Proof.Machine
end

