-- ==== Sys2Proof/Machine/Flags.lean ====
section
/-! DEFINITION. The machine has no flags register: predicates take their place. Here: the guard of a word for each
kind of context (R8, R38, R126, R148), and what its predicate's form makes of it. -/

namespace Sys2Proof.Machine

/-- What a guard selects: nothing, everything (for a strand the listed lanes), or part of a span, which is then
cut at the points. -/
inductive Guarded where
  | off
  | on (lanes : List Nat)
  | cut (points : List Nat)
  deriving DecidableEq, Repr

/-- The points strictly inside [lo, hi). -/
def inside (lo hi : Nat) (ps : List Nat) : List Nat := ps.filter fun p => lo < p && p < hi

/-- Evaluates a guard for a context whose lanes `issuing` issue the word (R38, R126, R148). -/
def Ctx.guard (c : Ctx) (g : Guard) (issuing : List Nat) : Guarded :=
  let p := g.p.toNat
  match c.kind with
  | .strand =>
    let ls := issuing.filter fun l => c.lanePred l p != g.neg
    if ls.isEmpty then .off else .on ls
  | .control =>
    (match c.spanPred p with
    | .u x => if x != g.neg then .on [] else .off
    | _ => .off)
  | .span lo hi =>
    match (c.spanPred p).within lo hi with
    | .u x => if x != g.neg then .on [] else .off
    | .i a b => .cut (inside lo hi [a, b])
    | .m => .off

end Sys2Proof.Machine
end

