-- ==== Sys2Proof/Machine/Issue.lean ====
section
/-! DEFINITION. Issue (R36 to R40): who may issue, the legality and availability checks that depend on the state,
the wait on tokens, the guard, the body, and what every issue leaves behind. An issue that has an effect or raises MEM,
RANGE or BRK is
counted and charged; one that raises another trap is not (notes/assumptions/11.md). -/

namespace Sys2Proof

/-- The odd item registers that a word names: it reads, or writes, 32 bits of each, since a 64-bit operand is an even pair
(R28, R71). -/
def Fields.odds (op : Nat) (f : Fields) : List Nat :=
  let named (o : Opnd) : List Nat := match o with
    | .v r => [r.toNat]
    | _ => []
  (named f.d ++ named f.a ++ named f.b ++ if [0x23, 0x3D, 0x53].contains op then [f.x.toNat] else []).filter (· % 2 == 1)

end Sys2Proof

namespace Sys2Proof.Machine

/-! ## What depends on the state in the checks of R37 -/

/-- The fields of a word whose item registers and scalars are checked against the declared counts: an operand
field is used by the opcode when its check accepts item register 2, and 64 bits wide when it refuses item
register 1 there. -/
def fieldOk (v sn : Nat) (control : Bool) (o : Opnd) (acceptsV wideV wideS : Bool) : Bool :=
  match o with
  | .v r => !acceptsV || (!control && r.toNat + wideV.toNat < v)
  | .s r => r.toNat + wideS.toNat < sn
  | .sp .ix => !control
  | .sp .lane => !control
  | _ => true

/-- A scalar that the X field names: a status byte (R348) or an arrival byte (R211). -/
def xScalar (op : Nat) (f : Fields) : Option Nat :=
  if [0xD2, 0xD3].contains op then
    if f.x.toNat / 64 == 2 then some (f.x.toNat % 64) else none
  else if [0xA0, 0xB0, 0xB1, 0xB2, 0xB3, 0xB4].contains op then
    if f.x.toNat ≥ 128 then some (f.x.toNat % 64) else none
  else none

/-- The predicate rules for a scalar destination outside a control program (R76): the opcode reads a
predicate. -/
def scalarReadsPred (op : Nat) (f : Fields) : Bool :=
  f.d.isS && (op == 0x42 || (op == 0x2A && bitOf f.x.toNat 3) || (op == 0x45 && f.a.isIn [.p]))

/-- Opcodes that raise ILLEGAL inside a REP body (R40). -/
def repForbidden (op : Nat) : Bool := [0x01, 0x02, 0x03, 0x04, 0x07, 0x0A, 0x10, 0x11, 0x12, 0x14].contains op

/-- Instructions that are not available to a control program (R146, R212, R349), by opcode and space. -/
def notControl (op space : Nat) : Bool :=
  [0x10, 0x11, 0x12, 0x13, 0x14, 0x15, 0x17, 0x70, 0x71, 0x72, 0x73, 0x74, 0xC0, 0xC1, 0xC3, 0xC4, 0xC5,
    0xC6].contains op ||
  ([0x80, 0x81].contains op && space == 3)

/-- The legality checks of R37 that depend on the launch and the context. A control program has no item registers: a word
that names one is no instruction there, IMAD, FFMA, PRM and PACK.nx4 among them (R76, notes/assumptions/89.md), unless the
instruction is not available to it at all (R146), which is the later check. -/
def legalF (op : Nat) (f : Fields) (c : Ctx) (l : Launch) : Bool :=
  let control := c.kind == .control && !notControl op f.space
  let v := l.v
  let sn := c.scal.length
  let dV := (sig op { f with d := .v 2 }).d
  let aV := (sig op { f with a := .v 2 }).a
  let bV := (sig op { f with b := .v 2 }).b
  let isAc (o : Opnd) : Bool := match o with
    | .ac _ => true
    | _ => false
  fieldOk v sn control f.d dV (dV && !(sig op { f with d := .v 1 }).d)
      ((sig op { f with d := .s 2 }).d && !(sig op { f with d := .s 1 }).d) &&
  fieldOk v sn control f.a aV (aV && !(sig op { f with a := .v 1 }).a)
      ((sig op { f with a := .s 2 }).a && !(sig op { f with a := .s 1 }).a) &&
  fieldOk v sn control f.b bV (bV && !(sig op { f with b := .v 1 }).b)
      ((sig op { f with b := .s 2 }).b && !(sig op { f with b := .s 1 }).b) &&
  (!([0x23, 0x3D, 0x53].contains op) ||
    (!control && f.x.toNat + (f.ty.is64 && op != 0x3D).toNat < v)) &&
  (!(op == 0x69 && f.ty == .nx4) || !control) &&
  (xScalar op f).all (· < sn) &&
  (op != 0x91 || (match f.d with
    | .v r => r.toNat + (if f.ty.is64 then 3 else 1) < v
    | .s r => r.toNat + 1 < sn
    | _ => false)) &&
  (control || !scalarReadsPred op f) &&
  !(c.kind == .control && op == 0x92 && f.d == .zero) &&
  !(repForbidden op && c.rep.isSome) &&
  (c.rep.isSome || !(isAc f.d || isAc f.a))

/-- The same for the four instructions with a word offset. -/
def legalO (op : Nat) (f : OffFields) (c : Ctx) : Bool :=
  (match f.d with
    | .s r => r.toNat < c.scal.length
    | _ => true) && !(repForbidden op && c.rep.isSome)

/-- Instructions that only a control program may issue (R212). -/
def onlyControl (op : Nat) : Bool := 0xB0 ≤ op && op ≤ 0xB6

/-- The DETAIL of an unavailable instruction (R147), if it is one. -/
def availability (op space : Nat) (c : Ctx) : Option Nat :=
  if c.kind == .control then (if notControl op space then some 6 else none)
  else if onlyControl op then some 7 else none

/-- The word reads %lane. -/
def readsLane (f : Fields) : Bool := f.a == .sp .lane || f.b == .sp .lane

/-- REPRO raised at issue by the word alone (R134, R178, R240, R274, R349), less what depends on addresses. -/
def reproWord (op : Nat) (f : Fields) (c : Ctx) : Bool :=
  (c.refilled && ([0x70, 0x71, 0x72, 0x73].contains op || (op == 0x69 && f.ty == .nx4) || readsLane f)) ||
  [0x74, 0x15, 0xC2, 0xC3, 0xC4, 0xC5, 0xC6, 0xD0, 0xD1, 0xD2, 0xE0, 0xE3, 0x93, 0x94].contains op ||
  (op == 0x0B && [0, 1, 2, 8, 9].contains f.x.toNat) ||
  op == 0xE5 || (op == 0xE4 && [Opnd.imm 1, .imm 2, .imm 3, .imm 5].contains f.b) ||
  (op == 0x43 && f.b.isIn [.q]) ||
  ([0x90, 0x91].contains op && f.var.toNat < 8) ||
  (op == 0x92 && f.ty.isFloating && f.var.toNat != 8)

/-! ## Who issues -/

/-- The lanes of a strand that may issue (R127, R154): in the trap slot every lane with an item. -/
def Ctx.readyLanes (c : Ctx) : List Nat :=
  c.live.filter fun l =>
    (c.lanes[l]?).any (·.waiting.isNone) &&
    (match c.rep with
      | some r => if r.replay != 0 then bitOf r.replay l else bitOf r.mask l
      | none => true)

/-- The PC of the next issue and the lanes that issue it: the lowest ready lane picks (R127). -/
def Ctx.nextIssue (c : Ctx) : Option (W64 × List Nat) :=
  match c.kind with
  | .strand =>
    match c.readyLanes with
    | [] => none
    | l :: _ =>
      let pc := ((c.lanes[l]?).map (·.pc)).getD 0
      some (pc, c.readyLanes.filter fun k => ((c.lanes[k]?).map (·.pc)).getD 0 == pc)
  | _ => some (c.pc, [])

/-- The VF may issue: it is running and inside its slice (R235, R283). -/
def Account.runs (a : Account) : Bool := a.state == 0 && !a.sliceOver

/-- A condition that the word of a context waits for at issue still keeps it. -/
def State.stalled (s : State) (c : Ctx) (x : Stall) : Bool :=
  let chan (n : Nat) : Chan := (c.chans[n]?).getD Chan.reset
  match x with
  | .test pa => s.underTest pa
  | .joinRoom => (s.launchOf c).any fun l => (s.joinRoom c l.vf).isNone
  | .lockRoom vf pa => (s.waiterRoom vf pa).isNone
  | .meter m => s.metered c.id m
  | .ring q => s.ringFull q
  | .engine n => (s.range c.range).any fun r => n ≤ r.mq.length
  | .fence => s.unfenced c.id
  | .chain ch => (s.range c.range).any fun r => (r.chans[ch]?).any (·.state == .walking)
  | .seq ch => s.seqOut c.id ch
  | .words ch n => (chan ch).waiting < n && (chan ch).offered != 0
  | .stamp t => s.mer.diehi ≤ t
  | .answers => s.ops.any fun o => o.ctxs.contains c.id && (match o.what with
    | .visit _ => true
    | _ => false)

/-- The blocks that a space waiter of a launch cannot have yet (R120, R125): those that an RGROW asks for, or a strand's window
and a slot, what it has reserved counted in. -/
def State.noSpace (s : State) (c : Ctx) (blocks : Nat) : Bool :=
  (s.launchOf c).any fun l => s.freeFor c l + c.reserve * (l.window true / 256) < blocks

def State.noStrand (s : State) (c : Ctx) : Bool :=
  (s.launchOf c).any fun l =>
    let win := l.window true / 256
    canForm (s.freeSlots c.range c.core) (s.freeFor c l + c.reserve * win) win 1 == 0

/-- What a context waits for keeps it from its word (R136). -/
def State.blocked (s : State) (c : Ctx) : Bool :=
  match c.wait with
  | .none => false
  | .tokens mask any =>
    let named := (List.range 8).filter (bitOf mask)
    if any then named.all (s.tokBusy c.id) && !named.isEmpty else named.any (s.tokBusy c.id)
  | .object loc lvl phase =>
    s.phaseAt c.range c.id (s.cluOf c) lvl loc != phase && !s.openAt c.range (match loc with
      | .g pa st => .g (pa + 8) st
      | .scratch core off => .scratch core (off + 8)
      | x => x)
  | .join _ => s.ctxs.any fun d => adjacent c d && !atJoin c.pc d
  | .stall x => s.stalled c x
  | .space n => s.noSpace c n
  | .cut points => (s.launchOf c).any fun l => !s.roomToCut c l points
  | .remainder => s.noStrand c
  | .time t => !(t.toNat < s.mer.dielo || s.mer.state == 3)
  | .op id => (s.op id).isSome
  | .rjoin _ => true
  | .lock id => s.mem.lockq.any (·.id == id)
  | .page _ _ _ => true
  | .acks ids => s.ops.any fun o => ids.contains o.id && (match o.what with
    | .remote _ failed _ => !failed
    | _ => true)
  | .cxl line => s.lineAsked line
  | .check => true
  | .ended => true
  | .group _ _ _ => true

/-- Work of the launch goes on: its VF runs, and no KILL or CHECKPOINT stops it (R283, R284, R287). -/
def State.working (s : State) (l : Launch) : Bool := (s.acct l.vf).runs && !l.drain

/-- The block that a context runs on; while it waits for its self-test, so does the context (R258). -/
def State.blockOf (s : State) (c : Ctx) : Block :=
  if c.kind == .control then .control (s.cluOf c) else .core (s.cluOf c) (s.physCore c.range c.core)

/-- A block that the context needs waits for its self-test: the one it runs on, or the store of its core (R258). -/
def State.onTest (s : State) (c : Ctx) : Bool :=
  s.svc.errors.contains (s.blockOf c) ||
    (c.kind != .control && s.svc.errors.contains (.store (s.cluOf c) (s.physCore c.range c.core)))

/-- The lowest item of a context. -/
def Ctx.lowest (c : Ctx) : Nat := c.items.foldl min (2 ^ 32)

/-- Older contexts first, and of one age the lower-indexed (R122). -/
def Ctx.seniority (c : Ctx) : Nat := c.age * 2 ^ 33 + c.lowest

/-- The context could issue a word now, but for the choice among the contexts of its path (R136, R137, R258, R284,
R297). -/
def State.mayIssue (s : State) (c : Ctx) : Bool :=
  (match s.range c.range, s.launchOf c with
    | some r, some l =>
      r.cluster.isSome && l.status.isNone && (s.working l || c.trap == .slot)
    | _, _ => false) &&
  c.resident && !s.svc.frozen && !s.svc.dead && !s.svc.recovery && !s.onTest c &&
  (match c.trap with
    | .none => c.active || c.kind == .control
    | .slot => true
    | .queued _ => false) &&
  (c.kind == .control || !c.items.isEmpty) && c.nextIssue.isSome && !s.blocked c

/-- The context is ready: nothing keeps it from its word, no hold of its own either (R136). -/
def State.ready (s : State) (c : Ctx) : Bool :=
  s.mayIssue c && c.heldTill ≤ (kget s.cycles (s.coreNumber c)).getD 0

/-- Context `d` is chosen before `c` on their path: the one in the trap slot first, then the oldest (R135, R136). -/
def Ctx.before (d c : Ctx) : Bool :=
  if d.trap == .slot then c.trap != .slot else c.trap != .slot && d.seniority < c.seniority

/-- The two contexts issue on one path of one core (R135). -/
def State.samePath (s : State) (c d : Ctx) : Bool :=
  d.range == c.range && d.resident && (d.kind == .strand) == (c.kind == .strand) && d.kind != .control &&
  s.physCore d.range d.core == s.physCore c.range c.core

/-- The context can issue a word now: no ready context of its path is chosen before it (R135 to R137). -/
def State.canIssue (s : State) (c : Ctx) : Bool :=
  s.mayIssue c && (c.kind == .control ||
    s.ctxs.all fun d => d.id == c.id || !s.samePath c d || !d.before c || !s.ready d)

/-! ## The outcome of a body -/

inductive Res where
  /-- The effect is made: the PC advances. -/
  | done (s : State)
  /-- The effect is made and the body has placed the PCs. -/
  | moved (s : State)
  /-- The context waits; the word is taken up again at the same PC. -/
  | wait (s : State) (w : Wait)
  /-- The context was cut: its pieces issue the word themselves. -/
  | cut (s : State)
  /-- A trap at this word: class, DETAIL, LANEMASK; the lanes of `past` have completed the word. -/
  | trap (s : State) (cls detail mask past : Nat)

/-- A span needs a cut or lanes; in the trap slot that is ILLEGAL with DETAIL 0x08 (R137). A cut whose pieces can be
neither kept nor spilled waits (R239). -/
def Iss.needCut (i : Iss) (s : State) (points : List Nat) : Res :=
  if i.c.trap == .slot then .trap s 1 8 0 0
  else if !s.roomToCut i.c i.l points then .wait s (.cut points)
  else .cut (s.cutSpan i.c points)

def Iss.needLanes (i : Iss) (s : State) : Res :=
  if i.c.trap == .slot then .trap s 1 8 0 0 else .cut (s.materialise i.c i.l)

/-- The DETAIL 0x00 trap that every issuing lane takes. -/
def Iss.illegal (i : Iss) (s : State) (detail : Nat) : Res := .trap s 1 detail (maskOf i.lanes) 0

/-- The REPRO trap (R178). -/
def Iss.repro (i : Iss) (s : State) : Res := .trap s 5 0 (maskOf i.lanes) 0

/-! ## Cost of an issue (R80, R374) -/

/-- log2 of a power of two up to 64. -/
def lg (w : Nat) : Nat := w.log2

/-- Vector-path cycles of a strand issue. -/
def cyclesOf (op : Nat) (f : Fields) (w : Nat) : Nat :=
  let t := f.ty
  match op / 16 with
  | 2 =>
    if op == 0x22 || op == 0x23 then (if t.is64 then 4 else 1)
    else if op == 0x24 || op == 0x25 then (if t.is64 then 16 else 8)
    else if t.is64 then 2 else 1
  | 3 => if t.is64 then 2 else 1
  | 4 => if t == .f64 && op == 0x41 then 4 else if t.is64 then 2 else 1
  | 5 => if t == .f64 then 4 else 1
  | 6 =>
    if op < 0x68 then (if t == .f64 then 32 else 8)
    else
      let src := if op == 0x68 then Ty.ofCode f.x.toNat else t
      if t == .f64 || src == .f64 then 4 else if t.is64 || src.is64 then 2 else 1
  | 7 =>
    if op == 0x78 then 4
    else if op == 0x72 || op == 0x73 then
      (if t == .f64 then 4 else if t.is64 then 2 else 1) * lg w
    else if t.is64 && (op == 0x70 || (op == 0x71 && f.var == 3)) then 2 else 1
  | _ => 1

/-- The cycles of an issue: a compact span and a control program take one slot (R374). -/
def Iss.cycles (i : Iss) (op : Nat) (f : Fields) : Nat := if i.c.kind == .strand then cyclesOf op f i.l.w else 1

/-- An issue is counted and charged (R157, R255, R366): ISSUED, the core's cycles (waiting time is free), the
charge. -/
def State.bill (s : State) (c : Ctx) (cycles present : Nat) : State :=
  let core := s.coreNumber c
  let now := (kget s.cycles core).getD 0
  let s := { s with cycles := kset s.cycles core (now + cycles + Config.freeCycles s.fresh) }
  let tile := clusterTile (s.cluOf c)
  let s :=
    if c.kind == .strand then
      (if present == 0 then s else s.chargeCtx c tile 1 (2 * present * cycles))
    else s.chargeCtx c tile 0 2
  s.modCtx c.id fun c => { c with issued := c.issued + 1 }

/-- What every issue leaves behind: it is billed, unless it was when the word began to wait (R366), and YLD. -/
def State.afterIssue (s : State) (c : Ctx) (cycles present : Nat) (yld : Bool) : State :=
  (if c.billed then s else s.bill c cycles present).modCtx c.id fun c =>
    { c with billed := false, active := c.active && !(yld && c.trap != .slot) }

/-- A word that begins to wait has issued: it is billed then, and not again when it is taken up (R366). One that waits for
room to be cut or materialised has not: its pieces issue it. -/
def State.billWait (s : State) (c : Ctx) (cycles present : Nat) (w : Wait) : State :=
  match w with
  | .cut _ => s
  | .remainder => s
  | _ => if c.billed then s else (s.bill c cycles present).modCtx c.id fun c => { c with billed := true }

/-- The context issues again STALL cycles of its core after this issue at the earliest (R24, R36). -/
def State.hold (s : State) (i : Iss) : State :=
  if i.h.stall = 0 then s
  else s.modCtx i.c.id fun d =>
    { d with heldTill := (kget i.s.cycles (i.s.coreNumber i.c)).getD 0 + i.h.stall.toNat }

/-- When a context issues again, the cycles that it was held for have passed. -/
def State.passHold (s : State) (c : Ctx) : State :=
  let now := (kget s.cycles (s.coreNumber c)).getD 0
  if c.heldTill ≤ now then s else { s with cycles := kset s.cycles (s.coreNumber c) c.heldTill }

/-! ## Advancing -/

/-- Sets the PC of lanes. -/
def Ctx.setPcs (c : Ctx) (ls : List Nat) (pc : W64) : Ctx :=
  { c with
    lanes := (List.range c.lanes.length).zipWith
      (fun l (x : Lane) => if ls.contains l && x.item.isSome then { x with pc := pc } else x) c.lanes }

/-- One execution of a position of a REP body is counted (R40, R154): the next PC, and the REP left. -/
def Rep.counted (r : Rep) (next : W64) : W64 × Option Rep :=
  if r.pos + 1 < r.len then (next, some { r with pos := r.pos + 1, replay := 0 })
  else if r.pass + 1 < r.total then (r.start, some { r with pos := 0, pass := r.pass + 1, replay := 0 })
  else (next, none)

/-- The context moves past the word: its issuing lanes, or in a REP body all lanes of the body. -/
def Ctx.advance (c : Ctx) (issuing : List Nat) (next : W64) : Ctx :=
  match c.rep with
  | some r =>
    let (pc, rep) := r.counted next
    let ls := c.live.filter (bitOf r.mask)
    { (c.setPcs ls pc) with rep := rep, pc := if c.kind == Kind.strand then c.pc else pc }
  | none => { (c.setPcs issuing next) with pc := if c.kind == Kind.strand then c.pc else next }

/-- An execution of the current position is counted before a trap saves it: only PCs of the lanes that have
completed the word move (R40, R139). -/
def Ctx.advancePast (c : Ctx) (past : Nat) (next : W64) : Ctx :=
  let pc := match c.rep with
    | some r => (r.counted next).1
    | none => next
  c.setPcs (c.live.filter (bitOf past)) pc

/-- Waits that leave the active set at once (R136). -/
def Wait.leaves : Wait → Bool
  | .none => false
  | .tokens _ _ => false
  | .op _ => false
  | _ => true

/-! ## The wrapper -/

/-- The lanes, or the whole context, take an ILLEGAL trap at their word (R37). -/
def State.illegal (s : State) (c : Ctx) (issuing : List Nat) (detail : Nat) (pc next : W64) : State :=
  s.takeTrap c.id 1 detail (maskOf issuing) pc next

/-- The access of the word is made for every lane (R139), and the answers of other nodes to it are used (R330). -/
def State.wholeWord (s : State) (id : Nat) : State := s.modCtx id fun c => { c with part := 0, visited := [] }

/-- Ends an issue by the body's outcome. At a trap that is not ILLEGAL, each issuing lane whose guard is false has its next
PC (R127). -/
def finish (i : Iss) (op cycles : Nat) (r : Res) : State :=
  let present := i.lanes.length + (i.issuing.filter (bitOf i.c.part)).length
  let yld := i.h.yld || op == 0x06
  match r with
  | .done s =>
    (((s.wholeWord i.c.id).modCtx i.c.id fun c => c.advance i.issuing i.next).afterIssue i.c cycles present yld).hold i
  | .moved s => (s.afterIssue i.c cycles present yld).hold i
  | .wait s w =>
    (s.billWait i.c cycles present w).modCtx i.c.id fun c => { c with wait := w, active := c.active && !w.leaves }
  | .cut s => s
  | .trap s cls detail mask past =>
    let s := if cls == 2 || cls == 6 || cls == 7 then s.afterIssue i.c cycles present false else s
    let others := maskOf (i.issuing.filter fun l => !i.lanes.contains l)
    let past := if cls == 1 then past else past ||| others
    let s := (s.wholeWord i.c.id).modCtx i.c.id fun c => c.advancePast past i.next
    s.takeTrap i.c.id cls detail mask i.pc i.next

/-- A word that every guard is false for (R38): it advances, and counts as a position of a REP body. -/
def State.guardedOff (s : State) (i : Iss) (cycles : Nat) : State :=
  ((s.modCtx i.c.id fun c => c.advance i.issuing i.next).afterIssue i.c cycles 0 i.h.yld).hold i

/-- The tokens that a word waits on (R24, R36). -/
def waitedOf (h : Hints) : List Nat := (List.range 8).filter (bitOf h.waitm.toNat)

/-- Free choices of this issue are its own. -/
def State.nextFresh (s : State) : State := { s with fresh := s.fresh + 1 }

/-- The KIND of the fault records of some lanes returns to NONE: the access is retried (R69). -/
def Ctx.clearKinds (c : Ctx) (lanes : List Nat) : Ctx :=
  { c with priv := lanes.foldl (fun m l => Memory.write m (0x285 + 16 * l) 0) c.priv }

/-- The context takes the word up: what it waited on has landed (R36, R73 item 2), and records of an access that it retries
return to NONE (R69). -/
def Ctx.takesUp (c : Ctx) (h : Hints) : Ctx :=
  let c := (waitedOf h).foldl (fun (c : Ctx) t => c.landTok t) { c with wait := .none }
  if c.copied == 0 then c else { c.clearKinds ((List.range 64).filter (bitOf c.copied)) with copied := 0 }

/-- The control program has waited on tokens: what their matrix instructions read or stored is no longer the engine's
(R207, R208). -/
def State.matrixWaited (s : State) (c : Ctx) (toks : List Nat) : State :=
  if c.kind == .control then
    s.modRange c.range fun r => { r with late := r.late.filter fun e => !e.tok.any toks.contains }
  else s

/-- What the issue hands to the body: of the lanes whose guard is true those that have not made the access yet (R139). -/
def issOf (s : State) (c : Ctx) (l : Launch) (r : Range) (words : Nat) (pc : W64) (issuing lanes : List Nat) (h : Hints) :
    Iss :=
  let t := (s.nextFresh.passHold c).matrixWaited c (waitedOf h)
  ⟨t.setCtx (c.takesUp h), (c.takesUp h).predView t.fresh, l, r, pc, pc + 12 * BitVec.ofNat 64 words, issuing,
    lanes.filter fun x => !bitOf c.part x, h, (match c.wait with
      | .acks _ => true
      | _ => false)⟩

/-- Materialises the affine pairs of which these registers are halves (R71). -/
def Ctx.blurHalves (c : Ctx) (rs : List Nat) : Ctx :=
  rs.foldl (fun (c : Ctx) r => if c.splitsPair r false then c.blur r false else c) c

/-- A strand's 32-bit read of the odd half of an affine pair first materialises the pair (R71). -/
def Iss.reading (i : Iss) (rs : List Nat) : Iss :=
  if i.c.kind == .strand then { i with c := i.c.blurHalves rs, s := i.s.modCtx i.c.id fun c => c.blurHalves rs } else i

/-- Issues a word of the current context (R36): `odds` are the odd item registers that it names, `legal` and `avail` are its checks, `repro` the REPRO rule of the
word, `off` what a guarded-off issue does, `body` its effect. -/
def issueWord (op words : Nat) (odds : List Nat) (g : Guard) (h : Hints) (cycles : Iss → Nat) (legal : Ctx → Launch → Bool)
    (avail : Ctx → Option Nat) (repro : Ctx → Bool) (off : Option (Iss → State → State))
    (body : Iss → State → Res) (s : State) : Host.Outcome State Fault Refusal :=
  match s.ctx s.cur with
  | none => .fault .noContext
  | some c =>
    match s.range c.range, s.launchOf c, c.nextIssue with
    | some r, some l, some (pc, issuing) =>
      if !s.canIssue c then .fault .noContext
      else if !legal c l then .next (s.nextFresh.illegal c issuing 0 pc (pc + 12 * BitVec.ofNat 64 words))
      else match avail c with
        | some d => .next (s.nextFresh.illegal c issuing d pc (pc + 12 * BitVec.ofNat 64 words))
        | none =>
          if (waitedOf h).any (s.tokBusy c.id) then
            .next (s.nextFresh.modCtx c.id fun c => { c with wait := .tokens h.waitm.toNat false })
          else
            let i := issOf s c l r words pc issuing [] h
            match i.c.guard g issuing with
            | .off =>
              (match off with
              | some f => .next (((f i i.s).afterIssue i.c (cycles i) 0 h.yld).hold i)
              | none => .next (i.s.guardedOff i (cycles i)))
            | .cut ps => .next (finish i op (cycles i) (i.needCut i.s ps))
            | .on lanes =>
              let i := (issOf s c l r words pc issuing lanes h).reading odds
              if l.cmd.repro && repro i.c then .next (finish i op (cycles i) (i.repro i.s))
              else .next (finish i op (cycles i) (body i i.s))
    | _, _, _ => .fault .noContext

/-- Issues a word with operand codes (R23). -/
def issueF (op : Nat) (f : Fields) (body : Iss → State → Res) (s : State) : Host.Outcome State Fault Refusal :=
  issueWord op (match f.b with
    | .lit _ => 2
    | _ => 1) (f.odds op) f.g f.h (fun i => i.cycles op f) (fun c l => (sig op f).ok && legalF op f c l) (fun c => availability op f.space c)
    (fun c => reproWord op f c) none body s

/-- Issues a word with a word offset (R34). -/
def issueO (op : Nat) (f : OffFields) (body : Iss → State → Res) (s : State) : Host.Outcome State Fault Refusal :=
  issueWord op 1 [] f.g f.h (fun _ => 1) (fun c _ => offSig op f && legalO op f c) (fun c => availability op 0 c)
    (fun _ => op == 0x15) none body s

end Sys2Proof.Machine
end

