-- ==== Sys2Proof/Machine/Alu.lean ====
section
/-! DEFINITION. The meanings of opcode rows 0x2_ to 0x6_ and RNDX (05). -/

namespace Sys2Proof.Machine

/-! ## The shared executor -/

/-- The destination's number and whether it is a scalar. -/
def destScal (o : Opnd) : Option Nat :=
  match o with
  | .s r => some r.toNat
  | _ => none

def destReg (o : Opnd) : Nat :=
  match o with
  | .v r => r.toNat
  | _ => 0

/-- The values a lane reads: A, B, the register X names, and the old D. -/
def Iss.srcs (i : Iss) (f : Fields) (wa wb wd : Bool) (l : Nat) : W64 × W64 × W64 × W64 :=
  (i.lane 0 l wa f.a, i.lane 1 l wb f.b, i.lane 2 l wd (.v f.x), i.lane 3 l wd f.d)

/-- What a value-computing instruction is: the read widths of A and B, the result type, whether it reads B, X and
D, the result of one item, and the affine form it may have (R78). -/
structure AluOp where
  wa : Bool
  wb : Bool
  rt : Ty
  usesB : Bool
  usesX : Bool
  usesD : Bool
  fn : W64 → W64 → W64 → W64 → Nat
  aff : Nat → Nat → Form → Form → Form → Form

/-- No affine result. -/
def noAff : Nat → Nat → Form → Form → Form → Form := fun _ _ _ _ _ => .m

/-- The form of a result from the forms of what the instruction reads (R78 items 1, 2 and 4). -/
def AluOp.result (o : AluOp) (lo hi : Nat) (fa fb fx fd : Form) : Form :=
  match fa, fb, fx, fd with
  | .u a, .u b, .u x, .u d => Form.u (regBits o.rt (o.fn a b x d))
  | _, _, _, .u _ => o.aff lo hi fa fb fx
  | _, _, _, _ => .m

/-- The form of the result in the issuing context; a source that the instruction does not read counts for nothing. -/
def Iss.aluForm (i : Iss) (f : Fields) (o : AluOp) : Form :=
  let wd := o.rt.is64
  let p := i.c.bounds
  o.result p.1 p.2 (i.form 0 o.wa f.a) (if o.usesB then i.form 1 o.wb f.b else .u 0)
    (if o.usesX then i.form 2 wd (.v f.x) else .u 0) (if o.usesD then i.form 3 wd f.d else .u 0)

/-- Computes and writes a value per item (R76 to R78). -/
def aluBody (f : Fields) (o : AluOp) (i : Iss) (s : State) : Res :=
  let wd := o.rt.is64
  match destScal f.d with
  | some r =>
    let v := o.fn (i.uni 0 f.a) (i.uni 1 f.b) 0 (i.uni 3 f.d)
    .done (s.modCtx i.c.id fun c => c.writeScal r (scalBits o.rt v))
  | none =>
    let r := destReg f.d
    match i.c.kind with
    | .span _ _ =>
      let res := i.aluForm f o
      if res == .m || i.c.splitsPair r wd then i.needLanes s
      else .done (s.modCtx i.c.id fun c => c.writeForm r wd res)
    | _ =>
      let vs := i.lanes.map fun l =>
        let (a, b, x, d) := i.srcs f o.wa o.wb wd l
        (l, regBits o.rt (o.fn a b x d))
      .done (s.modCtx i.c.id fun c => i.putLanes c r wd vs (i.aluForm f o))

/-- Integer arithmetic (R82, R83): affine where R79 allows. -/
def intOp (op : IntOp) (f : Fields) : AluOp :=
  { wa := f.ty.is64, wb := f.ty.is64, rt := f.ty, usesB := op != .abs && op != .neg, usesX := op == .mad, usesD := false
    fn := fun a b x _ => intItem op f.ty a b x
    aff := fun _ _ fa fb fx => if f.ty.isWide then affInt op f.ty.width fa fb fx else .m }

/-- Bit operations (R87 to R91); counts are read as 32 bits. -/
def bitOp (op : BitOp) (f : Fields) : AluOp :=
  let count := op == .shl || op == .shr || op == .rot || op == .bfx || op == .bfi
  { wa := f.ty.is64, wb := f.ty.is64 && !count, rt := f.ty
    usesB := op != .not && op != .popc && op != .clz && op != .brev, usesX := false, usesD := op == .bfi
    fn := fun a b _ d => bitItem op f.ty f.x.toNat a b d
    aff := fun _ _ fa fb _ => if op == .shl then affShl f.ty.width fa fb else .m }

/-- The floating operation reads B (R101, R102, R107). -/
def fltBinary (op : FltOp) : Bool := op == .add || op == .sub || op == .mul || op == .fma || op == .min || op == .max || op == .div

/-- Floating arithmetic (R100 to R107). -/
def fltOp (op : FltOp) (f : Fields) : AluOp :=
  { wa := f.ty.is64, wb := f.ty.is64, rt := f.ty, usesB := fltBinary op, usesX := op == .fma, usesD := false
    fn := fun a b x _ => fltItem op f.ty f.mod.toNat a b x, aff := noAff }

/-- IDIV and IREM of an affine dividend cut the span where R85 says; a single piece is affine. -/
def divBody (op : IntOp) (f : Fields) (i : Iss) (s : State) : Res :=
  match i.c.kind, destScal f.d with
  | .span lo hi, none =>
    (match i.form 0 f.ty.is64 f.a, i.form 1 f.ty.is64 f.b with
    | .a c st, .u b =>
      let w := f.ty.width
      if f.ty.isWide && b.toNat % 2 ^ w != 0 && noWrap f.ty.signed w lo hi c st then
        match divCuts op f.ty (.a c st) b lo hi with
        | none => i.needLanes s
        | some [] =>
          let q0 := intItem op f.ty (Form.at (.a c st) lo) b 0
          let q1 := if lo + 1 < hi then intItem op f.ty (Form.at (.a c st) (lo + 1)) b 0 else q0
          let step : W64 := BitVec.ofNat 64 q1 - BitVec.ofNat 64 q0
          let res := mkA w (BitVec.ofNat 64 q0 - step * BitVec.ofNat 64 lo) step
          if i.c.splitsPair (destReg f.d) f.ty.is64 then i.needLanes s
          else .done (s.modCtx i.c.id fun c => c.writeForm (destReg f.d) f.ty.is64 res)
        | some ps => i.needCut s ps
      else i.needLanes s
    | _, _ => aluBody f (intOp op f) i s)
  | _, _ => aluBody f (intOp op f) i s

/-- The value of a predicate for a control program. -/
def Ctx.ctlPred (c : Ctx) (p : Nat) : Bool := (c.spanPred p).at 0

/-- IADDX (R86). -/
def addxBody (f : Fields) (i : Iss) (s : State) : Res :=
  let x := f.x.toNat
  let cp := x % 8
  let ci := bitOf x 3
  let co := bitOf x 4
  let wd := f.ty.is64
  let carry (c : Ctx) (b : Bool) : Ctx := if co then c.writePForm cp (.u b) else c
  match destScal f.d with
  | some r =>
    let (v, b) := addxItem f.ty (i.uni 0 f.a) (i.uni 1 f.b) (ci && i.c.ctlPred cp)
    if i.c.kind == .strand then
      .done (s.modCtx i.c.id fun c =>
        let c := c.writeScal r (scalBits f.ty v)
        if co then i.putLanePreds c cp (i.lanes.map (·, b)) (.u b) else c)
    else .done (s.modCtx i.c.id fun c => carry (c.writeScal r (scalBits f.ty v)) b)
  | none =>
    let r := destReg f.d
    match i.c.kind with
    | .span lo hi =>
      let fa := i.form 0 wd f.a
      let fb := i.form 1 wd f.b
      let cin := if ci then (i.c.spanPred cp).within lo hi else .u false
      (match fa, fb, cin with
      | .u a, .u b, .u k =>
        let (v, o) := addxItem f.ty a b k
        if i.c.splitsPair r wd then i.needLanes s
        else .done (s.modCtx i.c.id fun c => carry (c.writeForm r wd (.u (regBits f.ty v))) o)
      | _, _, _ =>
        let res := if ci || co then Form.m else affInt .add f.ty.width fa fb (.u 0)
        if res == .m || i.c.splitsPair r wd then i.needLanes s
        else .done (s.modCtx i.c.id fun c => c.writeForm r wd res))
    | _ =>
      let vs := i.lanes.map fun l =>
        (l, addxItem f.ty (i.lane 0 l wd f.a) (i.lane 1 l wd f.b) (ci && i.c.lanePred l cp))
      let fa := i.form 0 wd f.a
      let fb := i.form 1 wd f.b
      let (form, out) := match fa, fb, (if ci then i.c.spanPred cp else .u false) with
        | .u a, .u b, .u k =>
          let (v, o) := addxItem f.ty a b k
          (Form.u (regBits f.ty v), PForm.u o)
        | _, _, _ => (if ci then Form.m else affInt .add f.ty.width fa fb (.u 0), PForm.m)
      .done (s.modCtx i.c.id fun c =>
        let c := i.putLanes c r wd (vs.map fun v => (v.1, regBits f.ty v.2.1)) form
        if co then i.putLanePreds c cp (vs.map fun v => (v.1, v.2.2)) out else c)

/-- Writes a predicate per item: `item` of the two values read; `run` the form of a span's result (R94,
R95). -/
def cmpBody (f : Fields) (wide : Bool) (b : Opnd) (item : W64 → W64 → Bool)
    (run : Nat → Nat → Form → Form → Option (Nat × Nat)) (i : Iss) (s : State) : Res :=
  let p := match f.d with
    | .p r => r.toNat
    | _ => 0
  match i.c.kind with
  | .strand =>
    let vs := i.lanes.map fun l => (l, item (i.lane 0 l wide f.a) (i.lane 1 l wide b))
    let form := match i.form 0 wide f.a, i.form 1 wide b with
      | .u x, .u y => PForm.u (item x y)
      | _, _ => .m
    .done (s.modCtx i.c.id fun c => i.putLanePreds c p vs form)
  | .control =>
    .done (s.modCtx i.c.id fun c => c.writePForm p (.u (item (i.uni 0 f.a) (i.uni 1 b))))
  | .span lo hi =>
    let fa := i.form 0 wide f.a
    let fb := i.form 1 wide b
    match fa, fb with
    | .u x, .u y => .done (s.modCtx i.c.id fun c => c.writePForm p (.u (item x y)))
    | _, _ =>
      match run lo hi fa fb with
      | some (a, e) =>
        .done (s.modCtx i.c.id fun c => c.writePForm p (PForm.within (.i (lo + a) (lo + e)) lo hi))
      | none => i.needLanes s

/-- The interval of an integer comparison in a span (R95). -/
def icmpRun (c : Cmp) (t : Ty) (lo hi : Nat) (fa fb : Form) : Option (Nat × Nat) :=
  match linear t.signed t.width lo hi fa, linear t.signed t.width lo hi fb with
  | some a, some b => cmpRun c a b (hi - lo)
  | _, _ => none

def icmpBody (f : Fields) : Iss → State → Res :=
  let c := Cmp.ofCode f.var.toNat
  cmpBody f f.ty.is64 f.b (fun x y => c.int (f.ty.intVal x) (f.ty.intVal y)) (icmpRun c f.ty)

def fcmpBody (f : Fields) : Iss → State → Res :=
  let c := Cmp.ofCode f.var.toNat
  cmpBody f f.ty.is64 f.b (fun x y => c.exact (f.ty.num false x) (f.ty.num false y)) (fun _ _ _ _ => none)

/-- The form a copied source keeps: no 16-bit, 8-bit or floating value is affine (R78). -/
def copyForm (t : Ty) (f : Form) : Form :=
  match f with
  | .u x => .u (regBits t x.toNat)
  | .a c s => if t.isWide then mkA t.width c s else .m
  | .m => .m

/-- Copies a source to D. -/
def copyBody (f : Fields) (slot : Nat) (src : Opnd) (i : Iss) (s : State) : Res :=
  let wd := f.ty.is64
  match destScal f.d with
  | some r => .done (s.modCtx i.c.id fun c => c.writeScal r (scalBits f.ty (i.uni slot src).toNat))
  | none =>
    let r := destReg f.d
    match i.c.kind with
    | .span _ _ =>
      let res := copyForm f.ty (i.form slot wd src)
      if res == .m || i.c.splitsPair r wd then i.needLanes s
      else .done (s.modCtx i.c.id fun c => c.writeForm r wd res)
    | _ =>
      .done (s.modCtx i.c.id fun c =>
        i.putLanes c r wd (i.lanes.map fun l => (l, regBits f.ty (i.lane slot l wd src).toNat))
          (copyForm f.ty (i.form slot wd src)))

/-- SEL (R96): an I predicate cuts a span at its bounds. -/
def selBody (f : Fields) (i : Iss) (s : State) : Res :=
  let p := f.x.toNat % 8
  let neg := bitOf f.x.toNat 3
  let wd := f.ty.is64
  match i.c.kind with
  | .span lo hi =>
    (match (i.c.spanPred p).within lo hi with
    | .u x => if x != neg then copyBody f 0 f.a i s else copyBody f 1 f.b i s
    | .i a b => i.needCut s (inside lo hi [a, b])
    | .m => i.needLanes s)
  | .control => if i.c.ctlPred p != neg then copyBody f 0 f.a i s else copyBody f 1 f.b i s
  | .strand =>
    let form := match i.c.spanPred p with
      | .u x => copyForm f.ty (if x != neg then i.form 0 wd f.a else i.form 1 wd f.b)
      | _ => .m
    .done (s.modCtx i.c.id fun c =>
      i.putLanes c (destReg f.d) wd (i.lanes.map fun l =>
        (l, regBits f.ty (if i.c.lanePred l p != neg then i.lane 0 l wd f.a else i.lane 1 l wd f.b).toNat)) form)

def predNum (o : Opnd) : Nat :=
  match o with
  | .p r => r.toNat
  | _ => 7

/-- Inserts into a rising list. -/
def insertNat (x : Nat) : List Nat → List Nat
  | [] => [x]
  | y :: ys => if x ≤ y then x :: y :: ys else y :: insertNat x ys

/-- The interval, within [lo, hi), where a combination of two intervals holds, when it is one interval: it can
only change at a bound (R98). -/
def plogRun (v lo hi : Nat) (p q : PForm) : Option PForm :=
  let ends (g : PForm) : List Nat := match g.within lo hi with
    | .i a b => [a, b]
    | _ => []
  let ps := (((lo :: ends p) ++ ends q).filter (· < hi)).foldl (fun l x => insertNat x l) []
  let truth := ps.map fun x => (x, plogItem v (p.at x) (q.at x))
  let on := truth.filter (·.2)
  match on with
  | [] => some (.u false)
  | (a, _) :: _ =>
    let last := (on.getLast?.map (·.1)).getD a
    let stop := ((truth.filter fun t => last < t.1).head?.map (·.1)).getD hi
    if truth.all fun t => t.1 < a || last < t.1 || t.2 then some (PForm.within (.i a stop) lo hi) else none

/-- PLOG (R98). -/
def plogBody (f : Fields) (i : Iss) (s : State) : Res :=
  let d := predNum f.d
  let a := predNum f.a
  let b := predNum f.b
  let v := f.var.toNat
  match i.c.kind with
  | .strand =>
    let form := match i.c.spanPred a, i.c.spanPred b with
      | .u x, .u y => PForm.u (plogItem v x y)
      | _, _ => .m
    .done (s.modCtx i.c.id fun c =>
      i.putLanePreds c d (i.lanes.map fun l => (l, plogItem v (i.c.lanePred l a) (i.c.lanePred l b))) form)
  | .control => .done (s.modCtx i.c.id fun c => c.writePForm d (.u (plogItem v (i.c.ctlPred a) (i.c.ctlPred b))))
  | .span lo hi =>
    match plogRun v lo hi (i.c.spanPred a) (i.c.spanPred b) with
    | some r => .done (s.modCtx i.c.id fun c => c.writePForm d r)
    | none => i.needLanes s

/-- PMOV (R99). -/
def pmovBody (f : Fields) (i : Iss) (s : State) : Res :=
  match f.d, f.a with
  | .p d, .p a =>
    (match i.c.kind with
    | .strand =>
      .done (s.modCtx i.c.id fun c =>
        i.putLanePreds c d.toNat (i.lanes.map fun l => (l, i.c.lanePred l a.toNat)) (i.c.spanPred a.toNat))
    | _ => .done (s.modCtx i.c.id fun c => c.writePForm d.toNat (i.c.spanPred a.toNat)))
  | .p _, _ =>
    cmpBody f f.ty.is64 .zero (fun x _ => x.toNat % 2 ^ f.ty.width != 0) (icmpRun .ne f.ty) i s
  | d, a =>
    let p := predNum a
    match i.c.kind, destScal d with
    | .control, some r => .done (s.modCtx i.c.id fun c => c.writeScal r (if i.c.ctlPred p then 1 else 0))
    | .span lo hi, none =>
      (match (i.c.spanPred p).within lo hi with
      | .u x =>
        if i.c.splitsPair (destReg d) false then i.needLanes s
        else .done (s.modCtx i.c.id fun c => c.writeForm (destReg d) false (.u (if x then 1 else 0)))
      | .i x y => i.needCut s (inside lo hi [x, y])
      | .m => i.needLanes s)
    | _, _ =>
      let form := match i.c.spanPred p with
        | .u x => Form.u (if x then 1 else 0)
        | _ => .m
      .done (s.modCtx i.c.id fun c =>
        i.putLanes c (destReg d) false (i.lanes.map fun l => (l, if i.c.lanePred l p then 1 else 0)) form)

/-- CVT (R109). -/
def cvtOp (f : Fields) : AluOp :=
  let src := Ty.ofCode f.x.toNat
  { wa := src.is64, wb := false, rt := f.ty, usesB := false, usesX := false, usesD := false
    fn := fun a _ _ _ => cvtItem f.ty src f.mod.toNat a
    aff := fun lo hi fa _ _ => affCvt f.ty src lo hi fa }

/-- PACK but for nx4 (R110): e4m3 and e5m2 keep the other bytes of D. -/
def packOp (f : Fields) : AluOp :=
  { wa := false, wb := false, rt := .b32, usesB := true, usesX := false, usesD := f.ty.width == 8
    fn := fun a b _ d => packItem f.ty f.mod.toNat f.x.toNat a b d, aff := noAff }

/-- The values of an f32 source after .ftz (R111). -/
def packSrc (f : Fields) (x : W64) : Exact := Ty.num .f32 (bitOf f.mod.toNat 2) x

/-- PACK.nx4 (R111): 16 lanes form a block. -/
def packNx4Body (f : Fields) (i : Iss) (s : State) : Res :=
  match i.c.kind with
  | .strand =>
    let elems (g : Nat) : List Exact := (List.range 32).map fun e =>
      let l := 16 * g + e / 2
      if i.lanes.contains l then packSrc f (if e % 2 == 0 then i.lane 0 l false f.a else i.lane 1 l false f.b)
      else .fin false 0 0
    let out := i.lanes.map fun l =>
      let (scale, codes, _) := encNx4 (elems (l / 16))
      let m := l % 16
      (l, BitVec.ofNat 64 ((codes[2 * m]?).getD 0 + (codes[2 * m + 1]?).getD 0 * 2 ^ 4 + scale * 2 ^ 8))
    .done (s.modCtx i.c.id fun c => c.writeLanes (destReg f.d) false out)
  | _ => i.needLanes s

def packBody (f : Fields) : Iss → State → Res :=
  if f.ty == .nx4 then packNx4Body f else aluBody f (packOp f)

def unpkOp (f : Fields) : AluOp :=
  { wa := false, wb := false, rt := .f32, usesB := false, usesX := false, usesD := false
    fn := fun a _ _ _ => unpkItem f.ty f.x.toNat a, aff := noAff }

def sclbOp (f : Fields) : AluOp :=
  { wa := f.ty.is64, wb := false, rt := f.ty, usesB := true, usesX := false, usesD := false
    fn := fun a b _ _ => sclbItem f.ty f.mod.toNat a b, aff := noAff }

def fsgnOp (f : Fields) : AluOp :=
  { wa := f.ty.is64, wb := f.ty.is64, rt := f.ty, usesB := true, usesX := false, usesD := false
    fn := fun a b _ _ => fsgnItem f.ty a b, aff := noAff }

def fclassOp (f : Fields) : AluOp :=
  { wa := f.ty.is64, wb := false, rt := .n32, usesB := false, usesX := false, usesD := false
    fn := fun a _ _ _ => fclass f.ty.fmt (a.toNat % 2 ^ f.ty.width), aff := noAff }

def prmOp : AluOp :=
  { wa := false, wb := false, rt := .b32, usesB := true, usesX := true, usesD := false
    fn := fun a b x _ => prmItem a b x, aff := noAff }

/-- RNDX (R114): under .n32 and .f32 a literal gives its low 32 bits. -/
def rndxOp (f : Fields) : AluOp :=
  let lit32 := f.var != 0 && f.b.isIn [.lit]
  { wa := true, wb := true, rt := f.ty, usesB := true, usesX := false, usesD := false
    fn := fun a b _ _ => rndxItem f.var.toNat a (if lit32 then BitVec.ofNat 64 (b.toNat % 2 ^ 32) else b)
    aff := noAff }

/-! ## The meanings -/

/-- IADD R82. -/
def execIadd (f : Fields) (s : State) : Host.Outcome State Fault Refusal :=
  issueF 0x20 f (aluBody f (intOp .add f)) s

/-- ISUB R82. -/
def execIsub (f : Fields) (s : State) : Host.Outcome State Fault Refusal :=
  issueF 0x21 f (aluBody f (intOp .sub f)) s

/-- IMAD R83. -/
def execImad (f : Fields) (s : State) : Host.Outcome State Fault Refusal :=
  issueF 0x23 f (aluBody f (intOp .mad f)) s

/-- IMIN R82. -/
def execImin (f : Fields) (s : State) : Host.Outcome State Fault Refusal :=
  issueF 0x26 f (aluBody f (intOp .min f)) s

/-- IMAX R82. -/
def execImax (f : Fields) (s : State) : Host.Outcome State Fault Refusal :=
  issueF 0x27 f (aluBody f (intOp .max f)) s

/-- IABS R82. -/
def execIabs (f : Fields) (s : State) : Host.Outcome State Fault Refusal :=
  issueF 0x28 f (aluBody f (intOp .abs f)) s

/-- INEG R82. -/
def execIneg (f : Fields) (s : State) : Host.Outcome State Fault Refusal :=
  issueF 0x29 f (aluBody f (intOp .neg f)) s

/-- IMUL R83. -/
def execImul (f : Fields) (s : State) : Host.Outcome State Fault Refusal :=
  issueF 0x22 f (aluBody f (intOp (if bitOf f.mod.toNat 0 then .mulHi else .mul) f)) s

/-- IDIV R84 R85. -/
def execIdiv (f : Fields) (s : State) : Host.Outcome State Fault Refusal :=
  issueF 0x24 f (divBody .div f) s

/-- IREM R84 R85. -/
def execIrem (f : Fields) (s : State) : Host.Outcome State Fault Refusal :=
  issueF 0x25 f (divBody .rem f) s

/-- IADDX R86. -/
def execIaddx (f : Fields) (s : State) : Host.Outcome State Fault Refusal :=
  issueF 0x2A f (addxBody f) s

/-- AND R88. -/
def execAnd (f : Fields) (s : State) : Host.Outcome State Fault Refusal :=
  issueF 0x30 f (aluBody f (bitOp .and f)) s

/-- OR R88. -/
def execOr (f : Fields) (s : State) : Host.Outcome State Fault Refusal :=
  issueF 0x31 f (aluBody f (bitOp .or f)) s

/-- XOR R88. -/
def execXor (f : Fields) (s : State) : Host.Outcome State Fault Refusal :=
  issueF 0x32 f (aluBody f (bitOp .xor f)) s

/-- NOT R88. -/
def execNot (f : Fields) (s : State) : Host.Outcome State Fault Refusal :=
  issueF 0x33 f (aluBody f (bitOp .not f)) s

/-- ANDN R88. -/
def execAndn (f : Fields) (s : State) : Host.Outcome State Fault Refusal :=
  issueF 0x34 f (aluBody f (bitOp .andn f)) s

/-- SHL R89. -/
def execShl (f : Fields) (s : State) : Host.Outcome State Fault Refusal :=
  issueF 0x35 f (aluBody f (bitOp .shl f)) s

/-- SHR R89. -/
def execShr (f : Fields) (s : State) : Host.Outcome State Fault Refusal :=
  issueF 0x36 f (aluBody f (bitOp .shr f)) s

/-- ROT R89. -/
def execRot (f : Fields) (s : State) : Host.Outcome State Fault Refusal :=
  issueF 0x37 f (aluBody f (bitOp .rot f)) s

/-- BFX R90. -/
def execBfx (f : Fields) (s : State) : Host.Outcome State Fault Refusal :=
  issueF 0x38 f (aluBody f (bitOp .bfx f)) s

/-- BFI R90. -/
def execBfi (f : Fields) (s : State) : Host.Outcome State Fault Refusal :=
  issueF 0x39 f (aluBody f (bitOp .bfi f)) s

/-- POPC R91. -/
def execPopc (f : Fields) (s : State) : Host.Outcome State Fault Refusal :=
  issueF 0x3A f (aluBody f (bitOp .popc f)) s

/-- CLZ R91. -/
def execClz (f : Fields) (s : State) : Host.Outcome State Fault Refusal :=
  issueF 0x3B f (aluBody f (bitOp .clz f)) s

/-- BREV R91. -/
def execBrev (f : Fields) (s : State) : Host.Outcome State Fault Refusal :=
  issueF 0x3C f (aluBody f (bitOp .brev f)) s

/-- PRM R92. -/
def execPrm (f : Fields) (s : State) : Host.Outcome State Fault Refusal :=
  issueF 0x3D f (aluBody f prmOp) s

/-- ICMP R94 R95. -/
def execIcmp (f : Fields) (s : State) : Host.Outcome State Fault Refusal :=
  issueF 0x40 f (icmpBody f) s

/-- FCMP R94. -/
def execFcmp (f : Fields) (s : State) : Host.Outcome State Fault Refusal :=
  issueF 0x41 f (fcmpBody f) s

/-- SEL R96. -/
def execSel (f : Fields) (s : State) : Host.Outcome State Fault Refusal :=
  issueF 0x42 f (selBody f) s

/-- PLOG R98. -/
def execPlog (f : Fields) (s : State) : Host.Outcome State Fault Refusal :=
  issueF 0x44 f (plogBody f) s

/-- PMOV R99. -/
def execPmov (f : Fields) (s : State) : Host.Outcome State Fault Refusal :=
  issueF 0x45 f (pmovBody f) s

/-- FADD R101. -/
def execFadd (f : Fields) (s : State) : Host.Outcome State Fault Refusal :=
  issueF 0x50 f (aluBody f (fltOp .add f)) s

/-- FSUB R101. -/
def execFsub (f : Fields) (s : State) : Host.Outcome State Fault Refusal :=
  issueF 0x51 f (aluBody f (fltOp .sub f)) s

/-- FMUL R101. -/
def execFmul (f : Fields) (s : State) : Host.Outcome State Fault Refusal :=
  issueF 0x52 f (aluBody f (fltOp .mul f)) s

/-- FFMA R101. -/
def execFfma (f : Fields) (s : State) : Host.Outcome State Fault Refusal :=
  issueF 0x53 f (aluBody f (fltOp .fma f)) s

/-- FMIN R102. -/
def execFmin (f : Fields) (s : State) : Host.Outcome State Fault Refusal :=
  issueF 0x54 f (aluBody f (fltOp .min f)) s

/-- FMAX R102. -/
def execFmax (f : Fields) (s : State) : Host.Outcome State Fault Refusal :=
  issueF 0x55 f (aluBody f (fltOp .max f)) s

/-- FRND R105. -/
def execFrnd (f : Fields) (s : State) : Host.Outcome State Fault Refusal :=
  issueF 0x58 f (aluBody f (fltOp .rnd f)) s

/-- FRCP R106 R107. -/
def execFrcp (f : Fields) (s : State) : Host.Outcome State Fault Refusal :=
  issueF 0x60 f (aluBody f (fltOp .rcp f)) s

/-- FRSQ R106 R107. -/
def execFrsq (f : Fields) (s : State) : Host.Outcome State Fault Refusal :=
  issueF 0x61 f (aluBody f (fltOp .rsq f)) s

/-- FSQRT R106 R107. -/
def execFsqrt (f : Fields) (s : State) : Host.Outcome State Fault Refusal :=
  issueF 0x62 f (aluBody f (fltOp .sqrt f)) s

/-- FDIV R106 R107. -/
def execFdiv (f : Fields) (s : State) : Host.Outcome State Fault Refusal :=
  issueF 0x63 f (aluBody f (fltOp .div f)) s

/-- FEXP2 R106 R107. -/
def execFexp2 (f : Fields) (s : State) : Host.Outcome State Fault Refusal :=
  issueF 0x64 f (aluBody f (fltOp .exp2 f)) s

/-- FLOG2 R106 R107. -/
def execFlog2 (f : Fields) (s : State) : Host.Outcome State Fault Refusal :=
  issueF 0x65 f (aluBody f (fltOp .log2 f)) s

/-- FSIN R106 R107. -/
def execFsin (f : Fields) (s : State) : Host.Outcome State Fault Refusal :=
  issueF 0x66 f (aluBody f (fltOp .sin f)) s

/-- FCOS R106 R107. -/
def execFcos (f : Fields) (s : State) : Host.Outcome State Fault Refusal :=
  issueF 0x67 f (aluBody f (fltOp .cos f)) s

/-- FSGN R103. -/
def execFsgn (f : Fields) (s : State) : Host.Outcome State Fault Refusal :=
  issueF 0x56 f (aluBody f (fsgnOp f)) s

/-- FCLASS R104. -/
def execFclass (f : Fields) (s : State) : Host.Outcome State Fault Refusal :=
  issueF 0x57 f (aluBody f (fclassOp f)) s

/-- CVT R109. -/
def execCvt (f : Fields) (s : State) : Host.Outcome State Fault Refusal :=
  issueF 0x68 f (aluBody f (cvtOp f)) s

/-- PACK R110 R111. -/
def execPack (f : Fields) (s : State) : Host.Outcome State Fault Refusal :=
  issueF 0x69 f (packBody f) s

/-- UNPK R112. -/
def execUnpk (f : Fields) (s : State) : Host.Outcome State Fault Refusal :=
  issueF 0x6A f (aluBody f (unpkOp f)) s

/-- SCLB R113. -/
def execSclb (f : Fields) (s : State) : Host.Outcome State Fault Refusal :=
  issueF 0x6B f (aluBody f (sclbOp f)) s

/-- RNDX R114. -/
def execRndx (f : Fields) (s : State) : Host.Outcome State Fault Refusal :=
  issueF 0x78 f (aluBody f (rndxOp f)) s

end Sys2Proof.Machine
end

