-- ==== Sys2Proof/Machine/Fetch.lean ====
section
/-! DEFINITION. Instruction fetch (R34, R41): code bytes are read weakly through the cluster L1, from pages with X. -/

namespace Sys2Proof.Machine

/-- A translated byte can be read through the cluster L1: it is there, or can be read at its home slice. -/
def State.l1Ready (s : State) (clu pa : Nat) : Except Miss Nat :=
  if (kget s.mem.l1 (l1Key clu pa)).isSome then .ok pa else s.sliceReady pa

/-- The physical address of a code byte. -/
def State.codeByte (s : State) (c : Ctx) (va : W64) : Except Miss Nat :=
  match s.launchOf c with
  | some l =>
    (match s.gByte (s.cluOf c) false l.vf l.proc va wantFetch with
    | .ok p => s.l1Ready (s.cluOf c) p.1
    | .error m => .error m)
  | none => .error (.kind 2)

/-- The bytes of the 12-byte word at a PC, or the address that cannot be fetched and why (R372, R373). -/
def State.fetchFrom (s : State) (c : Ctx) (n : Nat) (va : W64) : Except (W64 × Miss) (List Byte) :=
  (wholeAccess ((List.range n).map fun k => (va + BitVec.ofNat 64 k, s.codeByte c (va + BitVec.ofNat 64 k)))).map
    fun pas => pas.map fun pa => s.unlessOpen 0 (.g pa false) (s.l1Read (s.cluOf c) pa)

def State.fetchWord (s : State) (c : Ctx) (pc : W64) : Except (W64 × Miss) Nat :=
  (s.fetchFrom c 12 pc).map leVal

/-- The lines of a fetched word stay in the L1, and its page in the TLB (R182, R252). -/
def State.fetchFill (s : State) (c : Ctx) (pc : W64) : State :=
  match s.launchOf c with
  | none => s
  | some l =>
    [pc, pc + 11].foldl (fun s va =>
      match s.codeByte c va with
      | .ok pa => (s.tlbFill (s.cluOf c) false l.vf l.proc va).l1Fill (s.cluOf c) pa
      | .error _ => s) s

/-- The PC after `n` instructions from a PC, each literal word counted with its instruction (R154). -/
def State.skipBody (s : State) (c : Ctx) : Nat → W64 → W64
  | 0, pc => pc
  | n + 1, pc =>
    match s.fetchWord c pc with
    | .ok w => s.skipBody c n (pc + if hasLit w then 24 else 12)
    | .error _ => s.skipBody c n (pc + 12)

/-! ## Fault records (R68, R372) -/

/-- The 16 bytes of a fault record. -/
def recordBytes (index lane kind size : Nat) (wr : Bool) (addr : W64) : List Byte :=
  leBytes 8 (index + lane * 2 ^ 32 + kind * 2 ^ 40 + size * 2 ^ 48 + wr.toNat * 2 ^ 51) ++ leBytes 8 addr.toNat

/-- A fault: the lane, 0 outside a strand, the index of the item whose access it is, and what its record shows (R68). A
control program's has INDEX 0 (R372). -/
structure Flt where
  lane : Nat
  item : Nat
  kind : Nat
  size : Nat
  wr : Bool
  addr : W64
  deriving DecidableEq, Repr

/-- The index an item's record shows. -/
def Ctx.indexOf (c : Ctx) (l : Nat) : Nat :=
  match c.kind with
  | .span lo _ => lo
  | .strand => ((c.lanes[l]?).bind (·.item)).getD 0
  | .control => 0

/-- Writes a fault record into the private block (R138). -/
def Ctx.putRecord (c : Ctx) (x : Flt) : Ctx :=
  let slot := if c.kind == .strand then x.lane else 0
  { c with
    priv := Memory.writeN c.priv (0x280 + 16 * slot)
      (recordBytes x.item slot x.kind x.size x.wr x.addr) }

/-- What a context meets at its PC. -/
inductive Fetched where
  | instr (i : Instr)
  | illegal
  | miss (va : W64) (m : Miss)
  deriving DecidableEq, Repr

/-- Fetches and decodes the word at a PC, with its literal word (R26, R27, R36). A word that is no instruction by its own bits
traps before its literal word is read; one that is illegal only in its context has it read first, so that a literal word which
cannot be fetched raises MEM there (notes/assumptions/15.md). -/
def State.fetchInstr (s : State) (c : Ctx) (pc : W64) : Fetched :=
  match s.fetchWord c pc with
  | .error (va, m) => .miss va m
  | .ok w =>
    match decodeWord w (if hasLit w then some 0 else none) with
    | .error _ => .illegal
    | .ok i =>
      if hasLit w then
        match s.fetchWord c (pc + 12) with
        | .error (va, m) => .miss va m
        | .ok x => (match decodeWord w (some x) with
          | .ok j => .instr j
          | .error _ => .illegal)
      else .instr i

/-- Asks for a line, once: its CXL device by a request (R280), its home on another node by a transaction (R330). -/
def State.askCxl (s : State) (line : Nat) : State :=
  if s.lineAsked line then s
  else
    let (id, s) := s.newId
    if s.remote (64 * line) then
      ({ s with ops := s.ops ++ [⟨id, [], none, .fetch line, 0⟩] } : State).openTx (nodeOf (64 * line)) id
    else { s with svc := { s.svc with cxlReqs := s.svc.cxlReqs ++ [⟨id, line, false, 0, false⟩] } }

/-- A machine check to come for a poisoned byte that a launch reads (R259). -/
def State.raiseRead (s : State) (launch pa : Nat) : State :=
  let s := s.meet pa
  { s with svc := { s.svc with checks := s.svc.checks ++ [(launch, pa)] } }

/-- What an access that cannot be made yet waits for: a demand page, which the fault queue hears of (R253), the collapse
of a read-duplicate page (R332), a block under test (R258), a table entry of a CXL device or of another node (R280, R330), or the
machine check of a poisoned one (R259). -/
def State.parkOn (s : State) (l : Launch) (va : W64) (kind : Nat) (m : Miss) : State × Wait :=
  let page := BitVec.ofNat 64 (va.toNat / 2 ^ 16 * 2 ^ 16)
  match m with
  | .bad pa => (s.raiseRead l.id pa, .check)
  | .cxl line => (s.askCxl line, .cxl line)
  | .test pa => (s, .stall (.test pa))
  | .copy => (s, .page l.vf l.proc page)
  | _ => (s.faultMsg l.vf l.proc page kind l.cmd.job l.id, .page l.vf l.proc page)

/-- A context whose fetch meets a fault takes MEM; a demand page parks it (R34, R253). -/
def State.fetchMiss (s : State) (c : Ctx) (issuing : List Nat) (pc va : W64) (m : Miss) : State :=
  match m with
  | .kind k =>
    let lanes := if c.kind == .strand then issuing else [0]
    let c := lanes.foldl (fun c l => c.putRecord ⟨l, c.indexOf l, k, 7, false, va⟩) c
    (s.setCtx c).takeTrap c.id 2 k (maskOf issuing) pc (s.skipBody c 1 pc)
  | m =>
    match s.launchOf c with
    | none => s
    | some l =>
      let p := s.parkOn l va 2 m
      p.1.modCtx c.id fun c => { c with wait := p.2, active := false }

/-- ILLEGAL_WORD R37: the word at the PC of the current context is no instruction; NEXTPC counts its literal word, which
every word with LIT has (R26, R138). -/
def execIllegalWord (s : State) : Host.Outcome State Fault Refusal :=
  match s.ctx s.cur with
  | none => .fault .noContext
  | some c =>
    match c.nextIssue with
    | none => .fault .noContext
    | some (pc, issuing) =>
      if s.canIssue c then .next (s.illegal c issuing 0 pc (s.skipBody c 1 pc)) else .fault .noContext

end Sys2Proof.Machine
end

