-- ==== Sys2Proof/Machine/Access.lean ====
section
/-! DEFINITION. One access of an instruction to memory: the address of each item (R15, R172), the checks and the
faults (R69, R139, R140, R373), the level that the scope names (R204), releases and acquires (R205, R206, R331),
stamps (R299), writer tags (R241), CXL and poisoned reads (R259, R280), and the delivery of results (R73). -/

namespace Sys2Proof

/-- base + index × scale + offset (R15, R172). -/
def Fields.addr (f : Fields) (size : Nat) (base idx : W64) : W64 :=
  base + idx * BitVec.ofNat 64 (2 ^ (f.x.toNat / 32)) + BitVec.ofNat 64 (f.x.toNat % 32 * size)

/-- An item-register index is read as s32 (R172). -/
def Opnd.asIndex (o : Opnd) (x : W64) : W64 :=
  match o with
  | .v _ => (x.setWidth 32).signExtend 64
  | _ => x

end Sys2Proof

namespace Sys2Proof.Machine

/-! ## Addresses -/

/-- The access of one item: its lane (0 outside a strand), its index, and its address. -/
structure Acc where
  lane : Nat
  item : Nat
  va : W64
  deriving DecidableEq, Repr

/-- The address of an instruction whose parts are all U: the context then makes one access (R173). -/
def Iss.oneAddr (i : Iss) (f : Fields) (size : Nat) : Option W64 :=
  match i.form 0 (f.space == 0) f.a, i.form 1 false f.b with
  | .u a, .u b => some (f.addr size a (f.b.asIndex b))
  | _, _ => none

def Iss.laneAddr (i : Iss) (f : Fields) (size l : Nat) : W64 :=
  f.addr size (i.lane 0 l (f.space == 0) f.a) (f.b.asIndex (i.lane 1 l false f.b))

/-- The address of the item in a lane of a strand. -/
def Iss.strandAddr (i : Iss) (f : Fields) (size l : Nat) : W64 := (i.oneAddr f size).getD (i.laneAddr f size l)

/-- The address of a span's items, and whether it is uniform; none when a part of it needs a value per item. -/
def Iss.spanAddr (i : Iss) (f : Fields) (size lo hi : Nat) : Option ((Nat → W64) × Bool) :=
  let fa := i.form 0 (f.space == 0) f.a
  let fb := i.form 1 false f.b
  let item (o : Opnd) (wide : Bool) (x : Form) (n : Nat) : W64 :=
    match o with
    | .v _ => if wide then x.at n else BitVec.ofNat 64 ((x.at n).toNat % 2 ^ 32)
    | _ => x.at n
  let isU (x : Form) : Bool := match x with
    | .u _ => true
    | _ => false
  let okA := isU fa || (fa != .m && (f.space == 0 || (linear false 32 lo hi fa).isSome))
  let okB := isU fb || (fb != .m && (linear true 32 lo hi fb).isSome)
  if okA && okB then
    some (fun n => f.addr size (item f.a (f.space == 0) fa n) (f.b.asIndex (item f.b false fb n)), isU fa && isU fb)
  else none

/-- A scalar address (R76): the same for the whole context. -/
def Iss.uniAddr (i : Iss) (f : Fields) (size : Nat) : W64 := f.addr size (i.uni 0 f.a) (f.b.asIndex (i.uni 1 f.b))

/-- The accesses of an instruction: one for each active item, or one for a control program. A span that accesses
with a uniform address, when `one`, makes one access; none when the span must materialise. -/
def Iss.accs (i : Iss) (f : Fields) (size : Nat) (one : Bool) : Option (List Acc) :=
  match i.c.kind with
  | .strand => some (i.lanes.map fun l =>
      ⟨l, ((i.c.lanes[l]?).bind (·.item)).getD 0, i.strandAddr f size l⟩)
  | .control => some [⟨0, 0, i.uniAddr f size⟩]
  | .span lo hi =>
    if f.space == 3 then none
    else match i.spanAddr f size lo hi with
    | none => none
    | some (a, u) =>
      if one then (if u then some [⟨0, lo, a lo⟩] else none)
      else some ((List.range (hi - lo)).map fun k => ⟨0, lo + k, a (lo + k)⟩)

/-! ## Faults -/

/-- Each access of a strand that met a read-duplicate page, and the first of a span's, records KIND 0x04 with its own
address until it is retried (R68, R69). -/
def Iss.noteCopies (i : Iss) (s : State) (size : Nat) (late : List (Acc × Miss)) : State :=
  let hits := (late.filter (·.2 == .copy)).map (·.1)
  let hits := if i.c.kind == .strand then hits else hits.take 1
  if hits.isEmpty then s
  else s.modCtx i.c.id fun c =>
    { hits.foldl (fun (c : Ctx) a => c.putRecord ⟨a.lane, a.item, 4, size, true, a.va⟩) c with
      copied := maskOf (hits.map (·.lane)) }

/-- The accesses of an instruction that acts once for the context, as each active item has them. -/
def Iss.everyLane (i : Iss) (va : W64) : List Acc :=
  (if i.c.kind == .strand then i.lanes else [0]).map fun l => ⟨l, i.c.indexOf l, va⟩

/-- A fault of an instruction that acts once for the context: every active item faults (R139, R372). -/
def Iss.ctxFault (i : Iss) (s : State) (size kind : Nat) (wr : Bool) (va : W64) : Res :=
  let s := s.modCtx i.c.id fun c =>
    (i.everyLane va).foldl (fun (c : Ctx) a => c.putRecord ⟨a.lane, a.item, kind, size, wr && kind != 3, va⟩) c
  .trap s 2 kind (maskOf i.lanes) (maskOf (i.issuing.filter fun l => !i.lanes.contains l))

/-- A check of an instruction that acts once for the context: the fault, or the wait for a page. -/
def Iss.ctxMiss (i : Iss) (s : State) (size : Nat) (wr : Bool) (va : W64) (m : Miss) : Res :=
  match m with
  | .kind k => i.ctxFault s size k wr va
  | m =>
    let p := (i.noteCopies s size ((i.everyLane va).map (·, m))).parkOn i.l va wr.toNat m
    .wait p.1 p.2

/-- What the checks of all accesses of an instruction decide: the accesses that are made, those that fault, and those
that must wait. -/
inductive Checked where
  | stop (r : Res)
  | go (ok : List (Acc × Loc)) (bad : List (Acc × Nat)) (late : List (Acc × Miss))

def oks (xs : List (Acc × Except Miss Loc)) : List (Acc × Loc) :=
  xs.filterMap fun p => match p.2 with
    | .ok l => some (p.1, l)
    | .error _ => none

def bads (xs : List (Acc × Except Miss Loc)) : List (Acc × Nat) :=
  xs.filterMap fun p => match p.2 with
    | .error (.kind k) => some (p.1, k)
    | _ => none

def parks (xs : List (Acc × Except Miss Loc)) : List (Acc × Miss) :=
  xs.filterMap fun p => match p.2 with
    | .error (.kind _) => none
    | .error m => some (p.1, m)
    | .ok _ => none

/-- Raises MEM for the faulting accesses: a record each, DETAIL the kind of the lowest, and the other active
lanes past the word (R139, R68). -/
def Iss.memTrap (i : Iss) (s : State) (size : Nat) (wr : Bool) (bad : List (Acc × Nat)) : Res :=
  let s := s.modCtx i.c.id fun c =>
    bad.foldl (fun (c : Ctx) p => c.putRecord ⟨p.1.lane, p.1.item, p.2, size, wr && p.2 != 3, p.1.va⟩) c
  let kind := ((bad.head?).map (·.2)).getD 0
  if i.c.kind == .strand then
    let mask := maskOf (bad.map (·.1.lane))
    .trap s 2 kind mask (maskOf (i.issuing.filter fun l => !bitOf mask l))
  else .trap s 2 kind 0 0

/-- The wait of the accesses that cannot be made yet: for the first of them. -/
def Iss.waitFor (i : Iss) (s : State) (size dkind : Nat) (late : List (Acc × Miss)) : Option (State × Wait) :=
  late.head?.map fun p => (i.noteCopies s size late).parkOn i.l p.1.va dkind p.2

/-- Decides over the checks: a span is cut before its lowest faulting item (R140), and waits for a demand page before any
item acts; the lanes of a strand that can act do so (R139). -/
def Iss.decide (i : Iss) (s : State) (size : Nat) (wr : Bool) (dkind : Nat) (xs : List (Acc × Except Miss Loc)) :
    Checked :=
  let bad := bads xs
  match i.c.kind, bad with
  | .span lo _, (a, k) :: _ =>
    if a.item == lo then .stop (i.memTrap s size wr [(a, k)]) else .stop (i.needCut s [a.item])
  | .control, b :: _ => .stop (i.memTrap s size wr [b])
  | _, _ =>
    if i.c.kind == .strand && !(oks xs).isEmpty then .go (oks xs) bad (parks xs)
    else match i.waitFor s size dkind (parks xs) with
      | some p => .stop (.wait p.1 p.2)
      | none => .go (oks xs) bad []

/-- Ends an instruction whose good accesses are made: with lanes that wait for a page, those accesses are not made again
(R139); a trap for the lanes that fault comes when no lane waits any more. -/
def Iss.finishAcc (i : Iss) (s : State) (size : Nat) (wr : Bool) (dkind : Nat) (ok : List (Acc × Loc))
    (bad : List (Acc × Nat)) (late : List (Acc × Miss)) : Res :=
  match i.waitFor s size dkind late with
  | some p => .wait (p.1.modCtx i.c.id fun c => { c with part := c.part ||| maskOf (ok.map (·.1.lane)) }) p.2
  | none => if bad.isEmpty then .done s else i.memTrap s size wr bad

/-! ## Charges -/

/-- Charges the bytes that an access to a line moves at its home slice and below it, at their tiles (R255, R275). How many
depends on what the caches hold, and which bank group or port they take is not given: both are free. -/
def State.chargeDown (s : State) (put : State → Nat → Nat → Nat → State) (pa : Nat) : State :=
  let (k, s) := s.newFree
  let s := put s (s.homeTile pa) 6 (2 * Config.freeCycles k)
  let (k, s) := s.newFree
  let (j, s) := s.newFree
  let n := 2 * Config.freeCycles k
  let place := Config.freeCycles j
  if s.remote pa then put s (512 + place % 16) 10 n
  else if inCxl pa then put s (528 + place % 16) 8 n
  else put s (s.homeDieOf pa * 64 + 28 + place % 8) 7 n

/-- Charges a launch, and the sub-meters `meters` of a context gather the amount (R255, R276). -/
def State.chargeMeters (s : State) (l : Launch) (ctx meters tile cls count2 : Nat) : State :=
  let (s, a) := s.charge tile l.vf l.proc l.id false (s.coef tile cls * count2 / 2)
  s.modCtx ctx fun c =>
    let subs := (List.range c.subs.length).zipWith
      (fun m (x : Sub) => if bitOf meters m then { x with count := (x.count + a) % 2 ^ 80 } else x) c.subs
    { c with subs := subs }

/-- Charges an operation on `n` bytes at the home of its location (R255): the L2 coefficient, and what lies below; in scratch
the L1 coefficient for the bytes it reads and, when it does, writes (R366). -/
def State.chargeHome (s : State) (i : Iss) (n : Nat) (loc : Loc) (both : Bool) : State :=
  match loc with
  | .g pa _ =>
    (s.chargeCtx i.c (s.homeTile pa) 6 (2 * n)).chargeDown (fun s tile cls k => s.chargeCtx i.c tile cls k) pa
  | _ => s.chargeCtx i.c (clusterTile (i.r.cluster.getD 0)) 5 (2 * n * (1 + both.toNat))

/-- Charges bytes at the L1 coefficient (R255, R366), and below L1 what each physical address causes. -/
def State.chargeBytes (s : State) (i : Iss) (n : Nat) (pas : List Nat) : State :=
  pas.foldl (fun s pa => s.chargeDown (fun s tile cls k => s.chargeCtx i.c tile cls k) pa)
    (s.chargeCtx i.c (clusterTile (i.r.cluster.getD 0)) 5 (2 * n))

/-! ## Releases and acquires -/

/-- The release part of an order code (R32). -/
def isRel (order : Nat) : Bool := [3, 4, 5].contains order
/-- The acquire part. -/
def isAcq (order : Nat) : Bool := [2, 4, 5].contains order

/-- The entry may name a node. -/
def Dir.names (d : Dir) (node : Nat) : Bool := d.nodes.contains node || bitOf d.mask (node / 128)

/-- The entry names some other node: a mask of groups always does. -/
def Dir.others (d : Dir) (node : Nat) : Bool := d.nodes.any (· != node) || d.mask != 0

/-- The entry gains a node: a fifth turns it into a mask of groups (R331). -/
def Dir.add (d : Dir) (node : Nat) : Dir :=
  if d.names node then d
  else if d.mask == 0 && d.nodes.length < 4 then { d with nodes := d.nodes ++ [node] }
  else ⟨[], maskOf (((node :: d.nodes).map (· / 128)) ++ (List.range 64).filter (bitOf d.mask))⟩

/-- The nodes that are told when `node` writes the line: those that the entry names, of a mask every node of its groups, but
for the writer and the home. -/
def Dir.told (d : Dir) (home node : Nat) : List Nat :=
  (if d.mask == 0 then d.nodes else (List.range (2 ^ 13)).filter d.names).filter fun n => n != node && n != home

/-- A home that merges a write-back tells every other node of the line's entry to invalidate (R331). Answers
whether it told one. -/
def State.invalidateDir (s : State) (node line : Nat) : State × Bool :=
  match kget s.mem.dir line with
  | none => (s, false)
  | some d =>
    let s := { s with mem := { s.mem with
      dir := if d.names node then kset s.mem.dir line ⟨[node], 0⟩ else kdel s.mem.dir line } }
    ((d.told s.fabric.node node).foldl (fun s n => s.sendData 2 n (2 ^ 16 + line)) s, d.others node)

/-- Registers an operation that waits for an acknowledgement: with another node a transaction, with a CXL device a
write request. -/
def State.awaitAck (s : State) (ctx launch node : Nat) (cxl : Option Nat) : State :=
  let (id, s) := s.newId
  let s := { s with ops := s.ops ++ [⟨id, [ctx], none, .remote node false launch, 0⟩] }
  match cxl with
  | some line => { s with svc := { s.svc with cxlReqs := s.svc.cxlReqs ++ [⟨id, line, true, id, false⟩] } }
  | none =>
    if node == s.fabric.node then s else s.openTx node id

/-- The sub-meters that run (R276). -/
def Ctx.meters (c : Ctx) : Nat :=
  maskOf ((List.range 4).filter fun m => match c.subs[m]? with
    | some x => x.running
    | none => false)

/-- The flit of the next transaction with a node, at the group of the port that it takes (R255, R370); the sub-meters `meters` of
its context gather it (R276). -/
def State.chargeFlit (s : State) (ctx launch meters node : Nat) : State :=
  match s.launch launch, s.portFor node (s.nextId % 2 ^ 16) with
  | some l, some p => s.chargeMeters l ctx meters (portTile p) 10 2
  | _, _ => s

/-- What a set of bytes that reached their homes at fabric scope still awaits: each line of another node, each CXL line, and
the invalidations of local lines (R177, R330, R331, R346). -/
def State.awaitAcksOf (s : State) (ctx launch meters : Nat) (pas : List Nat) : State :=
  let far := ((pas.filter s.remote).map (· / 64)).eraseDups
  let lines := ((pas.filter fun p => !s.remote p && inCxl p).map (· / 64)).eraseDups
  let locals := ((pas.filter fun p => !s.remote p && !inCxl p).map (· / 64)).eraseDups
  let s := far.foldl (fun s l =>
    (s.chargeFlit ctx launch meters (nodeOf (64 * l))).awaitAck ctx launch (nodeOf (64 * l)) none) s
  let s := lines.foldl (fun s l => s.awaitAck ctx launch s.fabric.node (some l)) s
  locals.foldl (fun s l =>
    let (s, told) := s.invalidateDir s.fabric.node l
    if told then s.awaitAck ctx launch s.fabric.node none else s) s

/-- The number of a context's launch. -/
def State.launchIdOf (s : State) (ctx : Nat) : Nat := (((s.ctx ctx).bind s.launchOf).map (·.id)).getD 0

/-- The sub-meters of a context that run now. -/
def State.metersNow (s : State) (ctx : Nat) : Nat := ((s.ctx ctx).map (·.meters)).getD 0

def State.awaitAcks (s : State) (ctx : Nat) (pas : List Nat) : State :=
  s.awaitAcksOf ctx (s.launchIdOf ctx) (s.metersNow ctx) pas

/-- Every dirty byte of remote and CXL lines below the L1s goes to its home, and what then awaits acknowledgement:
these, and the lines homed here that `dirty` bytes reached (R331 items 1 and 2). -/
def State.releaseLow (s : State) (ctx launch meters : Nat) (dirty : List Nat) : State :=
  let low := s.lowDirty
  let gone := low.filter s.lost
  let s := { s with mem := { s.mem with
    l2 := s.mem.l2.filter fun e => !gone.contains e.1, cp := s.mem.cp.filter fun e => !gone.contains e.1 } }
  let sent := low.filter fun p => !gone.contains p
  (sent.foldl State.cleanLow s).awaitAcksOf ctx launch meters (dirty.filter (fun p => !s.lowCached p) ++ sent)

/-- The bytes a release of the cluster at a scope sends home (R205, R331), the flits charged with these sub-meters. -/
def State.releaseFor (s : State) (clu ctx scope meters : Nat) : State :=
  if scope < 2 then s
  else
    let dirty := s.l1Held clu fun _ c => c.dirty
    let s := s.writeBackL1 clu
    if scope < 4 then s else s.releaseLow ctx (s.launchIdOf ctx) meters dirty

/-- A release that a context makes itself. -/
def State.release (s : State) (clu ctx scope : Nat) : State := s.releaseFor clu ctx scope (s.metersNow ctx)

/-- What a release at fabric scope waits for: the context's stores and write-backs that are neither acknowledged nor
discarded (R177, R331, R342). -/
def State.unacked (s : State) (ctx : Nat) : List Nat :=
  (s.ops.filter fun o => o.ctxs.contains ctx).filterMap fun o => match o.what with
    | .remote _ false _ => some o.id
    | _ => none

/-- Some of these operations are neither acknowledged nor discarded. -/
def State.acksOpen (s : State) (ids : List Nat) : Bool :=
  s.ops.any fun o => ids.contains o.id && (match o.what with
    | .remote _ failed _ => !failed
    | _ => true)

/-- The access of a context that releases comes after the release: at fabric scope when every write-back is acknowledged
(R331, R346). `order` is the order code of the word. -/
def Iss.afterRelease (i : Iss) (s : State) (order scope : Nat) (k : State → Res) : Res :=
  if !isRel order || i.acked then k s
  else
    let s := s.release (i.r.cluster.getD 0) i.c.id scope
    if scope == 4 && !(s.unacked i.c.id).isEmpty then .wait s (.acks (s.unacked i.c.id)) else k s

/-- The acquire of the cluster at a scope (R206, R331 item 4). -/
def State.acquire (s : State) (clu scope : Nat) : State := if scope < 2 then s else s.dropClean clu

/-! ## The stamps of the sequentially consistent order (R299) -/

/-- The key of the 8-byte word of a location of a range and context. -/
def Loc.stampKey (range ctx : Nat) : Loc → Nat
  | .g pa _ => pa / 8
  | .scratch core off => 2 ^ 60 + range * 2 ^ 24 + core * 2 ^ 20 + off / 8
  | .control off => 2 ^ 60 + range * 2 ^ 24 + 2 ^ 23 + off / 8
  | .priv off => 2 ^ 100 + ctx * 2 ^ 20 + off / 8
  | .window off => 2 ^ 100 + ctx * 2 ^ 20 + 2 ^ 19 + off / 8

/-- A strong access takes part in the order of R299. -/
def State.stamp (s : State) (g order key : Nat) (rd wr : Bool) : State :=
  let clock := (kget s.mem.clocks g).getD 0
  let word := (kget s.mem.stamps key).getD 0
  let put (w c : Nat) : State := { s with mem := { s.mem with
    stamps := if w == word then s.mem.stamps else kset s.mem.stamps key w
    clocks := if c == clock then s.mem.clocks else kset s.mem.clocks g c } }
  if order == 0 then s
  else if order == 5 then put (max clock word + 1) (max clock word + 1)
  else put (if wr then max word clock else word) (if rd then max clock word else clock)

/-! ## Writer tags (R241) -/

/-- The line of the guard range that an address lies in. -/
def Launch.guardLine (l : Launch) (va : W64) : Option Nat :=
  let d := (va - l.cmd.guardbase).toNat
  if l.cmd.repro && l.cmd.guarded && d < 65536 * l.cmd.guardlen then some (d / 64) else none

/-- NONE and MULTI. -/
def tagNone : Nat := 0xFFFFFFFF
def tagMulti : Nat := 0xFFFFFFFE

/-- The writer tag of a guarded line. -/
def Launch.tag (l : Launch) (line : Nat) : Nat := (kget l.tags line).getD tagNone

/-- A store or RED of range `n` to a guarded line; the four bytes of a tag that changes are written to the table in the VF's pool
(R239, R241). -/
def State.tagStore (s : State) (launch n line : Nat) : State :=
  match s.launch launch with
  | none => s
  | some l =>
    let old := l.tag line
    let new := if old == tagNone || old == n then n else tagMulti
    if new == old then s
    else (s.modLaunch launch fun l => { l with tags := kset l.tags line new }).chargePool l.vf l.proc launch 4

/-- A store of range `n` to every guarded line of a range of bytes. -/
def State.tagRange (s : State) (l : Launch) (n : Nat) (va : W64) (len : Nat) : State :=
  if !(l.cmd.repro && l.cmd.guarded) then s
  else ((List.range len).filterMap fun k => l.guardLine (va + BitVec.ofNat 64 k)).eraseDups.foldl
    (fun s line => s.tagStore l.id n line) s

/-- A load of the line raises REPRO for range `n`. -/
def Launch.tagBad (l : Launch) (n line : Nat) : Bool :=
  let old := (kget l.tags line).getD tagNone
  old != tagNone && old != n

/-- The number lo / C of the issuing cluster range. -/
def Iss.rangeNo (i : Iss) : Nat := i.r.lo / i.l.c

/-! ## Reading and writing at a level -/

/-- How an instruction accesses memory. -/
structure How where
  order : Nat
  scope : Nat
  rd : Nat
  n : Nat
  deriving DecidableEq, Repr

/-- The level an access is performed at (R204): 1 the cluster L1, 2 and 3 the home slice, 4 the home package. An
access to a guarded page is served at the home (R241). -/
def How.level (h : How) (guarded : Bool) : Nat :=
  let l := if h.order == 0 then 1 else max h.scope 1
  if guarded then max l 2 else l

/-- The level at which a load of a guarded page reads: its home, past every copy (R241). -/
def State.guardLevel (s : State) (pa : Nat) : Nat := if s.remote pa then 4 else 2

/-- Makes the level current for one byte: the cluster's own byte goes down, and its copies above are dropped. -/
def State.atLevel (s : State) (clu lvl pa : Nat) : State :=
  if lvl < 2 then s
  else
    let s := (s.cleanByte clu pa).dropByte clu pa
    if lvl == 4 && s.remote pa then
      let s := s.cleanLow pa
      { s with mem := { s.mem with l2 := kdel s.mem.l2 pa, cp := kdel s.mem.cp pa } }
    else s

/-- A byte at a level. -/
def State.readByte (s : State) (clu lvl pa : Nat) : Byte := if lvl < 2 then s.l1Read clu pa else s.sliceRead pa

/-- A write of a byte at a level. -/
def State.writeByte (s : State) (clu lvl pa : Nat) (b : Byte) : State :=
  if lvl < 2 then s.l1Write clu pa b
  else
    let s := s.dropByte clu pa
    if lvl == 4 && s.remote pa then
      if s.lost pa then s
      else { s with mem := { s.mem with l2 := kdel s.mem.l2 pa, cp := kdel s.mem.cp pa } }.homeWrite pa b
    else if lvl == 4 && inCxl pa then
      let s := s.putL2 pa ⟨b, false⟩
      { s with mem := { s.mem with cp := kdel s.mem.cp pa } }.homeWrite pa b
    else s.sliceWrite pa b

def State.writeBytes (s : State) (clu lvl : Nat) : Nat → List Byte → State
  | _, [] => s
  | pa, b :: bs => State.writeBytes ((s.writeByte clu lvl pa b).note 0 (.g pa false)) clu lvl (pa + 1) bs

/-- Prepares the line of a .g access: the stamped attribute (R312), outstanding deltas (R244), the level. -/
def State.prepare (s : State) (clu lvl pa n : Nat) (stamped : Bool) : State :=
  let s := if stamped then s.markStamped pa else s
  let s := s.collect fun d => d.meets (pa / 64 * 64) 64
  (List.range n).foldl (fun s k => s.atLevel clu lvl (pa + k)) s

/-- A scratch cell: the range's areas keyed by core × 2^20 + offset. -/
def Range.readScratch (r : Range) (core off n : Nat) : List Byte := Memory.readN r.scratch (core * 2 ^ 20 + off) n

/-- The register slot of a window byte (R72): register, lane, byte. -/
def windowSlot (w off : Nat) : Nat × Nat × Nat := (off / (4 * w), off / 4 % w, off % 4)

/-- A byte of the window: a result not yet waited on gives the old or the new value (R73 items 2 and 5). -/
def Ctx.windowByte (c : Ctx) (fresh w off : Nat) : Byte :=
  let (r, l, b) := windowSlot w off
  let x := landRead (c.landReg r l) fresh (((c.lanes[l]?).bind (·.item)).getD 0) 7
    ((((c.lanes[l]?).bind (·.regs[r]?)).getD 0).setWidth 64)
  BitVec.ofNat 8 (x.toNat / 2 ^ (8 * b))

def Ctx.setWindowByte (c : Ctx) (w off : Nat) (v : Byte) : Ctx :=
  let (r, l, b) := windowSlot w off
  let x := (((c.lanes[l]?).bind (·.regs[r]?)).getD 0).toNat
  let k := 2 ^ (8 * b)
  c.writeLanes r false [(l, BitVec.ofNat 64 (x - x / k % 256 * k + v.toNat * k))]

def Ctx.setWindowBytes (c : Ctx) (w : Nat) : Nat → List Byte → Ctx
  | _, [] => c
  | off, v :: vs => Ctx.setWindowBytes (c.setWindowByte w off v) w (off + 1) vs

/-- Reads a location: the state after the access, and its bytes. A weak load that races with another context's store could
return an older value too (R144 item 4); the model returns what the cache or the scratch area holds
(notes/assumptions/7.md). -/
def State.readLoc (s : State) (i : Iss) (h : How) (va : W64) : Loc → State × List Byte
  | .g pa st =>
    let clu := i.r.cluster.getD 0
    let lvl := if (i.l.guardLine va).isSome then max (h.level true) (s.guardLevel pa) else h.level false
    let s := s.prepare clu lvl pa h.n st
    let v := (List.range h.n).map fun k => s.unlessOpen i.r.id (.g (pa + k) st) (s.readByte clu lvl (pa + k))
    let s := if lvl < 2 && h.rd != 7 then s.l1Fill clu pa else s
    (s.stamp (i.s.coreNumber i.c) h.order (pa / 8) true false, v)
  | .scratch core off =>
    (s.stamp (i.s.coreNumber i.c) h.order ((Loc.scratch core off).stampKey i.r.id i.c.id) true false,
      (List.range h.n).map fun k => s.unlessOpen i.r.id (.scratch core (off + k))
        (Memory.read ((s.range i.r.id).getD i.r).scratch (core * 2 ^ 20 + off + k)))
  | .control off =>
    (s.stamp (i.s.coreNumber i.c) h.order ((Loc.control off).stampKey i.r.id i.c.id) true false,
      Memory.readN ((s.range i.r.id).getD i.r).cscratch off h.n)
  | .priv off =>
    (s.stamp (i.s.coreNumber i.c) h.order ((Loc.priv off).stampKey i.r.id i.c.id) true false,
      Memory.readN ((s.ctx i.c.id).getD i.c).priv off h.n)
  | .window off =>
    (s, (List.range h.n).map fun k => ((s.ctx i.c.id).getD i.c).windowByte i.s.fresh i.l.w (off + k))

/-- Writes a location. A store at fabric scope to a node that has failed is discarded and awaits nothing (R330, R342,
notes/assumptions/104.md). -/
def State.writeLoc (s : State) (i : Iss) (h : How) (va : W64) (bs : List Byte) : Loc → State
  | .g pa st =>
    let clu := i.r.cluster.getD 0
    let line := i.l.guardLine va
    let lvl := h.level line.isSome
    let s := s.prepare clu lvl pa h.n st
    let s := s.writeBytes clu lvl pa bs
    let s := match line with
      | some k => s.tagStore i.l.id i.rangeNo k
      | none => s
    let s := s.stamp (i.s.coreNumber i.c) h.order (pa / 8) false true
    if lvl == 4 && !s.lost pa then s.awaitAcks i.c.id [pa] else s
  | .scratch core off =>
    ((s.noteScratch i.r.id core off bs.length).modRange i.r.id fun r =>
      { r with scratch := Memory.writeN r.scratch (core * 2 ^ 20 + off) bs }).stamp
      (i.s.coreNumber i.c) h.order ((Loc.scratch core off).stampKey i.r.id i.c.id) false true
  | .control off =>
    (s.modRange i.r.id fun r => { r with cscratch := Memory.writeN r.cscratch off bs }).stamp
      (i.s.coreNumber i.c) h.order ((Loc.control off).stampKey i.r.id i.c.id) false true
  | .priv off =>
    (s.modCtx i.c.id fun c => { c with priv := Memory.writeN c.priv off bs }).stamp
      (i.s.coreNumber i.c) h.order ((Loc.priv off).stampKey i.r.id i.c.id) false true
  | .window off => s.modCtx i.c.id fun c => c.setWindowBytes i.l.w off bs

/-- Another package stores bytes at its own home (notes/assumptions/1.md). -/
def State.peerStore (s : State) (pa : Nat) (bytes : List Byte) : State :=
  if s.remote pa && s.remote (pa + bytes.length) then
    { s with mem := { s.mem with home := Memory.writeN s.mem.home pa bytes } }
  else s

/-! ## Reads that memory cannot answer at once -/

/-- The line of a byte that no cache on its path holds, and that a CXL device or another node must give (R280, R330); an access
at fabric scope to another node goes to its home instead. -/
def State.cxlMiss (s : State) (clu lvl pa : Nat) : Option Nat :=
  if s.lowMiss pa && !(lvl == 4 && s.remote pa) && (2 ≤ lvl || (kget s.mem.l1 (l1Key clu pa)).isNone) then some (pa / 64)
  else none

/-- Reads of these bytes wait: one whose home block is under test for the test (R258), a poisoned one for its machine
check, a miss of a CXL or remote line for the line. -/
def State.readWait (s : State) (clu lvl launch : Nat) (pas : List Nat) : Option (State × Wait) :=
  match pas.find? fun pa => s.underTest pa && (2 ≤ lvl || (kget s.mem.l1 (l1Key clu pa)).isNone) with
  | some pa => some (s, .stall (.test pa))
  | none => match pas.find? fun pa => s.poisoned pa && (2 ≤ lvl || (kget s.mem.l1 (l1Key clu pa)).isNone) with
  | some pa => some (s.raiseRead launch pa, .check)
  | none =>
    match pas.filterMap (s.cxlMiss clu lvl) with
    | [] => none
    | line :: _ => some (s.askCxl line, .cxl line)

/-- An access at a level needs no answer of another node, or its word has it (R330). -/
def State.answered (s : State) (c : Ctx) (lvl pa : Nat) : Bool :=
  lvl != 4 || !s.remote pa || (!s.lost pa && c.visited.contains (pa / 64))

/-- A context opens a transaction for its access to a line at the home. -/
def State.openVisit (s : State) (ctx launch meters line : Nat) : State :=
  let s := s.chargeFlit ctx launch meters (nodeOf (64 * line))
  let (id, s) := s.newId
  ({ s with ops := s.ops ++ [⟨id, [ctx], none, .visit line, meters⟩] } : State).openTx (nodeOf (64 * line)) id

/-- The loads and atomics of a word at fabric scope at the homes of their lines on other nodes: at a failed node a poisoned
read; else each line has its transaction, and the word waits for the answers (R330, notes/assumptions/100.md). -/
def Iss.goHome (i : Iss) (s : State) (lvl : Nat) (pas : List Nat) (k : State → Res) : Res :=
  let far := pas.filter fun pa => !s.answered i.c lvl pa
  match far.find? s.lost with
  | some pa => .wait (s.raiseRead i.l.id pa) .check
  | none =>
    if far.isEmpty then k s
    else
      let asked (line : Nat) : Bool := s.ops.any fun o => o.ctxs.contains i.c.id && o.what == .visit line
      let lines := ((far.map (· / 64)).eraseDups).filter fun line => !asked line
      .wait (lines.foldl (fun s line => s.openVisit i.c.id i.l.id i.c.meters line) s) (.stall .answers)

/-- The accesses of a word that writes at fabric scope await their acknowledgements, where its answers were none (R177,
R331). -/
def State.awaitWrites (s : State) (i : Iss) (pas : List Nat) : State :=
  s.awaitAcks i.c.id (pas.filter fun pa => !s.lost pa && !i.c.visited.contains (pa / 64))

def Loc.pas (n : Nat) : Loc → List Nat
  | .g pa _ => (List.range n).map (pa + ·)
  | _ => []

/-- The TLB entries that an instruction's accesses fill (R252). -/
def State.tlbFills (s : State) (i : Iss) (xs : List (Acc × Loc)) : State :=
  xs.foldl (fun s p => match p.2 with
    | .g _ _ => s.tlbFill (i.r.cluster.getD 0) false i.l.vf i.l.proc p.1.va
    | _ => s) s

/-! ## Results -/

/-- A place that a result goes to. -/
def Ctx.landDsts (c : Ctx) (d : Opnd) (wide : Bool) (vs : List (Nat × W64)) : List (LDst × W64) :=
  match d with
  | .s r => (vs.head?).toList.map fun v => (.scal r.toNat, v.2)
  | .v r =>
    vs.flatMap fun v =>
      let lane := if c.kind == .strand then some v.1 else none
      (LDst.reg r.toNat lane, BitVec.ofNat 64 (v.2.toNat % 2 ^ 32)) ::
        (if wide then [(LDst.reg (r.toNat + 1) lane, v.2.ushiftRight 32)] else [])
  | _ => []

/-- Writes results at once: a strand's by lane, a span's or a control program's as one uniform value. -/
def Ctx.deliver (c : Ctx) (d : Opnd) (wide : Bool) (vs : List (Nat × W64)) : Ctx :=
  match d, vs with
  | .s r, v :: _ => c.writeScal r.toNat v.2
  | .v r, v :: _ =>
    if c.kind == .strand then c.writeLanes r.toNat wide vs else c.writeForm r.toNat wide (.u v.2)
  | _, _ => c

/-- Starts an asynchronous operation of the context on the token SETK (R36, R39). -/
def State.startOp (s : State) (i : Iss) (what : OpWhat) : Nat × State :=
  let (id, s) := s.newId
  (id, { s with ops := s.ops ++ [⟨id, [i.c.id], if i.h.se then some i.h.setk.toNat else none, what, i.c.meters⟩] })

/-- Adds the results of an operation that its token covers (R73 item 2); `uni` when one access gives them all (R173). -/
def State.addLandings (s : State) (i : Iss) (op : Nat) (uni : Bool) (xs : List (LDst × W64)) : State :=
  s.modCtx i.c.id fun c => xs.foldl (fun (c : Ctx) x => c.addLanding ⟨op, i.h.setk.toNat, x.1, x.2, uni⟩) c

/-- Delivers results: at once with SE = 0, under the token with SE = 1; those of one access are U in a strand whose lanes
are all present (R173). -/
def State.results (s : State) (i : Iss) (d : Opnd) (wide uni : Bool) (vs : List (Nat × W64)) : State :=
  if i.h.se then
    let (id, s) := s.startOp i .ready
    s.addLandings i id uni (i.c.landDsts d wide vs)
  else s.modCtx i.c.id fun c =>
    match d, vs with
    | .v r, v :: _ => if uni && i.whole then i.putLanes c r.toNat wide vs (.u v.2) else c.deliver d wide vs
    | _, _ => c.deliver d wide vs

/-- An operation that the context waits for before its next word (SE = 0), or under its token. -/
def State.holdOn (s : State) (i : Iss) (id : Nat) : State :=
  if i.h.se then s else s.modCtx i.c.id fun c => { c with wait := .op id }

/-- A destination pair that a span's write would split needs lanes first (R71). -/
def Iss.splits (i : Iss) (d : Opnd) (wide : Bool) : Bool :=
  match i.c.kind, d with
  | .span _ _, .v r => i.c.splitsPair r.toNat wide
  | _, _ => false

end Sys2Proof.Machine
end

