-- ==== Sys2Proof/Machine/MemAccess.lean ====
section
/-! DEFINITION. The meanings of LD, ST, PREF, CRNG and FENCE (07 R172 to R177). -/

namespace Sys2Proof.Machine

/-- The address is U: the context makes one access (R173). -/
def Iss.sameAddr (i : Iss) (f : Fields) (size : Nat) : Bool := i.c.kind == .control || (i.oneAddr f size).isSome

/-- The accesses that are made: one when all are the same. -/
def once (same : Bool) (xs : List (Acc × Loc)) : List (Acc × Loc) := if same then xs.take 1 else xs

/-- Reads every location in order. -/
def State.readAll (s : State) (i : Iss) (h : How) : List (Acc × Loc) → State × List (Acc × List Byte)
  | [] => (s, [])
  | (a, loc) :: rest =>
    let (s, bs) := s.readLoc i h a.va loc
    let (s, more) := s.readAll i h rest
    (s, (a, bs) :: more)

/-- Writes every location in order. -/
def State.writeAll (s : State) (i : Iss) (h : How) : List (Acc × Loc × List Byte) → State
  | [] => s
  | (a, loc, bs) :: rest => State.writeAll (s.writeLoc i h a.va bs loc) i h rest

/-- Inserts by rising item index. -/
def insertByItem {α : Type} (x : Acc × α) : List (Acc × α) → List (Acc × α)
  | [] => [x]
  | y :: ys => if x.1.item < y.1.item then x :: y :: ys else y :: insertByItem x ys

/-- The item order of R142 item 2. -/
def byItem {α : Type} (xs : List (Acc × α)) : List (Acc × α) := xs.foldl (fun l x => insertByItem x l) []

/-- The level at which a load makes an access: of a guarded page at the home (R241). -/
def State.loadLevel (s : State) (i : Iss) (h : How) (p : Acc × Loc) : Nat :=
  match p.2, i.l.guardLine p.1.va with
  | .g pa _, some _ => max (h.level true) (s.guardLevel pa)
  | _, _ => h.level false

/-- The first wait of a set of reads of `n` bytes at their levels. -/
def State.readsWait (s : State) (i : Iss) (lvl : Acc × Loc → Nat) (n : Nat) (xs : List (Acc × Loc)) : Option (State × Wait) :=
  (xs.filterMap fun p => s.readWait (i.r.cluster.getD 0) (lvl p) i.l.id (p.2.pas n)).head?

/-- The bytes that accesses reach at fabric scope. -/
def fabricPas (lvl : Acc × Loc → Nat) (n : Nat) (xs : List (Acc × Loc)) : List Nat :=
  (xs.filter fun p => lvl p == 4).flatMap fun p => p.2.pas n

/-- Some access loads a guarded line that another range stores (R241). -/
def Iss.tagged (i : Iss) (xs : List (Acc × Loc)) : Bool :=
  xs.any fun p => match p.2, i.l.guardLine p.1.va with
    | .g _ _, some line => ((i.s.launch i.l.id).getD i.l).tagBad i.rangeNo line
    | _, _ => false

/-- A refilled strand of a reproducible launch reaches another item's slot through .w (R134). -/
def Iss.foreignSlot (i : Iss) (n : Nat) (xs : List (Acc × Loc)) : Bool :=
  i.l.cmd.repro && i.c.refilled && xs.any fun p => match p.2 with
    | .window off => (List.range n).any fun k => (windowSlot i.l.w (off + k)).2.1 != p.1.lane
    | _ => false

/-- A loaded value as its destination holds it (R33, R44, R46, R76). The sign of LD.sx extends over the whole of a scalar
(notes/assumptions/110.md). -/
def ldValue (f : Fields) (bs : List Byte) : W64 :=
  let v := leVal bs
  if f.ty == .b8 && f.mod.toNat % 2 == 1 then BitVec.ofInt 64 (intOf true 8 v)
  else if f.d.isS then scalBits f.ty v else regBits f.ty v

/-- LD (R173). -/
def ldBody (f : Fields) (i : Iss) (s : State) : Res :=
  let n := f.ty.bytes
  let wide := f.ty.is64
  let h : How := ⟨f.ldOrder, f.scope, i.h.rd.toNat, n⟩
  let clu := i.r.cluster.getD 0
  match if i.splits f.d wide then none else i.accs f n true with
  | none => i.needLanes s
  | some xs =>
    match i.decide s n.log2 false 0 (xs.map fun a => (a, s.locate i.c f.space a.va n true wantRead)) with
    | .stop r => r
    | .go ok bad late =>
      if i.tagged ok || i.foreignSlot n ok then i.repro s
      else match s.readsWait i (s.loadLevel i h) n ok with
        | some (s, w) => .wait s w
        | none =>
          i.afterRelease (s.tlbFills i ok) h.order h.scope fun s =>
          i.goHome s 4 (fabricPas (s.loadLevel i h) n ok) fun s =>
            let same := i.sameAddr f n
            let (s, got) := s.readAll i h (once same ok)
            let s := if isAcq h.order then s.acquire clu h.scope else s
            let s := s.chargeBytes i (n * got.length) ((once same ok).flatMap (·.2.pas 1))
            let vs := if same then
                (got.head?).toList.flatMap fun g => ok.map fun p => (p.1.lane, ldValue f g.2)
              else got.map fun g => (g.1.lane, ldValue f g.2)
            i.finishAcc (s.results i f.d wide same vs) n.log2 false 0 ok bad late

/-- A store whose address and source are the same for every item writes once. -/
def Iss.sameStore (i : Iss) (f : Fields) (n : Nat) : Bool :=
  i.sameAddr f n && (match i.form 3 f.ty.is64 f.d with
    | .u _ => true
    | _ => i.c.kind == .control)

/-- The source of a store for the item in a lane of a strand. -/
def Iss.storeVal (i : Iss) (f : Fields) (n l : Nat) : W64 :=
  match i.sameStore f n, i.form 3 f.ty.is64 f.d with
  | true, .u x => x
  | _, _ => i.lane 3 l f.ty.is64 f.d

/-- The source of an item (R174, R263), as a span's form or per lane, where `val` gives it; none when a span must
materialise. -/
def Iss.source (i : Iss) (f : Fields) (val : Nat → W64) : Option (Acc → W64) :=
  match i.c.kind with
  | .strand => some fun a => val a.lane
  | .control => some fun _ => i.uni 3 f.d
  | .span _ _ =>
    match i.form 3 f.ty.is64 f.d with
    | .m => none
    | x => some fun a => x.at a.item

/-- ST (R174). -/
def stBody (f : Fields) (i : Iss) (s : State) : Res :=
  let n := f.ty.bytes
  let h : How := ⟨f.order, f.scope, i.h.rd.toNat, n⟩
  let clu := i.r.cluster.getD 0
  let same := i.sameStore f n
  match i.source f (i.storeVal f n), i.accs f n (same && f.space != 3) with
  | some src, some xs =>
    (match i.decide s n.log2 true 1 (xs.map fun a => (a, s.locate i.c f.space a.va n true wantWrite)) with
    | .stop r => r
    | .go ok bad late =>
      if i.foreignSlot n ok then i.repro s
      else if 2 ≤ h.level false && ok.any fun p => (p.2.pas 1).any s.underTest then
        .wait s (.stall (.test (((ok.flatMap (·.2.pas 1)).find? s.underTest).getD 0)))
      else
        i.afterRelease (s.tlbFills i ok) h.order h.scope fun s =>
          let todo := byItem ((once same ok).map fun p => (p.1, p.2, leBytes n (src p.1).toNat))
          let s := s.writeAll i h todo
          let s := if isAcq h.order then s.acquire clu h.scope else s
          let s := s.chargeBytes i (n * todo.length) (todo.flatMap (·.2.1.pas 1))
          i.finishAcc s n.log2 true 1 ok bad late)
  | _, _ => i.needLanes s

/-- PREF (R175): a line with a translation is brought in, or the request is dropped. It has no access size, so the offset
in X counts bytes (notes/assumptions/111.md). -/
def prefBody (f : Fields) (i : Iss) (s : State) : Res :=
  let clu := i.r.cluster.getD 0
  let locs := ((i.accs f 1 false).getD []).filterMap fun a =>
    match s.locate i.c 0 a.va 1 false wantRead with
    | .ok (.g pa st) => if (s.cxlMiss clu 1 pa).isSome || s.poisoned pa then none else some (a, Loc.g pa st)
    | _ => none
  let (k, s) := s.newFree
  if i.h.rd == 7 || Config.freeBool k then .done s
  else
    .done (locs.foldl (fun s p => match p.2 with
      | .g pa st => (s.prepare clu 1 pa 1 st).l1Fill clu pa
      | _ => s) (s.tlbFills i locs))

/-! ## CRNG -/

/-- The clusters whose L1 a scope covers (R176): the whole L1 of the cluster, the die, the package. -/
def scopeClusters (scope clu : Nat) : List Nat :=
  if scope < 2 then [clu] else if scope == 2 then (List.range 16).map (clu / 16 * 16 + ·) else List.range 128

/-- The physical pieces of a byte range that have a translation. -/
def State.pieces (s : State) (clu : Nat) (l : Launch) (va : W64) : Nat → Nat → List (Nat × Nat)
  | 0, _ => []
  | fuel + 1, n =>
    if n == 0 then []
    else
      let k := min n (2 ^ 16 - va.toNat % 2 ^ 16)
      let rest := s.pieces clu l (va + BitVec.ofNat 64 k) fuel (n - k)
      match s.translate clu false l.vf l.proc va with
      | .ok leaf => (leaf.phys va, k) :: rest
      | .error _ => rest

/-- The caches below the L1s that hold a line lie within a scope of a cluster. -/
def State.lowIn (s : State) (scope clu p : Nat) : Bool := 3 ≤ scope || (scope == 2 && s.homeDieOf p == clu / 16)

/-- The bytes of [pa, pa + n) that CRNG.wb and CRNG.wbi write to homes beyond the slices of this package: dirty below the L1s
within the scope, or dirty in an L1 of the scope, of a line that lies at another node or whose slice is within the scope too. -/
def State.crngSent (s : State) (var scope clu pa n : Nat) : List Nat :=
  let inR (p : Nat) : Bool := pa ≤ p && p < pa + n
  let up := (scopeClusters scope clu).flatMap fun c => s.l1Held c fun p x => inR p && x.dirty && s.lowCached p
  if var == 0 then []
  else ((s.lowDirty.filter fun p => inR p && s.lowIn scope clu p) ++
    up.filter fun p => s.remote p || s.lowIn scope clu p).eraseDups

/-- The effect of CRNG on the physical bytes [pa, pa + n): 0 .inv, 1 .wb, 2 .wbi. -/
def State.crng (s : State) (var scope clu pa n : Nat) : State :=
  let s := s.collect fun d => d.meets pa n
  let sent := s.crngSent var scope clu pa n
  let cls := scopeClusters scope clu
  let inR (p : Nat) : Bool := pa ≤ p && p < pa + n
  let low (p : Nat) : Bool := inR p && s.lowIn scope clu p
  let s := if var == 0 then s else
    cls.foldl (fun s c => (s.l1Held c fun p x => inR p && x.dirty).foldl (fun s p => s.cleanByte c p) s) s
  let s := sent.foldl State.cleanLow s
  if var == 1 then s
  else { s with mem := { s.mem with
    l1 := s.mem.l1.filter fun e => !(cls.contains (e.1 / 2 ^ 56) && inR (e.1 % 2 ^ 56))
    l2 := s.mem.l2.filter fun e => !low e.1
    cp := s.mem.cp.filter fun e => !low e.1 } }

/-- The effect of CRNG on the pieces of a range, and the bytes that await the acknowledgement of another node or of a device. -/
def State.crngPieces (s : State) (var scope clu : Nat) (ps : List (Nat × Nat)) : State × List Nat :=
  ps.foldl (fun x p =>
    (x.1.crng var scope clu p.1 p.2, x.2 ++ (x.1.crngSent var scope clu p.1 p.2).filter (!x.1.lost ·))) (s, [])

/-- CRNG (R176); the context holds until the bytes are at their homes. -/
def crngBody (f : Fields) (i : Iss) (s : State) : Res :=
  let va := i.uni 0 f.a
  let n := (i.uni 1 f.b).toNat
  if n == 0 || i.acked then .done s
  else if !canonical va then i.ctxFault s 7 1 false va
  else if va.toNat < 2 ^ 55 && 2 ^ 55 < va.toNat + n then i.ctxFault s 7 1 false (BitVec.ofNat 64 (2 ^ 55))
  else if 2 ^ 64 + 2 ^ 55 < va.toNat + n then i.ctxFault s 7 1 false (BitVec.ofNat 64 (2 ^ 55))
  else
    let clu := i.r.cluster.getD 0
    let ps := s.pieces clu i.l va (n / 2 ^ 16 + 2) n
    let (s, sent) := s.crngPieces f.var.toNat f.scope clu ps
    if sent.isEmpty then .done s
    else
      let t := s.awaitAcks i.c.id sent
      .wait t (.acks ((t.unacked i.c.id).filter fun id => s.nextId ≤ id))

/-! ## FENCE -/

/-- The fence word of a scope (R299). -/
def fenceKey (scope clu core : Nat) : Nat :=
  2 ^ 61 + (match scope with
    | 0 => 1024 + core
    | 1 => 512 + clu
    | 2 => 1 + clu / 16
    | _ => 0)

/-- The wait set of a fabric fence (R177), and whether a store of it was discarded. -/
def State.waitSet (s : State) (ctx : Nat) : List Nat × Bool :=
  let mine := s.ops.filter fun o => o.ctxs.contains ctx
  (s.unacked ctx, mine.any fun o => match o.what with
    | .remote _ true _ => true
    | _ => false)

/-- A fence has reported the discarded stores of its context. -/
def State.dropLost (s : State) (ctx : Nat) : State :=
  { s with ops := s.ops.filter fun o => match o.what with
    | .remote _ true _ => !o.ctxs.contains ctx
    | _ => true }

/-- FENCE (R177). -/
def fenceBody (f : Fields) (i : Iss) (s : State) : Res :=
  let clu := i.r.cluster.getD 0
  let s := if isRel f.order then s.release clu i.c.id f.scope else s
  let s := if f.order == 5 then
      s.stamp (i.s.coreNumber i.c) 5 (fenceKey f.scope clu (i.s.coreNumber i.c)) true true
    else s
  let (set, lost) := s.waitSet i.c.id
  let s := if f.scope == 4 then s.dropLost i.c.id else s
  if f.scope == 4 && !set.isEmpty then
    let dst := destScal f.d
    let (id, s) := s.startOp i (.fence set lost (isAcq f.order) dst)
    .done (s.holdOn i id)
  else
    let s := if isAcq f.order then s.acquire clu f.scope else s
    .done (s.results i f.d true true [(0, BitVec.ofNat 64 (f.scope == 4 && lost).toNat)])

/-! ## The meanings -/

/-- LD R173. -/
def execLd (f : Fields) (s : State) : Host.Outcome State Fault Refusal := issueF 0x80 f (ldBody f) s

/-- ST R174. -/
def execSt (f : Fields) (s : State) : Host.Outcome State Fault Refusal := issueF 0x81 f (stBody f) s

/-- PREF R175. -/
def execPref (f : Fields) (s : State) : Host.Outcome State Fault Refusal := issueF 0x82 f (prefBody f) s

/-- CRNG R176. -/
def execCrng (f : Fields) (s : State) : Host.Outcome State Fault Refusal := issueF 0x83 f (crngBody f) s

/-- FENCE R177. -/
def execFence (f : Fields) (s : State) : Host.Outcome State Fault Refusal := issueF 0x84 f (fenceBody f) s

end Sys2Proof.Machine
end

