-- ==== Sys2Proof/Machine/Arrival.lean ====
section
/-! DEFINITION. Completion of operations (R39, R73), arrival objects (08 R186, R187, 09 R210), the translated pieces
of a transfer, and the meanings of AINIT, ARV and AWAIT (09 R214 to R217). -/

namespace Sys2Proof.Machine

/-! ## Completion -/

/-- A result reaches a context: under its token it stands beside the old value until the wait (R73 item 2), and
without one at once, which ends the wait. It is one value for every item (R355). -/
def Ctx.receive (c : Ctx) (o : Op) (res : List (LDst × W64)) : Ctx :=
  match o.tok with
  | some t => res.foldl (fun (c : Ctx) x => c.addLanding ⟨o.id, t, x.1, x.2, true⟩) c
  | none =>
    let mine : List Landing := res.map fun x => ⟨o.id, 0, x.1, x.2, true⟩
    let c := mine.foldl (fun c x => c.landOne mine x) c
    { c with wait := if c.wait == .op o.id then .none else c.wait }

/-- An operation completes: what each of its contexts receives, and its token when it is the last (R39). A context that
only waited for it is removed (R123). -/
def State.completeOpBy (s : State) (id : Nat) (res : Ctx → List (LDst × W64)) : State :=
  match s.op id with
  | none => s
  | some o =>
    let s := o.ctxs.foldl (fun (s : State) x => s.modCtx x fun c => c.receive o (res c)) s
    let s := { s with ops := s.ops.filter (·.id != id) }
    o.ctxs.foldl State.retireCtx s

/-- An operation completes with the same results for every context that holds it. -/
def State.completeOp (s : State) (id : Nat) (res : List (LDst × W64)) : State := s.completeOpBy id fun _ => res

/-- Charges an operation's context, with the sub-meters that ran at its issue (R276). -/
def State.chargeOp (s : State) (o : Op) (range tile cls count2 : Nat) : State :=
  match (s.range range).bind fun r => s.launch r.launchId with
  | none => s
  | some l => s.chargeMeters l (o.ctxs.headD 0) o.meters tile cls count2

/-! ## Arrival references (R210) -/

/-- The first byte of a range whose check fails (R372), in a space other than .g. -/
def State.firstBad (s : State) (c : Ctx) (space : Nat) (va : W64) (n : Nat) (w : Want) : Option (W64 × Miss) :=
  ((List.range n).filterMap fun k =>
    let a := va + BitVec.ofNat 64 k
    match s.locate c space a 1 false w with
    | .error m => some (a, m)
    | .ok _ => none).head?

/-- Where an arrival reference names its object, or what its check meets and at which address (R210, R372): the object's,
without the bits that name its space, or its first byte out of bounds. -/
def State.arrivalLoc (s : State) (c : Ctx) (ref : W64) (w : Want) : Except (W64 × Miss) Loc :=
  let rest := ref - BitVec.ofNat 64 (ref.toNat % 4)
  let at_ (space : Nat) : Except (W64 × Miss) Loc :=
    match s.locate c space rest 16 true w with
    | .ok loc => .ok loc
    | .error (.kind 7) => .error (((s.firstBad c space rest 16 w).map (·.1)).getD rest, .kind 7)
    | .error m => .error (rest, m)
  match ref.toNat % 4 with
  | 3 =>
    (match s.launchOf c with
    | none => .error (rest, .kind 2)
    | some l =>
      if rest.toNat / 2 ^ 20 != 0 || l.cmd.cscratch < rest.toNat + 16 then
        .error (BitVec.ofNat 64 (max rest.toNat (min l.cmd.cscratch (rest.toNat + 15))), .kind 7)
      else if rest.toNat % 16 != 0 then .error (rest, .kind 6)
      else .ok (.control rest.toNat))
  | k => at_ k

/-- The 16 bytes of an object at its home (R187). -/
def State.objRead (s : State) (range ctx clu lvl : Nat) (loc : Loc) : Nat :=
  leVal (match loc with
    | .g pa st => (List.range 16).map fun k => (s.prepare clu lvl pa 16 st).sliceSeen (pa + k)
    | .scratch core off => (List.range 16).map fun k => s.unlessOpen range (.scratch core (off + k))
        (((s.range range).map fun r => Memory.read r.scratch (core * 2 ^ 20 + off + k)).getD 0)
    | .control off => ((s.range range).map fun r => Memory.readN r.cscratch off 16).getD []
    | .priv off => ((s.ctx ctx).map fun c => Memory.readN c.priv off 16).getD []
    | .window _ => [])

/-- One event at an object. -/
def State.objWrite (s : State) (range ctx clu lvl : Nat) (loc : Loc) (v : Nat) : State :=
  let bs := leBytes 16 v
  match loc with
  | .g pa st => (s.prepare clu lvl pa 16 st).writeBytes clu lvl pa bs
  | .scratch core off => (s.noteScratch range core off 16).modRange range fun r =>
      { r with scratch := Memory.writeN r.scratch (core * 2 ^ 20 + off) bs }
  | .control off => s.modRange range fun r => { r with cscratch := Memory.writeN r.cscratch off bs }
  | .priv off => s.modCtx ctx fun c => { c with priv := Memory.writeN c.priv off bs }
  | .window _ => s

/-- arrive(obj, add) of R187 on the 128 bits of an object. -/
def arriveVal (v add : Nat) : Nat :=
  let expect := v % 2 ^ 32
  let t := v / 2 ^ 32 % 2 ^ 32 + add
  let flip := expect ≤ t
  let phase := v / 2 ^ 64 % 2
  let phase' := if flip then 1 - phase else phase
  let count := (if flip then t - expect else t) % 2 ^ 32
  expect + count * 2 ^ 32 + phase' * 2 ^ 64 + v / 2 ^ 65 * 2 ^ 65

/-- The completion event of an engine operation: 1 in MODE 0, the bytes moved in MODE 1 (R187). At fabric scope the write of the
object awaits its acknowledgement (R330). -/
def State.arriveDone (s : State) (range ctx clu scope : Nat) (loc : Option Loc) (bytes : Nat) : State :=
  match loc with
  | none => s
  | some loc =>
    let lvl := max 2 scope
    let v := s.objRead range ctx clu lvl loc
    let s := s.objWrite range ctx clu lvl loc (arriveVal v (if v / 2 ^ 65 % 2 == 1 then bytes else 1))
    if lvl == 4 then s.awaitAcks ctx (((loc.pas 16).take 1).filter (!s.lost ·)) else s

/-! ## Pieces of a transfer -/

/-- The parts of a range of virtual bytes that lie in one 64 KiB page each: first address and length. -/
def pageParts : Nat → W64 → Nat → List (W64 × Nat)
  | 0, _, _ => []
  | fuel + 1, va, n =>
    if n == 0 then []
    else
      let k := min n (2 ^ 16 - va.toNat % 2 ^ 16)
      (va, k) :: pageParts fuel (va + BitVec.ofNat 64 k) (n - k)

/-- Translates every page of a range of virtual bytes, or the check that fails (R246, R269, R372, R373). -/
def State.translateFor (s : State) (clu : Nat) (engine : Bool) (vf proc : Nat) (w : Want) (va : W64) (n : Nat) :
    Except (W64 × Miss) (List Piece) :=
  wholeAccess ((pageParts (n / 2 ^ 16 + 2) va n).map fun p =>
    (p.1, (s.gByte clu engine vf proc p.1 w).map fun q =>
      ({ pa := q.1, n := p.2, stamped := q.2.s, cached := q.2.c, va := p.1, size := q.2.size } : Piece)))

/-- Two ranges of bytes that one access reads and writes: their pieces, or the first of the checks that fail in the order of
R373, at its lowest address, and whether that byte is written (R372). -/
def bothRanges {α β : Type} (rd : Except (W64 × Miss) α) (wr : Except (W64 × Miss) β) :
    Except (W64 × Miss × Bool) (α × β) :=
  match rd, wr with
  | .ok a, .ok b => .ok (a, b)
  | .error (va, m), .ok _ => .error (va, m, false)
  | .ok _, .error (va, m) => .error (va, m, true)
  | .error (va, m), .error (wa, k) =>
    if m.rank < k.rank || (m.rank == k.rank && va.toNat < wa.toNat) then .error (va, m, false) else .error (wa, k, true)

/-- The same for a launch's process. -/
def State.translateRange (s : State) (clu : Nat) (engine : Bool) (l : Launch) (w : Want) (va : W64) (n : Nat) :
    Except (W64 × Miss) (List Piece) := s.translateFor clu engine l.vf l.proc w va n

/-- The translation by which an arrival object in memory is found (R210, R252). -/
def State.objPieces (s : State) (clu : Nat) (l : Launch) (ref : W64) (loc : Option Loc) : List Piece :=
  match loc with
  | some (.g _ _) =>
    (match s.translateRange clu false l wantRmw (ref - BitVec.ofNat 64 (ref.toNat % 4)) 16 with
    | .ok ps => ps
    | .error _ => [])
  | _ => []

/-- The byte at an offset of the pieces: its physical address and attribute S. -/
def pieceAt : List Piece → Nat → Nat × Bool
  | [], _ => (0, false)
  | p :: ps, k => if k < p.n then (p.pa + k, p.stamped) else pieceAt ps (k - p.n)

/-- The byte at an offset of the pieces is reached through a page with C (R279). -/
def pieceCached : List Piece → Nat → Bool
  | [], _ => false
  | p :: ps, k => if k < p.n then p.cached else pieceCached ps (k - p.n)

/-! ## AINIT, ARV, AWAIT -/

/-- An instruction on one arrival object: its reference in A is checked, a release comes first, then one event; `bill` is what
it is charged. -/
def objBody (f : Fields) (w : Want) (act : Nat → Nat) (bill : State → Loc → State) (i : Iss) (s : State) : Res :=
  let ref := i.uni 0 f.a
  match s.arrivalLoc i.c ref w with
  | .error (va, m) => i.ctxMiss s 7 true va m
  | .ok loc =>
    let clu := i.r.cluster.getD 0
    let lvl := max 2 f.scope
    match s.readWait clu lvl i.l.id (if w.read then loc.pas 16 else (loc.pas 16).filter s.underTest) with
    | some (s, w) => .wait s w
    | none =>
      i.afterRelease s f.order f.scope fun s =>
      i.goHome s lvl (if w.read then (loc.pas 16).filter s.lost else []) fun s =>
        let v := act (s.objRead i.r.id i.c.id clu lvl loc)
        let s := bill (s.objWrite i.r.id i.c.id clu lvl loc v) loc
        .done (if lvl == 4 then s.awaitAcks i.c.id (((loc.pas 16).take 1).filter (!s.lost ·)) else s)

/-- AINIT (R215): its 16 bytes are charged where they are written (R255, R366). -/
def ainitBody (f : Fields) : Iss → State → Res := fun i s =>
  let expect := (i.uni 1 f.b).toNat % 2 ^ 32
  objBody f wantWrite (fun _ => expect + (f.space % 2) * 2 ^ 65) (fun s loc => s.chargeHome i 16 loc false) i s

/-- The active items of an issue (R216). -/
def Iss.activeItems (i : Iss) : Nat :=
  match i.c.kind with
  | .span lo hi => hi - lo
  | .strand => i.lanes.length
  | .control => 1

/-- ARV (R216). -/
def arvBody (f : Fields) : Iss → State → Res := fun i s =>
  let n := (i.uni 1 f.b).toNat % 2 ^ 32
  let add := if f.space % 2 == 1 then n * i.activeItems else n
  objBody f wantRmw (fun v => arriveVal v add) (fun s _ => s) i s

/-- AWAIT (R217). -/
def awaitBody (f : Fields) (i : Iss) (s : State) : Res :=
  let ref := i.uni 0 f.a
  match s.arrivalLoc i.c ref wantRead with
  | .error (va, m) => i.ctxMiss s 7 false va m
  | .ok loc =>
    let clu := i.r.cluster.getD 0
    let lvl := max 2 f.scope
    match s.readWait clu lvl i.l.id (loc.pas 16) with
    | some (s, w) => .wait s w
    | none =>
      i.goHome s lvl (loc.pas 16) fun s =>
      if s.objRead i.r.id i.c.id clu lvl loc / 2 ^ 64 % 2 == (i.uni 1 f.b).toNat % 2 then
        let s := s.modRange i.r.id fun r => { r with late := r.late.filter fun e => !(i.c.kind == .control && e.arrive == some loc) }
        .done (if isAcq f.order then s.acquire clu f.scope else s)
      else .wait s (.object loc lvl (bitOf (i.uni 1 f.b).toNat 0))

/-! ## The meanings -/

/-- AINIT R215. -/
def execAinit (f : Fields) (s : State) : Host.Outcome State Fault Refusal := issueF 0xA4 f (ainitBody f) s

/-- ARV R216. -/
def execArv (f : Fields) (s : State) : Host.Outcome State Fault Refusal := issueF 0xA5 f (arvBody f) s

/-- AWAIT R217. -/
def execAwait (f : Fields) (s : State) : Host.Outcome State Fault Refusal := issueF 0xA6 f (awaitBody f) s

end Sys2Proof.Machine
end

