-- ==== Sys2Proof/Machine/Control.lean ====
section
/-! DEFINITION. The meanings of opcode row 0x0_ (07 R149 to R159). -/

namespace Sys2Proof.Machine

/-! ## Branches and calls -/

/-- The target of a word offset (R34). -/
def Iss.target (i : Iss) (off : BitVec 24) : W64 :=
  let idx := (i.pc - i.l.cmd.codebase).toNat / 12
  i.l.pcOf ((idx + off.toNat) % 2 ^ 24)

/-- The lanes whose guard is true move to `pc`, the other issuing lanes to the next word; a span or a control
program moves whole (R149). -/
def Iss.branch (i : Iss) (s : State) (pc : W64) : State :=
  s.modCtx i.c.id fun c =>
    if c.kind == .strand then (c.setPcs i.issuing i.next).setPcs i.lanes pc else { c with pc := pc }

def braBody (f : OffFields) (i : Iss) (s : State) : Res := .moved (i.branch s (i.target f.off))

/-- BRX (R150): an A or M target materialises a span. -/
def brxBody (f : Fields) (i : Iss) (s : State) : Res :=
  let dest (a : W64) : W64 := i.l.cmd.codebase + 12 * a
  match i.c.kind with
  | .strand =>
    .moved (s.modCtx i.c.id fun c =>
      i.lanes.foldl (fun c l => c.setPcs [l] (dest (i.lane 0 l true f.a))) (c.setPcs i.issuing i.next))
  | .control => .moved (i.branch s (dest (i.uni 0 f.a)))
  | .span _ _ =>
    match i.form 0 true f.a with
    | .u x => .moved (i.branch s (dest x))
    | _ => i.needLanes s

/-- The mask of the callers: all ones outside a strand (R151). -/
def Iss.callMask (i : Iss) : Nat := if i.c.kind == .strand then maskOf i.lanes else 2 ^ 64 - 1

/-- CALL (R151). -/
def callBody (f : OffFields) (i : Iss) (s : State) : Res :=
  if i.c.rets.length ≥ 8 then i.illegal s 2
  else
    let s := s.modCtx i.c.id fun c => { c with rets := ⟨i.pc + 12, i.callMask⟩ :: c.rets }
    .moved (i.branch s (i.target f.off))

/-- The topmost entry whose mask holds lane `l`. -/
def topEntry (rets : List Ret) (l : Nat) : Option Ret := rets.find? fun r => bitOf r.mask l

/-- Clears lane `l` in its topmost entry. -/
def clearTop (l : Nat) : List Ret → List Ret
  | [] => []
  | r :: rs => if bitOf r.mask l then { r with mask := maskDel r.mask l } :: rs else r :: clearTop l rs

/-- Pops every empty entry from the top. -/
def popEmpty : List Ret → List Ret
  | [] => []
  | r :: rs => if r.mask == 0 then popEmpty rs else r :: rs

/-- RET (R151). -/
def retBody (i : Iss) (s : State) : Res :=
  if i.c.kind == .strand then
    if i.lanes.any fun l => (topEntry i.c.rets l).isNone then i.illegal s 3
    else
      .moved (s.modCtx i.c.id fun c =>
        let c' := i.lanes.foldl (fun d l => d.setPcs [l] (((topEntry c.rets l).map (·.pc)).getD 0))
          (c.setPcs i.issuing i.next)
        { c' with rets := popEmpty (i.lanes.foldl (fun rs l => clearTop l rs) c.rets) })
  else
    match i.c.rets with
    | [] => i.illegal s 3
    | r :: rs => .moved (s.modCtx i.c.id fun c => { c with pc := r.pc, rets := rs })

/-! ## Ending -/

/-- EXIT (R152). -/
def exitBody (i : Iss) (s : State) : Res :=
  match i.c.kind with
  | .strand =>
    let s := s.modCtx i.c.id fun c => c.advance i.issuing i.next
    .moved ((s.endLanes i.c.id i.lanes).checkStuck i.c.id)
  | .span lo hi => .moved (s.endSpanItems i.c.id (hi - lo))
  | .control => .moved ((s.modCtx i.c.id fun c => { c with wait := .ended, active := false }).retireCtx i.c.id)

/-! ## REP -/

/-- The word after the body of a REP. -/
def Iss.afterRep (i : Iss) (f : Fields) (s : State) : W64 := s.skipBody i.c (f.x.toNat % 16 + 1) i.next

/-- REP (R154). -/
def repBody (f : Fields) (i : Iss) (s : State) : Res :=
  let n := (i.uni 1 f.b).toNat % 2 ^ 32
  let after := i.afterRep f s
  let r : Rep :=
    { len := f.x.toNat % 16 + 1, pos := 0, pass := 0, total := n, base := f.mod.toNat % 16
      ring := f.x.toNat / 16 + 1, start := i.next, after := after, mask := maskOf i.lanes, replay := 0 }
  .moved (s.modCtx i.c.id fun c =>
    if n == 0 then
      (if c.kind == .strand then c.setPcs i.issuing after else { c with pc := after })
    else if c.kind == .strand then
      { ((c.setPcs i.issuing after).setPcs i.lanes i.next) with rep := some r }
    else { c with pc := i.next, rep := some r })

/-- A REP that is guarded off skips its body (R154). -/
def repOff (f : Fields) (i : Iss) (s : State) : State :=
  let after := i.afterRep f s
  s.modCtx i.c.id fun c => if c.kind == .strand then c.setPcs i.issuing after else { c with pc := after }

/-! ## Traps and context registers -/

/-- TRAP and BRK (R155): the lanes whose guard is false take their next PC (R127), which the end of the issue gives them. -/
def trapBody (code : Nat) (i : Iss) (s : State) : Res := .trap s 7 code (maskOf i.lanes) 0

/-- The lanes of a strand after RTE: PCs by LANEMASK and the replay mask (R156). -/
def Ctx.resume (c : Ctx) (v : Save) (replay : Nat) : Ctx :=
  { c with
    lanes := (List.range c.lanes.length).zipWith
      (fun l (x : Lane) => if x.item.isSome && bitOf v.mask l
        then { x with pc := if bitOf replay l then v.pc else v.next, waiting := none } else x) c.lanes }

/-- RTE inside a REP body (R40): the lanes that replay execute the position again, and it counts once; with none,
it counts now. -/
def Ctx.resumeRep (c : Ctx) (v : Save) (replay : Nat) : Ctx :=
  match c.rep with
  | none => c
  | some r =>
    if c.kind == .strand then
      let again := maskOf (c.live.filter fun l => bitOf r.mask l && bitOf v.mask l && bitOf replay l)
      if again != 0 then { c with rep := some { r with replay := again } }
      else
        let (pc, rep) := r.counted v.next
        { (c.setPcs (c.live.filter (bitOf r.mask)) pc) with rep := rep }
    else if bitOf replay 0 then c
    else
      let (pc, rep) := r.counted v.next
      { c with pc := pc, rep := rep }

/-- What RTE does to a strand whose killed lanes have ended: what the trap saved, the lanes of LANEMASK at the word or past
it, and the records of those that replay at NONE (R69, R130, R156). -/
def Ctx.rteLanes (c : Ctx) (replay : Nat) : Ctx :=
  match c.save with
  | some v =>
    (((c.clearKinds (c.live.filter fun l => bitOf v.mask l && bitOf replay l)).restore v).resume v replay).resumeRep v
      replay |>.checkLocal
  | none => c

/-- RTE (R156). Killed lanes end before the masks are restored, so that no mask holds them. -/
def rteBody (f : Fields) (i : Iss) (s : State) : Res :=
  let replay := (i.uni 0 f.a).toNat
  let kill := (i.uni 1 f.b).toNat
  match i.c.trap, i.c.save with
  | .slot, some v =>
    (match i.c.kind with
    | .span lo hi =>
      let s := s.modCtx i.c.id fun c =>
        let c := (if bitOf replay 0 then c.clearKinds [0] else c).restore v
        { c with pc := if bitOf replay 0 then v.pc else v.next }.resumeRep v replay
      .moved (if bitOf kill 1 then s.endSpanItems i.c.id (hi - lo)
        else if bitOf kill 0 then s.endSpanItems i.c.id 1 else s)
    | _ =>
      let dead := i.c.live.filter (bitOf kill)
      let s := (s.endLanes i.c.id dead).modCtx i.c.id fun c => c.rteLanes replay
      .moved (s.checkStuck i.c.id))
  | _, _ => i.illegal s 4

/-- The context registers (R157). -/
def Iss.ctxReg (i : Iss) (n : Nat) : W64 :=
  let c := i.c
  let kind := match c.kind with
    | .span _ _ => 0
    | .strand => 1
    | .control => 2
  match n with
  | 0 => BitVec.ofNat 64 (kind + (c.kind == .strand && c.scattered).toNat * 4 + c.refilled.toNat * 8 +
      (c.trap == .slot).toNat * 16 + i.l.cmd.wlog * 256)
  | 1 => (match c.kind with
    | .span lo hi => BitVec.ofNat 64 (lo + (hi - lo) * 2 ^ 32)
    | .strand => BitVec.ofNat 64 (c.items.foldl min (2 ^ 32 - 1) + c.items.length * 2 ^ 32)
    | .control => 0)
  | 2 => BitVec.ofNat 64 (maskOf c.live)
  | 3 => BitVec.ofNat 64 c.rets.length
  | 4 => i.l.cmd.codebase
  | 5 => i.l.trapEntry.getD 0
  | 8 => BitVec.ofNat 64 ((kget i.s.cycles (i.s.coreNumber c)).getD 0)
  | 9 => BitVec.ofNat 64 c.issued
  | _ => c.tag

def mfsrBody (f : Fields) (i : Iss) (s : State) : Res :=
  .done (s.modCtx i.c.id fun c => c.writeScalD f.d (i.ctxReg f.x.toNat))

def mtsrBody (f : Fields) (i : Iss) (s : State) : Res :=
  .done (s.modCtx i.c.id fun c => { c with tag := i.uni 1 f.b })

/-- WAITK (R159). -/
def waitkBody (f : Fields) (i : Iss) (s : State) : Res :=
  let named := (List.range 8).filter (bitOf f.x.toNat)
  let busy := named.filter (s.tokBusy i.c.id)
  let ready := if bitOf f.mod.toNat 0 then busy.length < named.length || named.isEmpty else busy.isEmpty
  if ready then
    .done ((s.matrixWaited i.c (named.filter fun t => !s.tokBusy i.c.id t)).modCtx i.c.id fun c => (named.filter fun t => !s.tokBusy i.c.id t).foldl (fun c t => c.landTok t) c)
  else .wait s (.tokens f.x.toNat (bitOf f.mod.toNat 0))

/-! ## The meanings -/

/-- NOP R153. -/
def execNop (f : Fields) (s : State) : Host.Outcome State Fault Refusal :=
  issueF 0x00 f (fun _ s => .done s) s

/-- BRA R149. -/
def execBra (f : OffFields) (s : State) : Host.Outcome State Fault Refusal := issueO 0x01 f (braBody f) s

/-- BRX R150. -/
def execBrx (f : Fields) (s : State) : Host.Outcome State Fault Refusal := issueF 0x02 f (brxBody f) s

/-- CALL R151. -/
def execCall (f : OffFields) (s : State) : Host.Outcome State Fault Refusal := issueO 0x03 f (callBody f) s

/-- RET R151. -/
def execRet (f : Fields) (s : State) : Host.Outcome State Fault Refusal := issueF 0x04 f retBody s

/-- EXIT R152. -/
def execExit (f : Fields) (s : State) : Host.Outcome State Fault Refusal := issueF 0x05 f exitBody s

/-- YIELD R153: the issue wrapper gives up the active slot. -/
def execYield (f : Fields) (s : State) : Host.Outcome State Fault Refusal :=
  issueF 0x06 f (fun _ s => .done s) s

/-- REP R154. -/
def execRep (f : Fields) (s : State) : Host.Outcome State Fault Refusal :=
  issueWord 0x07 (match f.b with
    | .lit _ => 2
    | _ => 1) (f.odds 0x07) f.g f.h (fun i => i.cycles 0x07 f) (fun c l => (sig 0x07 f).ok && legalF 0x07 f c l) (fun _ => none)
    (fun c => reproWord 0x07 f c) (some (repOff f)) (repBody f) s

/-- TRAP R155. -/
def execTrap (f : Fields) (s : State) : Host.Outcome State Fault Refusal := issueF 0x08 f (trapBody f.x.toNat) s

/-- BRK R155. -/
def execBrk (f : Fields) (s : State) : Host.Outcome State Fault Refusal := issueF 0x09 f (trapBody 0) s

/-- RTE R156. -/
def execRte (f : Fields) (s : State) : Host.Outcome State Fault Refusal := issueF 0x0A f (rteBody f) s

/-- MFSR R158. -/
def execMfsr (f : Fields) (s : State) : Host.Outcome State Fault Refusal := issueF 0x0B f (mfsrBody f) s

/-- MTSR R158. -/
def execMtsr (f : Fields) (s : State) : Host.Outcome State Fault Refusal := issueF 0x0C f (mtsrBody f) s

/-- WAITK R159. -/
def execWaitk (f : Fields) (s : State) : Host.Outcome State Fault Refusal := issueF 0x0D f (waitkBody f) s

end Sys2Proof.Machine
end

