-- ==== Sys2Proof/Machine/Span.lean ====
section
/-! DEFINITION. The meanings of opcode row 0x1_ (07 R160 to R166, 06 R128 to R133). -/

namespace Sys2Proof.Machine

/-- SPLIT (R160). -/
def splitBody (f : Fields) (i : Iss) (s : State) : Res :=
  match i.c.kind with
  | .span lo hi =>
    (match (i.c.spanPred (predNum f.a)).within lo hi with
    | .i a b => i.needCut s (inside lo hi [a, b])
    | _ => .done s)
  | _ => .done s

/-- The context past its JOIN. -/
def State.leaveJoin (s : State) (id : Nat) : State :=
  s.modCtx id fun c =>
    let d := c.advance [] (c.pc + 12)
    { d with wait := .none, billed := false }

/-- A context takes another number, in the operations and messages that name it too. -/
def State.renameCtx (s : State) (old new : Nat) : State :=
  let ids (xs : List Nat) : List Nat := xs.map fun x => if x == old then new else x
  { s with
    ctxs := s.ctxs.map fun (c : Ctx) => if c.id == old then { c with id := new } else c
    ops := s.ops.map fun (o : Op) => { o with ctxs := ids o.ctxs }
    sends := { s.sends with msgs := s.sends.msgs.map fun (m : Msg) => { m with ctxs := ids m.ctxs } } }

/-- JOIN (R131, R161): merges with the adjacent spans that wait at this JOIN, and waits while an adjacent live
span has not arrived. -/
def joinBody (i : Iss) (s : State) : Res :=
  match i.c.kind with
  | .span lo _ =>
    let now := (kget s.cycles (s.coreNumber i.c)).getD 0
    let s := s.setCtx { i.c with wait := .join (now + 512) }
    let q (d : Ctx) : Bool := d.range == i.c.range && d.core == i.c.core && atJoin i.pc d
    let s := s.mergeAll q s.ctxs.length
    -- the merged span keeps the number of the issuing context
    match s.ctxs.find? fun d => d.range == i.c.range && d.core == i.c.core && d.holds lo with
    | none => .done s
    | some m =>
      let s := s.renameCtx m.id i.c.id
      if s.ctxs.any fun d => adjacent { m with id := i.c.id } d && !atJoin i.pc d then
        .wait s (.join (now + 512))
      else .moved (s.leaveJoin i.c.id)
  | _ => .done s

/-- An eligible feeder for context `c` at address `x` (R132). -/
def eligible (c : Ctx) (x : W64) (f : Ctx) : Bool :=
  match f.kind with
  | .span _ _ =>
    f.range == c.range && f.core == c.core && f.pc == x && !f.active && f.trap != .slot && f.resident &&
    f.id != c.id && f.scal == c.scal &&
    (List.range 4).all fun b => match f.bars[b]?, c.bars[b]? with
      | some .clear, _ => true
      | some (.linked j _), some (.linked k _) => j == k
      | _, _ => false
  | _ => false

def spanLo (c : Ctx) : Nat :=
  match c.kind with
  | .span lo _ => lo
  | _ => 0

def spanLen (c : Ctx) : Nat :=
  match c.kind with
  | .span lo hi => hi - lo
  | _ => 0

/-- The lane of item `j` of a feeder, at address x. An outstanding result of the feeder is read once, as R73 item 2 allows
a read, and what is read stays: its token is the feeder's (notes/assumptions/109.md). -/
def feedLane (fresh : Nat) (f : Ctx) (x : W64) (j : Nat) : Lane :=
  let l := (f.predView fresh).laneOf (some j)
  let regs := (List.range l.regs.length).zipWith
    (fun r v => (landRead (f.landReg r 0) fresh j 5 (v.setWidth 64)).setWidth 32) l.regs
  { l with pc := x, regs := regs }

/-- A barrier of a strand that takes items into lanes `mask`: they join a barrier that the feeder is linked to,
and are in no other (R133). -/
def Bar.refill (y : Bar) (mask : Nat) (linked : Bool) : Bar :=
  let out (m : Nat) : Nat := m - maskAnd m mask
  match y with
  | .clear => .clear
  | .mask m => .mask (out m)
  | .linked j m => .linked j (if linked then out m + mask else out m)

/-- REFILL (R133, R162). -/
def refillBody (o : OffFields) (i : Iss) (s : State) : Res :=
  let x := i.target o.off
  let s1 := s.modCtx i.c.id fun c => c.advance i.issuing i.next
  match i.c.kind, leastBy spanLo (s.ctxs.filter (eligible i.c x)) with
  | .strand, some f =>
    let idle := (List.range i.c.lanes.length).filter fun l => (i.c.lanes[l]?).any (·.item.isNone)
    let m := min idle.length (spanLen f)
    if 8 < i.c.rets.length + f.rets.length || m == 0 then .moved s1
    else
      let into := idle.take m
      let lo := spanLo f
      let mask := maskOf into
      let join (v : Save) : Save :=
        { v with lanePcs := into.foldl (fun ps k => setAt ps k x) v.lanePcs
                 waiting := into.foldl (fun ws k => setAt ws k none) v.waiting }
      let s2 := s1.modCtx i.c.id fun c =>
        let lanes := (List.range m).foldl
          (fun ls k => setAt ls ((into[k]?).getD 0) (feedLane s.fresh f x (lo + k))) c.lanes
        Ctx.settleForms { c with
          lanes := lanes, refilled := true, save := c.save.map join
          bars := (List.range 4).zipWith (fun b (y : Bar) => y.refill mask (match f.bars[b]? with
            | some (.linked _ _) => true
            | _ => false)) c.bars
          rets := f.rets.map (fun r => { r with mask := mask }) ++ c.rets }
      .moved ((s2.modCtx f.id fun g => (g.narrow (lo + m) (lo + spanLen f)).dropOffers i.l).retireCtx f.id)
  | _, _ => .moved s1

/-- A linked barrier whose counter is not released. -/
def Iss.linkedLive (i : Iss) (b : Nat) : Bool :=
  match i.c.bars[b]? with
  | some (.linked j _) => i.r.joins.any (·.id == j)
  | _ => false

def barNum (o : Opnd) : Nat :=
  match o with
  | .b r => r.toNat
  | _ => 0

/-- BMARK (R128, R163). A join counter that finds room nowhere waits at issue (R239). -/
def bmarkBody (f : Fields) (i : Iss) (s : State) : Res :=
  let b := barNum f.d
  if i.linkedLive b then i.illegal s 5
  else
    match i.c.kind with
    | .span lo hi =>
      (match s.joinRoom i.c i.l.vf with
      | none => .wait s (.stall .joinRoom)
      | some room =>
        let (j, s) := s.newId
        let s := s.modRange i.c.range fun r => { r with joins := ⟨j, i.c.core, hi - lo, lo, hi, room⟩ :: r.joins }
        let s := if room == 2 then s.chargePool i.l.vf i.l.proc i.l.id Config.waitBytes else s
        .done (s.modCtx i.c.id fun c => { c with bars := setAt c.bars b (.linked j 0) }))
    | _ => .done (s.modCtx i.c.id fun c => { c with bars := setAt c.bars b (.mask (maskOf i.lanes)) })

/-- RJOIN (R129). -/
def rjoinBody (f : Fields) (i : Iss) (s : State) : Res :=
  let b := barNum f.d
  match i.c.kind, i.c.bars[b]? with
  | .span lo hi, some (.linked j _) =>
    let s := s.modCtx i.c.id fun c => { c with wait := .rjoin b, active := false }
    .moved (s.joinSub i.c.range j (hi - lo))
  | .strand, some bar =>
    let arrive := i.lanes.filter (bitOf bar.frameMask)
    let s := s.modCtx i.c.id fun c =>
      let c := c.advance i.issuing i.next
      let lanes := (List.range c.lanes.length).zipWith
        (fun l (x : Lane) => if arrive.contains l then { x with pc := i.pc, waiting := some b } else x) c.lanes
      { c with lanes := lanes }.checkLocal
    let s := match bar with
      | .linked j _ => s.joinSub i.c.range j arrive.length
      | _ => s
    .moved (s.checkStuck i.c.id)
  | _, _ => .done s

/-- SPANQ (R164). -/
def spanqBody (o : OffFields) (i : Iss) (s : State) : Res :=
  let x := i.target o.off
  let n := ((s.ctxs.filter (eligible i.c x)).map spanLen).sum
  .done (s.modCtx i.c.id fun c => c.writeScalD o.d (BitVec.ofNat 64 n))

/-- RGROW (R165). -/
def rgrowBody (f : Fields) (i : Iss) (s : State) : Res :=
  let n := (i.uni 1 f.b).toNat % 2 ^ 32
  let answer (s : State) (v : W64) : Res := .done (s.modCtx i.c.id fun c => c.writeScalD f.d v)
  match i.c.kind with
  | .span _ _ =>
    let win := i.l.window true
    if 917504 < n * win + i.l.window false + round256 i.l.s then answer s 1
    else
      let free := s.freeFor i.c i.l + i.c.reserve * (win / 256)
      if free < n * (win / 256) then .wait s (.space (n * (win / 256)))
      else answer (s.modCtx i.c.id fun c => { c with reserve := n, first := false }) 0
  | _ => answer s 2

/-- The number of zeros below the lowest bit set. -/
def zerosBelow (x : W64) : Nat := ((List.range 64).find? (bitOf x.toNat)).getD 64

/-- The inverse of an odd number modulo 2^64: each round doubles the bits that are right. -/
def oddInverse (d : W64) : W64 := (List.range 5).foldl (fun x _ => x * (2 - d * x)) d

/-- A c and s with value = (c + s·index) mod 2^w for every (index, value), s = 0 where one value is shared (R166). Two
indices that differ by an odd multiple of 2^t fix s modulo 2^(w − t); the least t of all decides. -/
def affineOf (w : Nat) : List (Nat × W64) → Option (W64 × W64)
  | [] => none
  | (i, v) :: rest =>
    let m := 2 ^ w
    let ds := rest.map fun p => (BitVec.ofNat 64 p.1 - BitVec.ofNat 64 i, BitVec.ofNat 64 ((p.2 - v).toNat % m))
    if ds.all (·.2 == 0) then some (v, 0)
    else match leastBy (fun d => zerosBelow d.1) ds with
      | none => none
      | some (d, e) =>
        let t := zerosBelow d
        let s := (e.ushiftRight t) * oddInverse (d.ushiftRight t)
        let c := v - s * BitVec.ofNat 64 i
        if ((i, v) :: rest).all fun p => (c + s * BitVec.ofNat 64 p.1 - p.2).toNat % m == 0 then some (c, s) else none

/-- The values of a register, or pair, in the non-idle lanes of a strand, by index. -/
def Ctx.laneVals (c : Ctx) (r : Nat) (wide : Bool) : List (Nat × W64) :=
  c.lanes.filterMap fun x => x.item.map fun i =>
    (i, ((x.regs[r]?).getD 0).setWidth 64 + if wide then ((x.regs[r + 1]?).getD 0).setWidth 64 * 2 ^ 32 else 0)

/-- FORM.c in a strand (R166). A register with an outstanding result keeps its form (notes/assumptions/108.md). -/
def Ctx.compactForm (c : Ctx) (d : Opnd) (wide : Bool) : Ctx :=
  match d with
  | .p p =>
    let vs := (c.lanes.filter (·.item.isSome)).map fun x => (x.preds[p.toNat]?).getD false
    (match vs with
    | [] => c
    | v :: rest => if rest.all (· == v) then c.writePForm p.toNat (.u v) else c)
  | _ =>
    let r := destReg d
    if (c.landsOn r).isEmpty && (!wide || (c.landsOn (r + 1)).isEmpty) then
      match affineOf (if wide then 64 else 32) (c.laneVals r wide) with
      | some (a, st) => (c.blur r wide).writeForm r wide (mkA (if wide then 64 else 32) a st)
      | none => c
    else c

/-- FORM (R166): no value changes. -/
def formBody (f : Fields) (i : Iss) (s : State) : Res :=
  let wide := f.ty.is64
  match i.c.kind with
  | .span _ _ => if f.mod == 0 then i.needLanes s else .done s
  | .strand =>
    .done (s.modCtx i.c.id fun c =>
      if f.mod != 0 then c.compactForm f.d wide
      else match f.d with
        | .p p => c.writePForm p.toNat .m
        | d => c.blur (destReg d) wide)
  | .control => .done s

/-! ## The meanings -/

/-- SPLIT R160. -/
def execSplit (f : Fields) (s : State) : Host.Outcome State Fault Refusal := issueF 0x10 f (splitBody f) s

/-- JOIN R161. -/
def execJoin (f : Fields) (s : State) : Host.Outcome State Fault Refusal := issueF 0x11 f joinBody s

/-- REFILL R162. -/
def execRefill (f : OffFields) (s : State) : Host.Outcome State Fault Refusal := issueO 0x12 f (refillBody f) s

/-- BMARK R163. -/
def execBmark (f : Fields) (s : State) : Host.Outcome State Fault Refusal := issueF 0x13 f (bmarkBody f) s

/-- RJOIN R129 R163. -/
def execRjoin (f : Fields) (s : State) : Host.Outcome State Fault Refusal := issueF 0x14 f (rjoinBody f) s

/-- SPANQ R164. -/
def execSpanq (f : OffFields) (s : State) : Host.Outcome State Fault Refusal := issueO 0x15 f (spanqBody f) s

/-- RGROW R165. -/
def execRgrow (f : Fields) (s : State) : Host.Outcome State Fault Refusal := issueF 0x16 f (rgrowBody f) s

/-- FORM R166. -/
def execForm (f : Fields) (s : State) : Host.Outcome State Fault Refusal := issueF 0x17 f (formBody f) s

end Sys2Proof.Machine
end

