-- ==== Sys2Proof/Machine/Cross.lean ====
section
/-! DEFINITION. The meanings of the cross-lane instructions (07 R167 to R171, 03 R62, R63). A compact span
materialises first. -/

namespace Sys2Proof.Machine

/-- SHFL (R168): the lane read by lane `l`. -/
def shflFrom (var w l b : Nat) : Option Nat :=
  let j : Int := match var with
    | 0 => ((b % w : Nat) : Int)
    | 1 => (l : Int) - (b : Int)
    | 2 => (l : Int) + (b : Int)
    | _ => ((l ^^^ (b % 64) : Nat) : Int)
  if 0 ≤ j && j < (w : Int) then some j.toNat else none

/-- The form of a result of SHFL or SCAN where every non-idle lane is present: R167 says U, which holds lanes of one value
only (R70), so it is U where they have one (notes/assumptions/90.md). -/
def sameForm (vs : List (Nat × W64)) : Form :=
  match vs with
  | [] => .m
  | v :: rest => if rest.all (·.2 == v.2) then .u v.2 else .m

def shflBody (f : Fields) (i : Iss) (s : State) : Res :=
  match i.c.kind with
  | .strand =>
    let wd := f.ty.is64
    let vs := i.lanes.map fun l =>
      let b := (i.lane 1 l false f.b).toNat % 2 ^ 32
      let src := match shflFrom f.var.toNat i.l.w l b with
        | some j => if i.lanes.contains j then j else l
        | none => l
      (l, i.lane 0 src wd f.a)
    .done (s.modCtx i.c.id fun c => i.putLanes c (destReg f.d) wd vs (sameForm vs))
  | _ => i.needLanes s

/-- VOTE (R169). -/
def voteBody (f : Fields) (i : Iss) (s : State) : Res :=
  match i.c.kind with
  | .strand =>
    let p := predNum f.a
    let on := i.lanes.filter fun l => i.c.lanePred l p
    let all (b : Bool) : Res :=
      .done (s.modCtx i.c.id fun c => i.putLanePreds c (predNum f.d) (i.lanes.map (·, b)) (.u b))
    (match f.var.toNat with
    | 0 => all (on.length == i.lanes.length)
    | 1 => all (!on.isEmpty)
    | 2 =>
      let m := BitVec.ofNat 64 (maskOf on)
      (match destScal f.d with
      | some r => .done (s.modCtx i.c.id fun c => c.writeScal r m)
      | none => .done (s.modCtx i.c.id fun c => i.putLanes c (destReg f.d) true (i.lanes.map (·, m)) (.u m)))
    | _ =>
      let v (l : Nat) : Nat := (i.lane 0 l f.ty.is64 f.a).toNat % 2 ^ f.ty.width
      all (i.lanes.all fun l => i.lanes.head?.any fun k => v k == v l))
  | _ => i.needLanes s

/-- The operation of RDX and SCAN (R62, R170). -/
def redFn (op : Nat) (t : Ty) (mod : Nat) (a b : W64) : W64 :=
  BitVec.ofNat 64 <|
    if t.isFloating then
      match op with
      | 0 => fltItem .add t mod a b 0
      | 1 => fltItem .min t mod a b 0
      | _ => fltItem .max t mod a b 0
    else rmwVal op t a b

/-- The identity of an operation (R62). -/
def redIdentity (op : Nat) (t : Ty) : W64 :=
  BitVec.ofNat 64 <|
    if t.isFloating then
      match op with
      | 0 => 0
      | 1 => t.fmt.infBits false
      | _ => t.fmt.infBits true
    else
      match op with
      | 1 => if t.signed then 2 ^ (t.width - 1) - 1 else 2 ^ t.width - 1
      | 2 => if t.signed then 2 ^ (t.width - 1) else 0
      | 3 => 2 ^ t.width - 1
      | _ => 0

/-- One level of the tree: neighbours combine, the lower lane on the left (R62). -/
def treeLevel (op : W64 → W64 → W64) : List W64 → List W64
  | x :: y :: rest => op x y :: treeLevel op rest
  | xs => xs

/-- The tree over 2^n leaves (R62). -/
def tree (op : W64 → W64 → W64) : Nat → List W64 → W64
  | 0, xs => xs.headD 0
  | n + 1, xs => tree op n (treeLevel op xs)

/-- The tree over a strand's lanes, lanes that are not present or fail `keep` holding the identity. -/
def Iss.redTree (i : Iss) (f : Fields) (op : Nat) (keep : Nat → Bool) : W64 :=
  tree (redFn op f.ty f.mod.toNat) i.l.cmd.wlog
    ((List.range i.l.w).map fun l =>
      if i.lanes.contains l && keep l then i.lane 0 l f.ty.is64 f.a else redIdentity op f.ty)

/-- RDX (R170). -/
def rdxBody (f : Fields) (i : Iss) (s : State) : Res :=
  match i.c.kind with
  | .strand =>
    let v := (i.redTree f f.var.toNat fun _ => true).toNat
    (match destScal f.d with
    | some r => .done (s.modCtx i.c.id fun c => c.writeScal r (scalBits f.ty v))
    | none =>
      .done (s.modCtx i.c.id fun c =>
        i.putLanes c (destReg f.d) f.ty.is64 (i.lanes.map (·, regBits f.ty v)) (.u (regBits f.ty v))))
  | _ => i.needLanes s

/-- SCAN (R63, R170): an exclusive lane takes the lanes below it. -/
def scanBody (f : Fields) (i : Iss) (s : State) : Res :=
  match i.c.kind with
  | .strand =>
    let ex := f.var.toNat / 8 == 1
    let vs := i.lanes.map fun l =>
      (l, regBits f.ty (i.redTree f (f.var.toNat % 8) fun k => if ex then k < l else k ≤ l).toNat)
    .done (s.modCtx i.c.id fun c => i.putLanes c (destReg f.d) f.ty.is64 vs (sameForm vs))
  | _ => i.needLanes s

/-- ELECT (R171): the election of this word in this per-core range, or in the cluster range. -/
def electBody (f : Fields) (i : Iss) (s : State) : Res :=
  let slot := (i.pc.toNat, if f.x == 1 then 1024 else i.c.core)
  let open_ := !i.r.elects.contains slot
  let s := if open_ then s.modRange i.c.range fun r => { r with elects := slot :: r.elects } else s
  let p := predNum f.d
  match i.c.kind with
  | .span lo hi =>
    .done (s.modCtx i.c.id fun c =>
      c.writePForm p (if open_ then PForm.within (.i lo (lo + 1)) lo hi else .u false))
  | _ =>
    let item (l : Nat) : Nat := ((i.c.lanes[l]?).bind (·.item)).getD 0
    let winner := leastBy item i.lanes
    .done (s.modCtx i.c.id fun c => c.writeLanePreds p (i.lanes.map fun l => (l, open_ && winner == some l)))

/-! ## The meanings -/

/-- SHFL R168. -/
def execShfl (f : Fields) (s : State) : Host.Outcome State Fault Refusal := issueF 0x70 f (shflBody f) s

/-- VOTE R169. -/
def execVote (f : Fields) (s : State) : Host.Outcome State Fault Refusal := issueF 0x71 f (voteBody f) s

/-- RDX R170. -/
def execRdx (f : Fields) (s : State) : Host.Outcome State Fault Refusal := issueF 0x72 f (rdxBody f) s

/-- SCAN R170. -/
def execScan (f : Fields) (s : State) : Host.Outcome State Fault Refusal := issueF 0x73 f (scanBody f) s

/-- ELECT R171. -/
def execElect (f : Fields) (s : State) : Host.Outcome State Fault Refusal := issueF 0x74 f (electBody f) s

end Sys2Proof.Machine
end

