-- ==== Sys2Proof/Machine/Atomics.lean ====
section
/-! DEFINITION. The meanings of ATOM, CAS, RED and the lock instructions (11 R261 to R268, 10 R244, R245). -/

namespace Sys2Proof.Machine

/-- Charges the operations on some locations, `both` saying of each whether it wrote. -/
def State.chargeHomes (s : State) (i : Iss) (n : Nat) (xs : List (Loc × Bool)) : State :=
  xs.foldl (fun s p => s.chargeHome i n p.1 p.2) s

/-- One read-modify-write at the home of a location (R261): `g` gives the new value, or none to write nothing. -/
def State.rmwLoc (s : State) (i : Iss) (h : How) (va : W64) (loc : Loc) (g : Nat → Option Nat) : State × Nat :=
  let key := loc.stampKey i.r.id i.c.id
  let core := i.s.coreNumber i.c
  match loc with
  | .g pa st =>
    let clu := i.r.cluster.getD 0
    let lvl := max 2 (h.level false)
    let s := s.prepare clu lvl pa h.n st
    let old := leVal ((List.range h.n).map fun k => s.unlessOpen 0 (.g (pa + k) st) (s.readByte clu lvl (pa + k)))
    let s := match g old with
      | some v => s.writeBytes clu lvl pa (leBytes h.n v)
      | none => s
    let s := match i.l.guardLine va, g old with
      | some k, some _ => s.tagStore i.l.id i.rangeNo k
      | _, _ => s
    let s := s.stamp core h.order key true (g old).isSome
    (if lvl == 4 && (g old).isSome then s.awaitWrites i [pa] else s, old)
  | _ =>
    let (s, bs) := s.readLoc i { h with order := 0 } va loc
    let old := leVal bs
    let s := match g old with
      | some v => s.writeLoc i { h with order := 0 } va (leBytes h.n v) loc
      | none => s
    (s.stamp core h.order key true (g old).isSome, old)

/-- Performs an instruction's operations in increasing index order (R261), with the old values. -/
def State.rmwAll (s : State) (i : Iss) (h : How) (g : Acc → Nat → Option Nat) : List (Acc × Loc) →
    State × List (Acc × Nat)
  | [] => (s, [])
  | (a, loc) :: rest =>
    let (s, old) := s.rmwLoc i h a.va loc (g a)
    let (s, more) := s.rmwAll i h g rest
    (s, (a, old) :: more)

/-- The accesses of ATOM, CAS and RED: a scalar D makes one (R261). -/
def Iss.rmwAccs (i : Iss) (f : Fields) (ret : Bool) (n : Nat) : Option (List Acc) :=
  match i.c.kind with
  | .span _ _ => if ret && !f.d.isS then none else i.accs f n f.d.isS
  | _ => i.accs f n false

/-- The shared course of ATOM, CAS and RED: checks, release, the operations, acquire, the old values, which at fabric scope the
homes on other nodes answer; `wrote` says from the old value whether an operation has written. -/
def rmwBody (f : Fields) (ret : Bool) (want : Want) (wrote : Acc → Nat → Bool)
    (perform : State → How → List (Acc × Loc) → State × List (Acc × Nat)) (i : Iss) (s : State) : Res :=
  let n := f.ty.bytes
  let h : How := ⟨f.order, f.scope, i.h.rd.toNat, n⟩
  let clu := i.r.cluster.getD 0
  match i.rmwAccs f ret n with
  | none => i.needLanes s
  | some xs =>
    match i.decide s n.log2 true 1 (xs.map fun a => (a, s.locate i.c f.space a.va n true want)) with
    | .stop r => r
    | .go ok bad late =>
      match s.readsWait i (fun _ => max 2 f.scope) n ok with
      | some (s, w) => .wait s w
      | none =>
        i.afterRelease (s.tlbFills i ok) h.order h.scope fun s =>
        i.goHome s f.scope (((once f.d.isS ok).flatMap (·.2.pas n)).filter fun pa => ret || s.lost pa) fun s =>
          let todo := byItem (once f.d.isS ok)
          let (s, olds) := perform s h todo
          let s := if isAcq h.order then s.acquire clu h.scope else s
          let s := s.chargeHomes i n (todo.zipWith (fun p o => (p.2, wrote o.1 o.2)) olds)
          let vs := olds.map fun o => (o.1.lane, if f.d.isS then scalBits f.ty o.2 else regBits f.ty o.2)
          let s := if ret then s.results i f.d f.ty.is64 f.d.isS vs else s
          i.finishAcc s n.log2 true 1 ok bad late

/-- The source of an atomic operation for an item. -/
def Iss.laneSrc (i : Iss) (f : Fields) : Option (Acc → W64) := i.source f fun l => i.lane 3 l f.ty.is64 f.d

/-- ATOM (R263). -/
def atomBody (f : Fields) (i : Iss) (s : State) : Res :=
  let ret := f.var.toNat < 8
  match (if ret && !f.d.isS then some (fun a => i.lane 3 a.lane f.ty.is64 f.d) else i.laneSrc f) with
  | none => i.needLanes s
  | some src =>
    let g (a : Acc) (old : Nat) : Option Nat :=
      some (rmwVal (f.var.toNat % 8) f.ty (BitVec.ofNat 64 old) (src a))
    rmwBody f ret wantRmw (fun _ _ => true) (fun s h xs => s.rmwAll i h g xs) i s

/-- The swap operand of CAS (R264). -/
def swapOpnd (f : Fields) : Opnd :=
  match f.d with
  | .v r => .v (r + if f.ty.is64 then 2 else 1)
  | .s r => .s (r + 1)
  | o => o

/-- CAS (R264). -/
def casBody (f : Fields) (i : Iss) (s : State) : Res :=
  let ret := f.var == 0
  let f' := { f with d := swapOpnd f }
  let lane (f : Fields) (a : Acc) : W64 := i.lane 3 a.lane f.ty.is64 f.d
  match (if ret && !f.d.isS then some (lane f) else i.laneSrc f),
    (if ret && !f.d.isS then some (lane f') else i.laneSrc f') with
  | some cmp, some swap =>
    let m := 2 ^ f.ty.width
    let g (a : Acc) (old : Nat) : Option Nat :=
      if old == (cmp a).toNat % m then some ((swap a).toNat % m) else none
    rmwBody f ret wantRmw (fun a old => (g a old).isSome) (fun s h xs => s.rmwAll i h g xs) i s
  | _, _ => i.needLanes s

/-! ## RED -/

/-- A RED may leave a delta at the cluster instead of acting at the home (R244): its line is not held there, and
the hardware chooses to. -/
def State.addDelta (s : State) (d : Delta) : State :=
  let same (e : Delta) : Bool := e.clu == d.clu && e.pa == d.pa && e.op == d.op && e.ty == d.ty
  let s := s.collect fun e => e.clu == d.clu && e.meets (d.pa / 64 * 64) 64 && !same e
  let merge (e : Delta) : Delta :=
    if same e then { e with val := BitVec.ofNat 64 (rmwVal d.op d.ty e.val d.val) } else e
  let deltas := if s.mem.deltas.any same then s.mem.deltas.map merge else s.mem.deltas ++ [d]
  { s with mem := { s.mem with deltas := deltas } }

/-- Each item's RED, combined at the cluster or performed at the home (R244, R265): at fabric scope a line of another
package or of CXL memory combines at its home, as ATOM does. -/
def State.redAll (s : State) (i : Iss) (h : How) (op : Nat) (t : Ty) (src : Acc → W64) : List (Acc × Loc) → State
  | [] => s
  | (a, loc) :: rest =>
    let clu := i.r.cluster.getD 0
    let g (old : Nat) : Option Nat := some (rmwVal op t (BitVec.ofNat 64 old) (src a))
    let (k, s) := s.newFree
    let s := match loc with
      | .g pa _ =>
        if h.order == 1 && !(h.scope == 4 && s.lowCached pa) && (s.l1Held clu fun p _ => p / 64 == pa / 64).isEmpty &&
            Config.freeBool k then
          let s := match i.l.guardLine a.va with
            | some line => s.tagStore i.l.id i.rangeNo line
            | none => s
          s.addDelta ⟨clu, pa, op, t, src a⟩
        else (s.rmwLoc i h a.va loc g).1
      | _ => (s.rmwLoc i h a.va loc g).1
    State.redAll s i h op t src rest

/-! ### RED.ord -/

/-- The leaf that an access contributes to: its item; for the one access of a scalar D some item of the issue, and
for a control program some item of the launch (notes/assumptions/16.md). -/
def Iss.leaf (i : Iss) (f : Fields) (a : Acc) : Nat :=
  let pick (xs : List Nat) : Nat := (xs[Config.freeCycles i.s.fresh % xs.length]?).getD a.item
  match i.c.kind with
  | .control => Config.freeCycles i.s.fresh % i.l.n
  | .span lo hi => if f.d.isS then lo + Config.freeCycles i.s.fresh % (hi - lo) else a.item
  | .strand => if f.d.isS then pick (i.lanes.map fun l => ((i.c.lanes[l]?).bind (·.item)).getD 0) else a.item

/-- Adds a contribution to a leaf (R266). -/
def addLeaf (t : Ty) (n : Nat) (x : W64) : List (Nat × W64) → List (Nat × W64)
  | [] => [(n, x)]
  | (m, y) :: rest =>
    if n == m then (m, BitVec.ofNat 64 (fltItem .add t 0 y x 0)) :: rest
    else (m, y) :: addLeaf t n x rest

/-- One contribution: the launch's locations after it, or the DETAIL of its RANGE trap (R266, R267). -/
def ordOne (s : State) (reds : List RedLoc) (t : Ty) (pa leaf : Nat) (x : W64) : Except Nat (List RedLoc) :=
  match reds.find? (·.pa == pa) with
  | some r =>
    if r.ty == t then .ok (reds.map fun q => if q.pa == pa then { q with leaves := addLeaf t leaf x q.leaves } else q)
    else .error 6
  | none =>
    if reds.length < 64 then
      .ok (reds ++ [⟨pa, t, BitVec.ofNat 64 (s.sliceSeenVal pa t.bytes), [(leaf, x)]⟩])
    else .error 5

/-- All contributions in increasing index order, with the accesses that trap. -/
def ordAll (s : State) (t : Ty) (leaf : Acc → Nat) (src : Acc → W64) : List RedLoc → List (Acc × Loc) →
    List RedLoc × List (Acc × Nat)
  | reds, [] => (reds, [])
  | reds, (a, loc) :: rest =>
    match loc with
    | .g pa _ =>
      (match ordOne s reds t pa (leaf a) (src a) with
      | .ok reds => ordAll s t leaf src reds rest
      | .error d =>
        let (reds, bad) := ordAll s t leaf src reds rest
        (reds, (a, d) :: bad))
    | _ => ordAll s t leaf src reds rest

/-- RED.ord (R266). The lanes that trap contribute nothing and have not passed the word (R267). -/
def ordBody (f : Fields) (src : Acc → W64) (i : Iss) (s : State) : Res :=
  let n := f.ty.bytes
  match i.rmwAccs f false n with
  | none => i.needLanes s
  | some xs =>
    match i.decide s n.log2 true 1 (xs.map fun a => (a, s.locate i.c f.space a.va n true wantWrite)) with
    | .stop r => r
    | .go ok bad late =>
      match s.readsWait i (fun _ => 4) n ok with
      | some (s, w) => .wait s w
      | none =>
        let known (pa : Nat) : Bool := ((s.launch i.l.id).getD i.l).reds.any (·.pa == pa)
        i.goHome (s.tlbFills i ok) 4 (ok.flatMap fun p => if (p.2.pas 1).any known then [] else p.2.pas n) fun s =>
        let todo := byItem (once f.d.isS ok)
        let s := todo.foldl (fun s p => match p.2 with
          | .g pa st => s.prepare (i.r.cluster.getD 0) 4 pa n st
          | _ => s) s
        let reds := ((s.launch i.l.id).getD i.l).reds
        let (reds, beyond) := ordAll s f.ty (i.leaf f) src reds todo
        let took (p : Acc × Loc) : Bool := !(beyond.any fun q => q.1 == p.1)
        let s' := (s.modLaunch i.l.id fun l => { l with reds := reds }).chargeHomes i n (todo.map fun p => (p.2, true))
        let s' := (todo.filter took).foldl (fun s p => match i.l.guardLine p.1.va with
          | some k => s.tagStore i.l.id i.rangeNo k
          | none => s) s'
        let mask := maskOf (beyond.map (·.1.lane))
        match beyond, i.c.kind with
        | [], _ => i.finishAcc s' n.log2 true 1 ok bad late
        | (a, d) :: _, .span lo _ =>
          if a.item == lo then .trap s 6 d 0 0 else i.needCut s [a.item]
        | (_, d) :: _, .control => .trap s 6 d 0 0
        | (a, d) :: more, .strand =>
          let all := if f.d.isS then maskOf i.lanes else mask
          let first := (more.foldl (fun (p : Acc × Nat) q => if q.1.lane < p.1.lane then q else p) (a, d)).2
          if !late.isEmpty then i.finishAcc s' n.log2 true 1 (ok.filter took) bad late
          else if bad.isEmpty then .trap s' 6 first all (maskOf (i.issuing.filter fun l => !bitOf all l))
          else match i.memTrap s' n.log2 true bad with
            | .trap s cls detail mask past => .trap s cls detail mask (past - maskAnd past all)
            | r => r

/-- RED (R265). -/
def redBody (f : Fields) (i : Iss) (s : State) : Res :=
  match i.laneSrc f with
  | none => i.needLanes s
  | some src =>
    if f.var == 8 then ordBody f src i s
    else rmwBody f false wantWrite (fun _ _ => true) (fun s h xs => (s.redAll i h f.var.toNat f.ty src xs, xs.map fun p => (p.1, 0))) i s

/-! ## Locks (R245, R268) -/

/-- The fields of a lock word. -/
structure LockWord where
  pref : Bool
  holds : Bool
  wwait : Nat
  readers : Nat
  deriving DecidableEq, Repr

def LockWord.ofNat (w : Nat) : LockWord := ⟨bitOf w 31, bitOf w 30, w / 2 ^ 16 % 2 ^ 14, w % 2 ^ 16⟩
def LockWord.toNat (w : LockWord) : Nat := w.pref.toNat * 2 ^ 31 + w.holds.toNat * 2 ^ 30 + w.wwait * 2 ^ 16 + w.readers

/-- A granted writer no longer waits, unless the count had held at its maximum. -/
def LockWord.unwait (w : LockWord) : LockWord := if w.wwait == 16383 then w else { w with wwait := w.wwait - 1 }

/-- A read request that may be granted. -/
def LockWord.readOk (w : LockWord) : Bool := !w.holds && (!w.pref || w.wwait == 0) && w.readers < 65535

/-- Grants parked waiters of a word (R245): with the lock free the oldest writer, or every reader; with readers
holding it, the readers that may join. Answers the word, and the waiters granted. -/
def grantParked (w : LockWord) (q : List LockWait) : LockWord × List LockWait :=
  let readers := q.filter (!·.write)
  match q.find? (·.write) with
  | some x =>
    if !w.holds && w.readers == 0 && (w.pref || readers.isEmpty) then ({ w with holds := true }.unwait, [x])
    else if !w.holds && w.readers == 0 then
      let g := readers.take (65535 - w.readers)
      ({ w with readers := w.readers + g.length }, g)
    else if w.readOk then
      let g := readers.take (65535 - w.readers)
      ({ w with readers := w.readers + g.length }, g)
    else (w, [])
  | none =>
    if w.holds then (w, [])
    else
      let g := readers.take (65535 - w.readers)
      ({ w with readers := w.readers + g.length }, g)

/-- Tests the waiters parked on a word. A granted context performs its acquire and goes on. -/
def State.lockTest (s : State) (pa : Nat) (w : LockWord) : State × LockWord :=
  let (w, granted) := grantParked w (s.mem.lockq.filter (·.pa == pa))
  let s := { s with mem := { s.mem with lockq := s.mem.lockq.filter fun x => !(granted.any (·.id == x.id)) } }
  (granted.foldl (fun s x => match x.peer, s.ctx x.ctx with
    | some r, _ => s.keep r [1]
    | none, some c => (s.acquire (s.cluOf c) x.scope).modCtx x.ctx fun c =>
        if c.wait == .lock x.id then { c with wait := .none } else c
    | none, none => s) s, w)

/-- A request is granted at once (R245). -/
def LockWord.free (w : LockWord) (write : Bool) : Bool := if write then !w.holds && w.readers == 0 else w.readOk

/-- The word with one more holder. -/
def LockWord.hold (w : LockWord) (write : Bool) : LockWord :=
  if write then { w with holds := true } else { w with readers := w.readers + 1 }

/-- The word with one more waiter. -/
def LockWord.park (w : LockWord) (write : Bool) : LockWord :=
  if write then { w with wwait := min (w.wwait + 1) 16383 } else w

/-- Nobody holds what a release gives up; else the word with one holder less (R268). -/
def LockWord.drop (w : LockWord) (write : Bool) : Option LockWord :=
  if write then (if w.holds then some { w with holds := false } else none)
  else if w.readers == 0 then none else some { w with readers := w.readers - 1 }

/-- The lock word of an instruction at its home, for the one address of the context: its physical address, the level it is
acted on at, and its contents; a release comes first (R268). -/
def Iss.lockAt (f : Fields) (i : Iss) (s : State) (rel : Bool) (act : Nat → Nat → LockWord → State → Res) : Res :=
  let va := i.uniAddr f 4
  match s.locate i.c 0 va 4 true wantRmw with
  | .error m => i.ctxMiss s 2 true va m
  | .ok (.g pa st) =>
    let clu := i.r.cluster.getD 0
    let lvl := if f.scope == 4 then 4 else 2
    (match s.readWait clu lvl i.l.id ((List.range 4).map (pa + ·)) with
    | some (s, w) => .wait s w
    | none =>
      i.afterRelease (s.tlbFill clu false i.l.vf i.l.proc va) (if rel then 3 else 0) f.scope fun s =>
      i.goHome s lvl ((List.range 4).map (pa + ·)) fun s =>
        let s := (s.prepare clu lvl pa 4 st).chargeHome i 4 (.g pa st) true
        act pa lvl (LockWord.ofNat (leVal ((List.range 4).map fun k => s.unlessOpen 0 (.g (pa + k) st) (s.readByte clu lvl (pa + k))))) s)
  | .ok _ => .done s

/-- Writes a lock word that an operation has changed. -/
def Iss.putLock (i : Iss) (s : State) (lvl pa : Nat) (old new : LockWord) : State :=
  if new == old then s
  else
    let s := s.writeBytes (i.r.cluster.getD 0) lvl pa (leBytes 4 new.toNat)
    if lvl == 4 then s.awaitWrites i [pa] else s

/-- LKRD and LKWR (R268): granted and acquired, or parked at the home until a grant; a waiter that finds room nowhere waits at
issue (R239). -/
def lockReq (write : Bool) (f : Fields) (i : Iss) (s : State) : Res :=
  i.lockAt f s false fun pa lvl w s =>
    let (s, w') := s.lockTest pa w
    if w'.free write then .done ((i.putLock s lvl pa w (w'.hold write)).acquire (i.r.cluster.getD 0) f.scope)
    else match s.waiterRoom i.l.vf pa with
      | none => .wait (i.putLock s lvl pa w w') (.stall (.lockRoom i.l.vf pa))
      | some room =>
        let (id, s) := s.newId
        let x : LockWait :=
          { id := id, pa := pa, write := write, ctx := i.c.id, scope := f.scope, vf := i.l.vf, room := room, peer := none }
        let s := { s with mem := { s.mem with lockq := s.mem.lockq ++ [x] } }
        let s := if room == 2 then s.chargePool i.l.vf i.l.proc i.l.id Config.waitBytes else s
        .done ((i.putLock s lvl pa w (w'.park write)).modCtx i.c.id fun c =>
          { c with wait := .lock id, active := false })

/-- ULRD and ULWR (R268): the release comes first, whatever the status. -/
def lockRel (write : Bool) (f : Fields) (i : Iss) (s : State) : Res :=
  i.lockAt f s true fun pa lvl w s =>
    let (s, w') := s.lockTest pa ((w.drop write).getD w)
    .done ((i.putLock s lvl pa w w').modCtx i.c.id fun c =>
      c.writeScalD f.d (BitVec.ofNat 64 (w.drop write).isNone.toNat))

/-- A lock request of another package on a word homed here: granted, or parked until a grant answers it (R245); one that finds room
nowhere is not performed, and its node is to ask again (R239). -/
def State.peerLock (s : State) (r : RemoteReq) (write : Bool) : State :=
  let w := LockWord.ofNat (s.sliceSeenVal r.pa 4)
  let (s, w') := s.lockTest r.pa w
  if w'.free write then (s.sliceWriteN r.pa (leBytes 4 (w'.hold write).toNat)).keep r [1]
  else match s.waiterRoom r.vf r.pa with
    | none => s.reply r true []
    | some room =>
      let (id, s) := s.newId
      let x : LockWait :=
        { id := id, pa := r.pa, write := write, ctx := 0, scope := 4, vf := r.vf, room := room, peer := some r }
      let s := if room == 2 then s.chargePool r.vf 0 0 Config.waitBytes true else s
      ({ s with mem := { s.mem with lockq := s.mem.lockq ++ [x] } } : State).sliceWriteN r.pa (leBytes 4 (w'.park write).toNat)

/-- Another package releases a lock homed here: its status is the answer (R268). -/
def State.peerUnlock (s : State) (r : RemoteReq) (write : Bool) : State :=
  let w := LockWord.ofNat (s.sliceSeenVal r.pa 4)
  let (s, w') := s.lockTest r.pa ((w.drop write).getD w)
  (s.sliceWriteN r.pa (leBytes 4 w'.toNat)).keep r (leBytes 1 (w.drop write).isNone.toNat)

/-- A lock operation at the home on another package leaves a word behind, and the waiters of this package are tested there. -/
def State.peerGrant (s : State) (pa : Nat) (word : W32) : State :=
  if s.remote pa && s.remote (pa + 4) then
    let (s, w) := s.lockTest pa (LockWord.ofNat word.toNat)
    { s with mem := { s.mem with home := Memory.writeN s.mem.home pa (leBytes 4 w.toNat) } }
  else s

/-! ## The meanings -/

/-- ATOM R263. -/
def execAtom (f : Fields) (s : State) : Host.Outcome State Fault Refusal := issueF 0x90 f (atomBody f) s

/-- CAS R264. -/
def execCas (f : Fields) (s : State) : Host.Outcome State Fault Refusal := issueF 0x91 f (casBody f) s

/-- RED R265 R266. -/
def execRed (f : Fields) (s : State) : Host.Outcome State Fault Refusal := issueF 0x92 f (redBody f) s

/-- LKRD R268. -/
def execLkrd (f : Fields) (s : State) : Host.Outcome State Fault Refusal := issueF 0x93 f (lockReq false f) s

/-- LKWR R268. -/
def execLkwr (f : Fields) (s : State) : Host.Outcome State Fault Refusal := issueF 0x94 f (lockReq true f) s

/-- ULRD R268. -/
def execUlrd (f : Fields) (s : State) : Host.Outcome State Fault Refusal := issueF 0x95 f (lockRel false f) s

/-- ULWR R268. -/
def execUlwr (f : Fields) (s : State) : Host.Outcome State Fault Refusal := issueF 0x96 f (lockRel true f) s

end Sys2Proof.Machine
end

