-- ==== Sys2Proof/Machine/Matrix.lean ====
section
/-! DEFINITION. The matrix engine: operands, tiles, row groups (08 R195 to R203, 03 R55 to R61), the meanings of MMA,
MMAS, MZERO, MLDC, MSTO, MFEN and MPRG (09 R219 to R226), and the engine's steps (R196, R199, R200). -/

namespace Sys2Proof.Machine

/-! ## Descriptors and tiles (R197, R198) -/

/-- A tile format: type, least STRIDE in units of 64 bytes, bytes, trailer offset, energy class (R255), pairing
class. -/
structure TileFmt where
  ty : Ty
  stride : Nat
  bytes : Nat
  trailer : Nat
  cls : Nat
  deriving DecidableEq, Repr

def tileFmt (n : Nat) : Option TileFmt :=
  match n with
  | 0xC => some ⟨.nx4, 37, 2368, 2304, 2⟩
  | 0xA => some ⟨.e4m3, 65, 4160, 4096, 3⟩
  | 0xB => some ⟨.e5m2, 65, 4160, 4096, 3⟩
  | 0x9 => some ⟨.bf16, 129, 8256, 8192, 4⟩
  | 0x8 => some ⟨.f16, 129, 8256, 8192, 4⟩
  | _ => none

/-- A checked operand descriptor. -/
structure Operand where
  base : W64
  xc : Bool
  fmt : TileFmt
  stride : Nat
  kt : Nat
  deriving DecidableEq, Repr

/-- Reads a descriptor; none when a reserved value or bit is set, or STRIDE is too small (R198, R219). -/
def readDesc (base desc : W64) (kt0 : Bool) : Option Operand :=
  let d := desc.toNat
  match tileFmt (d / 2 ^ 4 % 16) with
  | none => none
  | some f =>
    let stride := d / 2 ^ 16 % 2 ^ 24
    let kt := d / 2 ^ 40 % 64
    if 1 < d % 4 || d / 4 % 4 != 0 || d / 2 ^ 8 % 256 != 0 || d / 2 ^ 46 != 0 || stride < f.stride || (kt0 && kt != 0) then
      none
    else some ⟨base, d % 4 == 1, f, stride, kt⟩

/-- The address of tile `t` of an operand. -/
def Operand.tileAt (o : Operand) (t : Nat) : W64 := o.base + BitVec.ofNat 64 (64 * o.stride * t)

/-- The first byte of a tile of a .xc operand that is not in the scratch area of the core that the base names (R198). -/
def State.outside (s : State) (c : Ctx) (o : Operand) (t : Nat) (w : Want) : Option (W64 × Miss) :=
  ((List.range o.fmt.bytes).filterMap fun k =>
    let a := o.tileAt t + BitVec.ofNat 64 k
    match s.locate c 2 a 1 false w with
    | .error m => some (a, m)
    | .ok _ => if a.toNat / 2 ^ 20 == o.base.toNat / 2 ^ 20 then none else some (a, .kind 7)).head?

/-- The checks of an operand at issue (R198): BOUNDS of every tile of a .xc operand, then ALIGN, which a base out of the
canonical space comes before (R373). -/
def State.checkOperand (s : State) (c : Ctx) (o : Operand) (w : Want) : Option (W64 × Nat) :=
  let bounds := if o.xc then ((List.range (o.kt + 1)).filterMap fun t => s.outside c o t w).head? else none
  match bounds with
  | some (a, .kind k) => some (a, k)
  | some (a, _) => some (a, 7)
  | none =>
    if o.base.toNat % 64 == 0 then none else some (o.base, if !o.xc && !canonical o.base then 1 else 6)

/-! ### What a row group reads -/

/-- The bytes of a tile that hold row `r` of the 8-column group `g` (R54, R56, R57, R198). -/
def TileFmt.cell (f : TileFmt) (r g : Nat) : List Nat :=
  match f.ty with
  | .nx4 => (List.range 4).map (32 * r + 4 * g + ·) ++ [2048 + 2 * r + g / 4, 2176 + 2 * r + g / 4]
  | t =>
    let n := t.width
    (List.range n).map (8 * n * r + n * g + ·)

/-- Every byte of a tile before its trailer. -/
def TileFmt.body (f : TileFmt) : List Nat := List.range f.trailer

/-- One byte of an operand, through the engine TLB and the cluster L1 (R199); one of a guarded page is read at its home
(R241). -/
def State.engineByte (s : State) (clu : Nat) (l : Launch) (va : W64) : Except Miss Piece :=
  match s.gByte clu true l.vf l.proc va wantRead with
  | .error m => .error m
  | .ok (pa, leaf) =>
    (if (l.guardLine va).isSome then s.sliceReady pa else s.l1Ready clu pa).map fun pa =>
      { pa := pa, n := 1, stamped := leaf.s, cached := leaf.c, va := va, size := leaf.size }

/-- The engine reads a byte: the state with the line it fills, or has at the home for a guarded page. -/
def State.engineFill (s : State) (clu : Nat) (guarded : Bool) (p : Piece) : State :=
  if guarded then s.prepare clu (s.guardLevel p.pa) p.pa 1 p.stamped
  else if (kget s.mem.l1 (l1Key clu p.pa)).isSome then s
  else (s.prepare clu 1 p.pa 1 p.stamped).l1Fill clu p.pa

/-- Cuts a list into pieces of these lengths. -/
def splitLens {α : Type} : List Nat → List α → List (List α)
  | [], _ => []
  | n :: ns, xs => xs.take n :: splitLens ns (xs.drop n)

/-- The engine reads bytes of the first `k` tiles of an operand, `offs` those of each: one access, all of it checked before a
byte is read (R199, R372, R373). Answers the TLB entries and lines that it fills, and the tiles with 0 for what it does not
read. -/
def State.operandBytes (s : State) (c : Ctx) (l : Launch) (clu : Nat) (o : Operand) (offs : Nat → List Nat) (k : Nat) :
    Except (W64 × Miss) (State × List Byte) :=
  let vas := (List.range k).flatMap fun t => (offs t).map fun j => o.tileAt t + BitVec.ofNat 64 j
  let spread (bs : List Byte) : List Byte :=
    ((List.range k).zip (splitLens ((List.range k).map fun t => (offs t).length) bs)).flatMap fun x =>
      let got := (offs x.1).zip x.2
      (List.range o.fmt.bytes).map fun j => ((got.find? (·.1 == j)).map (·.2)).getD 0
  if o.xc then
    match s.range c.range with
    | some r => .ok (s, spread (vas.map fun a =>
        let core := a.toNat / 2 ^ 20
        let off := a.toNat % 2 ^ 20
        s.unlessOpen r.id (.scratch core off) (Memory.read r.scratch (core * 2 ^ 20 + off))))
    | none => .error (o.base, .kind 7)
  else
    match wholeAccess (vas.map fun a => (a, s.engineByte clu l a)) with
    | .error e => .error e
    | .ok ps =>
      let s := (vas.map fun a => a.toNat / 2 ^ 16).eraseDups.foldl (fun s p =>
        s.tlbFill clu true l.vf l.proc (BitVec.ofNat 64 (p * 2 ^ 16))) s
      let cells := ps.zip (vas.map fun a => (l.guardLine a).isSome)
      let s := cells.foldl (fun s x => s.engineFill clu x.2 x.1) s
      .ok (s, spread (cells.map fun x => s.unlessOpen 0 (.g x.1.pa false)
        (if x.2 then s.sliceRead x.1.pa else s.l1Read clu x.1.pa)))

/-- Element (r, k) of an operand's bytes, k along K (R54, R56, R57, R198). -/
def Operand.elem (o : Operand) (bs : List Byte) (r k : Nat) : Exact :=
  let at_ (off : Nat) : Nat := ((bs[k / 64 * o.fmt.bytes + off]?).getD 0).toNat
  let c := k % 64
  match o.fmt.ty with
  | .nx4 =>
    decNx4 (at_ (32 * r + c / 2) / (if c % 2 == 0 then 1 else 16) % 16) (at_ (2048 + 2 * r + c / 32))
      (at_ (2176 + 2 * r + c / 32))
  | t =>
    if t.width == 8 then t.fmt.dec (at_ (64 * r + c)) else t.fmt.dec (at_ (128 * r + 2 * c) + 256 * at_ (128 * r + 2 * c + 1))

/-- The zero-block bit of the 8 × 8 block that holds row r and columns 8g to 8g + 7 (R58, R201). -/
def Operand.marked (o : Operand) (bs : List Byte) (rg g : Nat) : Bool :=
  let at_ (off : Nat) : Nat := ((bs[g / 8 * o.fmt.bytes + off]?).getD 0).toNat
  bitOf (at_ (o.fmt.trailer + rg)) (g % 8)

/-! ## Arithmetic (R61) -/

/-- S of one group: the exact sum of eight products. -/
def groupSum (a b : Nat → Exact) (g : Nat) : Exact :=
  (List.range 7).foldl (fun x j => Exact.add .rne x ((a (8 * g + j + 1)).mul (b (8 * g + j + 1))))
    ((a (8 * g)).mul (b (8 * g)))

/-- C := round_rne(C + S, A80). -/
def accumulate (c : A80) (x : Exact) : A80 :=
  BitVec.ofNat 80 (fmtA80.round false .rne (Exact.add .rne (fmtA80.dec c.toNat) x))

/-- One element over all of K. -/
def updateElem (c : A80) (a b : Nat → Exact) (skip : Nat → Bool) : Nat → A80
  | 0 => c
  | g + 1 => accumulate (updateElem c a b skip g) (if skip g then .fin false 0 0 else groupSum a b g)

/-- Accumulator elements that are not +0 are listed, keyed by tile × 4096 + 64 × row + column. -/
def Range.elem (r : Range) (t i : Nat) : A80 := (kget r.tiles (t * 4096 + i)).getD 0

def setElem (tiles : List (Nat × A80)) (t i : Nat) (v : A80) : List (Nat × A80) :=
  if v == 0 then kdel tiles (t * 4096 + i) else kset tiles (t * 4096 + i) v

/-! ## Conversion to a memory tile (R55, R58, R202) -/

/-- One element of an 8-bit or 16-bit format, and whether it saturated (R60). -/
def encElem (t : Ty) (x : Exact) : Nat × Bool :=
  let f := t.fmt
  (f.round true .rne x, match x with
    | .nan => false
    | .inf _ => !f.hasInf
    | .fin neg m e => m != 0 && (f.roundFin .rne neg m e).ovf)

/-- The 64-bit zero-block bitmap from the zero flag of each element. -/
def zeroMap (zero : List Bool) : Nat :=
  maskOf ((List.range 64).filter fun b => (List.range 64).all fun q =>
    (zero[64 * (8 * (b / 8) + q / 8) + 8 * (b % 8) + q % 8]?).getD false)

/-- A whole tile in memory: element bytes, then the trailer. -/
def encodeTile (f : TileFmt) (xs : List Exact) : List Byte :=
  let trailer (zero : List Bool) (sat : Nat) : List Byte :=
    leBytes 8 (zeroMap zero) ++ leBytes 4 (min sat (2 ^ 32 - 1)) ++ List.replicate 52 0
  match f.ty with
  | .nx4 =>
    let blocks := (List.range 128).map fun b => encNx4 ((xs.drop (32 * b)).take 32)
    let codes := blocks.flatMap fun b => b.2.1
    let zero := blocks.flatMap fun b => b.2.1.map fun c => b.1 != 0xFF && c % 8 == 0
    let elems := (List.range 2048).map fun k =>
      BitVec.ofNat 8 ((codes[2 * k]?).getD 0 + 16 * (codes[2 * k + 1]?).getD 0)
    elems ++ blocks.map (fun b => BitVec.ofNat 8 b.1) ++ List.replicate 128 0 ++
      trailer zero ((blocks.map fun b => b.2.2).sum)
  | t =>
    let es := xs.map (encElem t)
    (es.flatMap fun e => leBytes (t.width / 8) e.1) ++
      trailer (es.map fun e => e.1 % 2 ^ (t.width - 1) == 0) (es.countP (·.2))

/-! ## Issue (R219) -/

/-- The tile an operand names; ac names count from the ring of the REP body (R154). -/
def Iss.tileOf (i : Iss) (o : Opnd) : Nat :=
  match o with
  | .a r => r.toNat
  | .ac r => (match i.c.rep with
    | some x => (x.base + x.pass + r.toNat) % x.ring
    | none => 0)
  | _ => 0

/-- The pair of scalars that an operand names: base and descriptor. -/
def Iss.pair (i : Iss) (slot : Nat) (o : Opnd) : W64 × W64 :=
  match o with
  | .s r => (i.scal slot r.toNat, i.scal slot (r.toNat + 1))
  | _ => (0, 0)

/-- The arrival object of an arrival byte, resolved at issue (R210, R211); a reference 0 names none. -/
def Iss.arrivalByte (i : Iss) (s : State) (x : BitVec 8) : Except (W64 × Miss) (Option Loc) :=
  if x.toNat < 128 then .ok none
  else
    let ref := i.scal 4 (x.toNat % 64)
    if ref == 0 then .ok none
    else (s.arrivalLoc i.c ref wantRmw).map some

/-- The translation of that object, which stands until its event (R252). -/
def Iss.arrivalPieces (i : Iss) (s : State) (x : BitVec 8) (loc : Option Loc) : List Piece :=
  s.objPieces (i.r.cluster.getD 0) i.l (i.scal 4 (x.toNat % 64)) loc

/-- The operands of an entry, checked at its issue. -/
def MqEntry.opA (e : MqEntry) : Option Operand := readDesc e.aBase e.aDesc false
def MqEntry.opB (e : MqEntry) : Option Operand := readDesc e.bBase e.bDesc false

/-- Where an MSTO stores, as far as it can be translated now. -/
def State.mstoAt (s : State) (r : Range) (l : Launch) (e : MqEntry) : List (Loc × Nat) :=
  match e.op == 0xB4, e.opA with
  | true, some a =>
    if a.xc then [(.scratch (a.base.toNat / 2 ^ 20) (a.base.toNat % 2 ^ 20), a.fmt.bytes)]
    else (pageParts (a.fmt.bytes / 2 ^ 16 + 2) a.base a.fmt.bytes).filterMap fun p =>
      match s.gByte (r.cluster.getD 0) true l.vf l.proc p.1 wantWrite with
      | .ok q => some (.g q.1 q.2.s, p.2)
      | .error _ => none
  | _, _ => []

/-- Queues a matrix instruction after its checks: `A` and `B` with whether KT must be 0, and whether memory is
written. None raises REPRO (R229). -/
def matrixBody (op : Nat) (f : Fields) (a b : Option (W64 × W64)) (wr : Bool) (i : Iss) (s : State) : Res :=
  let r := (s.range i.r.id).getD i.r
  if 16 ≤ r.mq.length then .wait s (.stall (.engine 16))
  else
    let kt0 := op == 0xB3 || op == 0xB4
    let da := a.map fun p => readDesc p.1 p.2 kt0
    let db := b.map fun p => readDesc p.1 p.2 kt0
    let pairOk := match da, db with
      | some (some x), some (some y) => x.kt == y.kt && x.fmt.cls == y.fmt.cls
      | _, _ => true
    if da == some none || db == some none || !pairOk then i.illegal s 0x10
    else
      let os := ([da, db].filterMap id).filterMap id
      let want := if wr then wantWrite else wantRead
      match (os.filterMap fun o => s.checkOperand i.c o want).head? with
      | some (a, k) => i.ctxFault s 7 k wr a
      | none =>
        match i.arrivalByte s f.x with
        | .error (va, m) => i.ctxMiss s 7 true va m
        | .ok arr =>
          let (id, s) := s.startOp i .matrix
          let e : MqEntry :=
            { op := op, tile := i.tileOf f.d, aBase := (a.getD (0, 0)).1, aDesc := (a.getD (0, 0)).2
              bBase := (b.getD (0, 0)).1, bDesc := (b.getD (0, 0)).2, scope := f.scope, arrive := arr, opId := id
              tok := if i.h.se then some i.h.setk.toNat else none, pc := i.pc
              started := false, done := false, acks := none, dst := [], spoiled := false, parked := none
              obj := i.arrivalPieces s f.x arr }
          let s := s.modRange i.r.id fun r => { r with mq := r.mq ++ [{ e with dst := s.mstoAt i.r i.l e }] }
          .done (s.holdOn i id)

/-- MFEN (R225): every earlier access of the control program has been performed at cluster scope. -/
def mfenBody (i : Iss) (s : State) : Res :=
  let open_ := s.unfenced i.c.id
  if open_ then .wait s (.stall .fence) else .done s

/-- MPRG (R226). -/
def mprgBody (f : Fields) (i : Iss) (s : State) : Res :=
  let r := (s.range i.r.id).getD i.r
  if i.l.cmd.repro && !r.mq.isEmpty then .wait s (.stall (.engine 1))
  else
    let t := i.tileOf f.a
    let v := (r.prog[t]?).getD 0 + (r.mq.any (·.tile == t)).toNat * 2 ^ 8 + r.mq.length * 2 ^ 16
    .done (s.modCtx i.c.id fun c => c.writeScalD f.d (BitVec.ofNat 64 v))

/-! ## The engine's steps -/

/-- The range on a cluster whose engine may work: its launch has not ended. -/
def State.engineAt (s : State) (clu : Nat) : Option (Range × Launch) :=
  (s.ranges.filterMap fun r =>
    if r.cluster == some clu then
      match s.launch r.launchId with
      | some l => if l.status.isNone then some (r, l) else none
      | none => none
    else none).head?

/-- The engine waits for its self-test (R258): nothing begins on it. What has begun comes to its boundary there (R284, R287,
notes/assumptions/115.md). -/
def State.engineTested (s : State) (clu : Nat) : Bool := s.svc.errors.contains (.engine clu)

/-- MATRIX_ENGINE_EXECUTE R196: the head of the queue begins. -/
def execMatrixEngineExecute (clu : Nat) (s : State) : Host.Outcome State Fault Refusal :=
  match s.engineAt clu with
  | none => .next s
  | some (r, l) =>
    match r.mq with
    | [] => .next s
    | e :: rest => if !s.working l || s.engineTested clu then .next s else .next (s.modRange r.id fun r => { r with mq := { e with started := true } :: rest })

/-- The head entry leaves the queue: its object, its token (R196). What it read, or wrote to memory, stays the engine's
until the control program has waited on it (R208). -/
def State.finishMatrix (s : State) (r : Range) (e : MqEntry) (clu bytes : Nat) : State :=
  let fresh := e.op == 0xB2 || e.op == 0xB3
  let s := s.modRange r.id fun r =>
    { r with
      mq := r.mq.drop 1
      late := (r.late.filter fun x => !(fresh && x.tile == e.tile && x.op != 0xB4)) ++
        if e.tok.isNone || e.op == 0xB2 then [] else [e] }
  let ctl := ((s.op e.opId).map fun o => o.ctxs.headD 0).getD 0
  let s := s.arriveDone r.id ctl clu (if e.op == 0xB4 then e.scope else 1) e.arrive bytes
  s.completeOp e.opId []

/-- The engine abandons an instruction (R199): token and object, then a trap of the control program at the matrix
instruction, which ends the launch (R194). The frame has the PC of that instruction (notes/assumptions/105.md). -/
def State.abandonBy (s : State) (r : Range) (e : MqEntry) (clu kind : Nat) : State :=
  let ctl := ((s.op e.opId).map fun o => o.ctxs.headD 0).getD 0
  (s.takeTrap ctl 2 kind 0 e.pc (e.pc + 12)).finishMatrix r e clu 0

/-- Sets the head entry of a range's queue. -/
def State.setHead (s : State) (range : Nat) (e : MqEntry) : State :=
  s.modRange range fun r => match r.mq with
    | _ :: rest => { r with mq := e :: rest }
    | [] => r

/-- What the engine meets when it reads or writes (R199): a fault; a page, on which the instruction is parked (R253); or
something else that it waits for. -/
def State.abandon (s : State) (r : Range) (l : Launch) (e : MqEntry) (clu : Nat) (wr : Bool) (va : W64) (m : Miss) :
    State :=
  match m with
  | .kind k =>
    let ctl := ((s.op e.opId).map fun o => o.ctxs.headD 0).getD 0
    (s.modCtx ctl fun c => c.putRecord ⟨0, 0, k, 7, wr, va⟩).abandonBy r e clu k
  | .park | .copy =>
    ((s.parkOn l va wr.toNat m).1).setHead r.id { e with parked := some (BitVec.ofNat 64 (va.toNat / 2 ^ 16 * 2 ^ 16)) }
  | m => (s.parkOn l va wr.toNat m).1

def State.raiseCheck (s : State) (launch pa : Nat) : State := s.raiseRead launch pa

/-- The row group PROG[t], written whole (R200), over the unmarked blocks for MMAS (R201). Operands written by anyone since
the issue leave the elements undefined (R208 item 2). -/
def State.rowGroup (s : State) (r : Range) (e : MqEntry) (a b : Operand) (skip : Nat → Bool) (as bs : List Byte) : State :=
  let rg := (r.prog[e.tile]?).getD 0
  let groups := 8 * (a.kt + 1)
  let cell (k : Nat) : Nat × A80 :=
    let row := 8 * rg + k / 64
    let i := 64 * row + k % 64
    (i, if e.spoiled then Config.freeElem (s.fresh * 4096 + i)
      else updateElem (r.elem e.tile i) (a.elem as row) (b.elem bs (k % 64)) skip groups)
  let tiles := ((List.range 512).map cell).foldl (fun t x => setElem t e.tile x.1 x.2) r.tiles
  let s := { s with fresh := s.fresh + 1 }
  s.modRange r.id fun r =>
    let mq := match r.mq with
      | x :: rest => { x with done := rg == 7 } :: rest
      | [] => []
    { r with tiles := tiles, prog := r.prog.set e.tile ((rg + 1) % 8), mq := mq }

/-- What one row group reads: the zero-block marks of A where MMAS reads them, then the blocks that are not skipped: A's
eight rows, and B's. -/
def State.readGroup (s : State) (c : Ctx) (l : Launch) (clu : Nat) (e : MqEntry) (a b : Operand) (rg : Nat) :
    Except (W64 × Miss) (State × (Nat → Bool) × List Byte × List Byte) :=
  let marks := if e.op == 0xB1 then s.operandBytes c l clu a (fun _ => (List.range 8).map (a.fmt.trailer + ·)) (a.kt + 1)
    else .ok (s, [])
  match marks with
  | .error x => .error x
  | .ok (s, ms) =>
    let skip (g : Nat) : Bool := e.op == 0xB1 && a.marked ms rg g
    let want (t : Nat) : List Nat := (List.range 8).filter fun g => !skip (8 * t + g)
    match s.operandBytes c l clu a (fun t => ((List.range 8).flatMap fun r => (want t).flatMap (a.fmt.cell (8 * rg + r)))
      |>.eraseDups) (a.kt + 1) with
    | .error x => .error x
    | .ok (s, as) =>
      match s.operandBytes c l clu b (fun t => ((List.range 64).flatMap fun r => (want t).flatMap (b.fmt.cell r))
        |>.eraseDups) (b.kt + 1) with
      | .error x => .error x
      | .ok (s, bs) => .ok (s, skip, as, bs)

/-- MATRIX_ROW_GROUP R200: the running MMA or MMAS writes its next row group, or is abandoned (R199). -/
def execMatrixRowGroup (clu : Nat) (s : State) : Host.Outcome State Fault Refusal :=
  match s.engineAt clu with
  | none => .next s
  | some (r, l) =>
    match r.mq with
    | [] => .next s
    | e :: _ =>
      match e.opA, e.opB, (s.op e.opId).bind fun o => (s.ctx (o.ctxs.headD 0)).map (o, ·) with
      | some a, some b, some (o, c) =>
        if !e.started || e.done || !s.working l || s.engineTested clu || e.parked.isSome || (e.op != 0xB0 && e.op != 0xB1) then
          .next s
        else
          let rg := (r.prog[e.tile]?).getD 0
          match s.readGroup c l clu e a b rg with
          | .error (va, m) => .next (s.abandon r l e clu false va m)
          | .ok (t, skip, as, bs) =>
            let n := ((List.range (8 * (a.kt + 1))).filter fun g => !skip g).length
            .next ((t.rowGroup r e a b skip as bs).chargeOp o r.id (clusterTile clu) a.fmt.cls
              (2 * n))
      | _, _, _ => .next s

/-- Sets every element of a tile, and PROG to 0. -/
def State.setTile (s : State) (range t : Nat) (v : Nat → A80) : State :=
  s.modRange range fun r =>
    { r with
      tiles := ((List.range 4096).map fun i => (i, v i)).foldl (fun ts x => setElem ts t x.1 x.2) r.tiles
      prog := r.prog.set t 0 }

/-- The L2 bytes that an MSTO's release writes back, at the tile of each line's home slice; one at cluster scope writes none
back (R255, R366). -/
def State.chargeBack (s : State) (o : Op) (range scope : Nat) (ps : List Piece) (n : Nat) : State :=
  if scope < 2 then s
  else
    let pas := (List.range n).map fun k => (pieceAt ps k).1
    (pas.map (· / 64)).eraseDups.foldl (fun s line =>
      s.chargeOp o range (s.homeTile (64 * line)) 6 (2 * (pas.filter (· / 64 == line)).length)) s

/-- MLDC (R222): the tile is read, less its trailer. -/
def State.runMldc (s : State) (r : Range) (l : Launch) (e : MqEntry) (_ : Op) (c : Ctx) (clu : Nat) (a : Operand) :
    Host.Outcome State Fault Refusal :=
  match s.operandBytes c l clu a (fun _ => a.fmt.body) 1 with
    | .error (va, m) => .next (s.abandon r l e clu false va m)
    | .ok (t, bs) =>
      let v (i : Nat) : A80 :=
        if e.spoiled then Config.freeElem (s.fresh * 4096 + i)
        else BitVec.ofNat 80 (fmtA80.round false .rne (a.elem bs (i / 64) (i % 64)))
      .next ((({ t with fresh := t.fresh + 1 } : State).setTile r.id e.tile v).finishMatrix r e clu 0)

/-- The end of an MSTO whose bytes are written: its release, at fabric scope with every acknowledgement (R345), then its
object and token. -/
def State.endMsto (s : State) (r : Range) (e : MqEntry) (clu ctl n : Nat) : State :=
  let s := s.releaseFor clu ctl e.scope (((s.op e.opId).map (·.meters)).getD 0)
  if e.scope == 4 && !(s.unacked ctl).isEmpty then
    s.modRange r.id fun r => match r.mq with
      | x :: rest => { r with mq := { x with acks := some (s.unacked ctl) } :: rest }
      | [] => r
  else s.finishMatrix r e clu n

/-- MSTO (R202, R223): the element bytes, then the trailer, as stores of the cluster, guarded lines among them (R241). -/
def State.runMsto (s : State) (r : Range) (l : Launch) (e : MqEntry) (o : Op) (c : Ctx) (clu : Nat) (a : Operand) :
    Host.Outcome State Fault Refusal :=
  let n := a.fmt.bytes
  let data := if e.spoiled then (List.range n).map fun k => Config.freeByte (s.fresh * 2 ^ 60 + k)
    else encodeTile a.fmt ((List.range 4096).map fun i => fmtA80.dec (r.elem e.tile i).toNat)
  let ctl := o.ctxs.headD 0
  match e.acks with
  | some ids => .next (if s.acksOpen ids then s else s.finishMatrix r e clu n)
  | none =>
    if a.xc then
      match s.locate c 2 a.base n false wantWrite with
      | .ok (.scratch core off) =>
        let s := (s.noteScratch r.id core off n).modRange r.id fun r =>
          { r with scratch := Memory.writeN r.scratch (core * 2 ^ 20 + off) data }
        .next ((s.chargeOp o r.id (clusterTile clu) 5 (2 * n)).endMsto r e clu ctl n)
      | .error m => .next (s.abandon r l e clu true a.base m)
      | .ok _ => .next s
    else
      match s.translateRange clu true l wantWrite a.base n with
      | .error (va, m) => .next (s.abandon r l e clu true va m)
      | .ok ps =>
        let s := (pageParts (n / 2 ^ 16 + 2) a.base n).foldl (fun s p => s.tlbFill clu true l.vf l.proc p.1) s
        let s := ((List.range n).zip data).foldl (fun s x =>
          ((s.prepare clu 1 (pieceAt ps x.1).1 1 (pieceAt ps x.1).2).l1Write clu (pieceAt ps x.1).1 x.2).note 0
            (.g (pieceAt ps x.1).1 false)) s
        let s := (s.tagRange l (r.lo / l.c) a.base n).setHead r.id { e with dst := s.mstoAt r l e }
        let s := s.chargeOp o r.id (clusterTile clu) 5 (2 * n)
        .next ((s.chargeBack o r.id e.scope ps n).endMsto r e clu ctl n)

/-! ## Writes to what the engine still uses (R208 item 2) -/

/-- The values of a byte: at its home, and those in the L1s that have not reached it yet. -/
def State.seen (s : State) (range : Nat) (loc : Loc) : List Byte :=
  match loc with
  | .g pa _ => s.sliceRead pa :: (s.mem.l1.filter fun e => e.1 % 2 ^ 56 == pa && e.2.dirty).map (·.2.val)
  | .scratch core off => ((s.range range).map fun r => Memory.read r.scratch (core * 2 ^ 20 + off)).toList
  | _ => []

/-- The bytes of an entry's operands that can be translated, less what it does not read of their trailers: MMAS reads the
bitmaps of A (R198). -/
def State.entryLocs (s : State) (r : Range) (l : Launch) (e : MqEntry) : List Loc :=
  ([(e.opA, e.op == 0xB1), (e.opB, false)].filterMap fun x => x.1.map (·, x.2)).flatMap fun (o, marks) =>
    (List.range (o.kt + 1)).flatMap fun t =>
    (if e.op == 0xB4 then List.range o.fmt.bytes else List.range (o.fmt.trailer + if marks then 8 else 0)).filterMap fun k =>
      let va := o.tileAt t + BitVec.ofNat 64 k
      if o.xc then some (.scratch (va.toNat / 2 ^ 20) (va.toNat % 2 ^ 20))
      else match s.gByte (r.cluster.getD 0) true l.vf l.proc va ⟨false, false, false, false⟩ with
        | .ok p => some (.g p.1 p.2.s)
        | .error _ => none

/-- A noted write is one to a byte that an entry of a range names. -/
def hits (range : Nat) (w : Nat × Loc) (loc : Loc) : Bool :=
  match w.2, loc with
  | .g p _, .g q _ => p == q
  | .scratch c o, .scratch c' o' => w.1 == range && c == c' && o == o'
  | _, _ => false

/-- Between two states someone has written a byte of the entry's operands: a write was noted, or the byte has got a value
that it did not have. -/
def State.written (s t : State) (r : Range) (l : Launch) (e : MqEntry) : Bool :=
  (s.entryLocs r l e).any fun loc =>
    t.wrote.any (hits r.id · loc) || (t.seen r.id loc).any fun b => !(s.seen r.id loc).contains b

/-- The element values of an instruction's result become free: the tile's rows that it has written, or what an MSTO has
stored. -/
def State.spoil (s : State) (r : Range) (e : MqEntry) (rows : Nat) : State :=
  let s := { s with fresh := s.fresh + 1 }
  if e.op == 0xB4 then
    e.dst.foldl (fun (s : State) d => (List.range d.2).foldl (fun (s : State) k =>
      let b := Config.freeByte (s.fresh * 2 ^ 60 + k)
      match d.1 with
      | .g pa _ => (s.dropByte (r.cluster.getD 0) (pa + k)).sliceWrite (pa + k) b
      | .scratch core off => s.modRange r.id fun r =>
          { r with scratch := Memory.write r.scratch (core * 2 ^ 20 + off + k) b }
      | _ => s) { s with fresh := s.fresh + 1 }) s
  else
    s.modRange r.id fun r => { r with
      tiles := (List.range (64 * rows)).foldl (fun ts i => setElem ts e.tile i (Config.freeElem (s.fresh * 4096 + i))) r.tiles }

/-- What a step has written to operands of matrix instructions that are queued, running or not yet waited on makes their
results undefined (R208 item 2). `s` is the state before the step. -/
def State.noteWrites (t s : State) : State :=
  let t := s.ranges.foldl (fun (t : State) r =>
    match s.launch r.launchId, t.range r.id with
    | some l, some r' =>
      let hit (e : MqEntry) : Bool := !e.spoiled && s.written t r l e
      let done := r.late.filter fun e => r'.late.contains e && hit e
      let open_ := r.mq.filter fun e => r'.mq.any (fun x => x.opId == e.opId && x.acks == e.acks) && hit e
      let mark (es : List MqEntry) (x : MqEntry) : MqEntry :=
        { x with spoiled := x.spoiled || es.any (·.opId == x.opId) }
      let t := done.foldl (fun (t : State) e => t.spoil r e 64) t
      let t := open_.foldl (fun (t : State) e => if e.op == 0xB4 && e.acks.isNone then t
        else t.spoil r e (if e.done then 64 else if e.started then 8 * (r.prog[e.tile]?).getD 0 else 0)) t
      if done.isEmpty && open_.isEmpty then t
      else t.modRange r.id fun x => { x with mq := x.mq.map (mark open_), late := x.late.map (mark done) }
    | _, _ => t) t
  { t with wrote := [] }

/-- MATRIX_INSTRUCTION_COMPLETE R196: the running instruction completes; MZERO, MLDC and MSTO act whole
(R221 to R224). -/
def execMatrixInstructionComplete (clu : Nat) (s : State) : Host.Outcome State Fault Refusal :=
  match s.engineAt clu with
  | none => .next s
  | some (r, l) =>
    match r.mq with
    | [] => .next s
    | e :: _ =>
      match (s.op e.opId).bind fun o => (s.ctx (o.ctxs.headD 0)).map (o, ·) with
      | none => .next s
      | some (o, c) =>
        if !e.started || e.parked.isSome then .next s
        else if e.op == 0xB0 || e.op == 0xB1 then
          (if e.done then .next (s.finishMatrix r e clu 0) else .next s)
        else if e.op == 0xB2 then .next ((s.setTile r.id e.tile fun _ => 0).finishMatrix r e clu 0)
        else
          match e.opA with
          | none => .next s
          | some a => if e.op == 0xB3 then s.runMldc r l e o c clu a else s.runMsto r l e o c clu a

/-! ## The meanings -/

/-- MMA R220. -/
def execMma (f : Fields) (s : State) : Host.Outcome State Fault Refusal :=
  issueF 0xB0 f (fun i s => matrixBody 0xB0 f (some (i.pair 0 f.a)) (some (i.pair 1 f.b)) false i s) s

/-- MMAS R220. -/
def execMmas (f : Fields) (s : State) : Host.Outcome State Fault Refusal :=
  issueF 0xB1 f (fun i s => matrixBody 0xB1 f (some (i.pair 0 f.a)) (some (i.pair 1 f.b)) false i s) s

/-- MZERO R221. -/
def execMzero (f : Fields) (s : State) : Host.Outcome State Fault Refusal :=
  issueF 0xB2 f (fun i s => matrixBody 0xB2 f none none false i s) s

/-- MLDC R222. -/
def execMldc (f : Fields) (s : State) : Host.Outcome State Fault Refusal :=
  issueF 0xB3 f (fun i s => matrixBody 0xB3 f (some (i.pair 0 f.a)) none false i s) s

/-- MSTO R223. -/
def execMsto (f : Fields) (s : State) : Host.Outcome State Fault Refusal :=
  issueF 0xB4 f (fun i s => matrixBody 0xB4 f (some (i.pair 0 f.a)) none true i s) s

/-- MFEN R225. -/
def execMfen (f : Fields) (s : State) : Host.Outcome State Fault Refusal := issueF 0xB5 f mfenBody s

/-- MPRG R226. -/
def execMprg (f : Fields) (s : State) : Host.Outcome State Fault Refusal := issueF 0xB6 f (mprgBody f) s

end Sys2Proof.Machine
end

