-- ==== Sys2Proof/Machine/Copy.lean ====
section
/-! DEFINITION. Copy engines, chains and multicast (10 R246 to R249, 08 R185): the meanings of CPY, CHAIN, CHQ
(11 R269 to R271) and MCST (09 R218), and the engines' steps. -/

namespace Sys2Proof.Machine

/-! ## Moving bytes -/

/-- The byte of a transfer's source at an offset (R218, R246): at its home, or in scratch. -/
def State.srcByte (s : State) (x : Xfer) (k : Nat) : Byte :=
  match x.srcLoc with
  | none => s.sliceSeen (pieceAt x.src k).1
  | some (.scratch core off) => s.unlessOpen x.range (.scratch core (off + k))
      (((s.range x.range).map fun r => Memory.read r.scratch (core * 2 ^ 20 + off + k)).getD 0)
  | some (.control off) => ((s.range x.range).map fun r => Memory.read r.cscratch (off + k)).getD 0
  | some (.priv off) =>
    (((s.op x.opId).bind fun o => s.ctx (o.ctxs.headD 0)).map fun c => Memory.read c.priv (off + k)).getD 0
  | some _ => 0

/-- Writes the destination byte at an offset: at its home, or in every target's scratch. -/
def State.dstByte (s : State) (x : Xfer) (k : Nat) (b : Byte) : State :=
  if x.mcst then
    ((List.range 8).filter (bitOf x.targets)).foldl (fun s core => s.note x.range (.scratch core (x.dstOff + k))) s
    |>.modRange x.range fun r => { r with
      scratch := ((List.range 8).filter (bitOf x.targets)).foldl
        (fun m core => Memory.write m (core * 2 ^ 20 + x.dstOff + k) b) r.scratch }
  else
    let (pa, st) := pieceAt x.dst k
    let s := if st then s.markStamped pa else s
    ((s.markCached pa (pieceCached x.dst k)).sliceWrite pa b).note 0 (.g pa false)

/-- Moves the bytes at offsets [o, e): each 16-byte granule is read once before it is written (R246). They move in one step,
the source as its homes hold it then (R247, notes/assumptions/93.md). -/
def State.granules (s : State) (x : Xfer) : Nat → Nat → Nat → State
  | 0, _, _ => s
  | fuel + 1, o, e =>
    if e ≤ o then s
    else
      let n := min (e - o) (16 - (x.low + o) % 16)
      let bs := (List.range n).map fun k => s.srcByte x (o + k)
      let s := ((List.range n).zip bs).foldl (fun s p => s.dstByte x (o + p.1) p.2) s
      State.granules s x fuel (o + n) e

/-- The physical source and destination bytes of a transfer at offsets [o, e). -/
def Xfer.pas (x : Xfer) (o e : Nat) : List Nat × List Nat :=
  (if x.srcLoc.isSome then [] else (List.range (e - o)).map fun k => (pieceAt x.src (o + k)).1,
   if x.mcst then [] else (List.range (e - o)).map fun k => (pieceAt x.dst (o + k)).1)

/-- Collects the deltas on the bytes a transfer reads and writes (R244). -/
def State.collectFor (s : State) (x : Xfer) (o e : Nat) : State :=
  let (a, b) := x.pas o e
  s.collect fun d => (a ++ b).any fun p => d.meets p 1

def State.setXfer (s : State) (x : Xfer) : State :=
  { s with xfers := s.xfers.map fun y => if y.id == x.id then x else y }

/-- The context and cluster of a transfer whose range is placed and whose launch has not ended. -/
def State.xferAt (s : State) (id : Nat) : Option (Xfer × Range × Launch × Nat) :=
  match s.xfer id with
  | none => none
  | some x =>
    match s.range x.range with
    | none => none
    | some r =>
      match r.cluster, s.launch r.launchId with
      | some clu, some l => if l.status.isNone then some (x, r, l, clu) else none
      | _, _ => none

/-! ## Issue -/

/-- Starts a transfer. -/
def State.startXfer (s : State) (x : Xfer) : State := { s with xfers := s.xfers ++ [x] }

/-- CPY (R269). The transfer is one access of its source and its destination, and the arrival object is another, checked
after it (R372, notes/assumptions/92.md). A guarded destination is tagged here (R241). -/
def cpyBody (f : Fields) (i : Iss) (s : State) : Res :=
  let n := (i.uni 1 f.b).toNat
  let src := i.uni 0 f.a
  let dst := i.uni 3 f.d
  let clu := i.r.cluster.getD 0
  if 2 ^ 30 < n then .trap s 6 4 (maskOf i.lanes) 0
  else match bothRanges (s.translateRange clu false i.l wantRead src n) (s.translateRange clu false i.l wantWrite dst n) with
    | .error (va, m, wr) => i.ctxMiss s 7 wr va m
    | .ok (ps, qs) =>
      match i.arrivalByte s f.x with
      | .error (va, m) => i.ctxMiss s 7 true va m
      | .ok arr =>
        let s := s.tagRange i.l i.rangeNo dst n
        let (id, s) := s.startOp i .xfer
        let (x, s) := s.newId
        let t : Xfer :=
          { id := x, opId := id, range := i.r.id, chan := none, recPa := 0, next := 0, src := ps, srcLoc := none
            low := src.toNat % 16, dst := qs, mcst := false, targets := 0, dstOff := 0, len := n, done := 0
            scope := f.scope, arrive := arr, status := 0, acks := none, obj := i.arrivalPieces s f.x arr }
        .done ((s.startXfer t).holdOn i id)

/-- The source of MCST in a space: translated pieces, or a scratch location (R218). -/
def Iss.mcstSource (i : Iss) (s : State) (space : Nat) (va : W64) (n : Nat) :
    Except (W64 × Miss) (List Piece × Option Loc) :=
  if n == 0 then .ok ([], none)
  else if space == 0 then
    (s.translateRange (i.r.cluster.getD 0) false i.l wantRead va n).map fun ps => (ps, none)
  else match s.locate i.c space va n false wantRead with
    | .ok loc => .ok ([], some loc)
    | .error m => .error ((s.firstBad i.c space va n wantRead).getD (va, m))

/-- The destinations of MCST lie in the scratch areas, or the offset of the first byte that does not (R218, R372). -/
def Iss.mcstDest (i : Iss) (off n : Nat) : Except (W64 × Miss) Unit :=
  if i.l.s < off + n then .error (BitVec.ofNat 64 (max off i.l.s), .kind 7) else .ok ()

/-- MCST (R218): one access of its source and its destinations (R372). With no target or no byte it completes at once; its
source is then not checked (notes/assumptions/94.md). It raises no REPRO (R229). -/
def mcstBody (f : Fields) (i : Iss) (s : State) : Res :=
  let (d, ref) := i.pair 3 f.d
  let off := d.toNat % 2 ^ 32
  let va := i.uni 0 f.a
  let n := (i.uni 1 f.b).toNat % 2 ^ 32
  let targets := (List.range 8).filter (bitOf f.x.toNat)
  if 1048576 < n || targets.any (i.r.m ≤ ·) then .trap s 6 1 (maskOf i.lanes) 0
  else match (if targets.isEmpty || n == 0 then .ok (([], none), ())
      else bothRanges (i.mcstSource s f.space va n) (i.mcstDest off n)) with
    | .error (a, m, wr) => i.ctxMiss s 7 wr a m
    | .ok ((ps, loc), _) =>
      match (if ref == 0 then .ok none else (s.arrivalLoc i.c ref wantRmw).map some) with
      | .error (a, m) => i.ctxMiss s 7 true a m
      | .ok arr =>
        if targets.isEmpty || n == 0 then
          i.afterRelease s 3 f.scope fun s => .done (s.arriveDone i.r.id i.c.id (i.r.cluster.getD 0) f.scope arr 0)
        else
          let (id, s) := s.startOp i .xfer
          let (x, s) := s.newId
          let t : Xfer :=
            { id := x, opId := id, range := i.r.id, chan := none, recPa := 0, next := 0, src := ps, srcLoc := loc
              low := 0, dst := [], mcst := true, targets := f.x.toNat, dstOff := off, len := n, done := 0
              scope := f.scope, arrive := arr, status := 0, acks := none
              obj := s.objPieces (i.r.cluster.getD 0) i.l ref arr }
          .done ((s.startXfer t).holdOn i id)

/-- The channel an immediate names. -/
def chanNum (o : Opnd) : Nat :=
  match o with
  | .imm x => x.toNat % 4
  | _ => 0

def State.setChan (s : State) (range ch : Nat) (x : CopyChan) : State :=
  s.modRange range fun r => { r with chans := r.chans.set ch x }

/-- CHAIN (R270). -/
def chainBody (f : Fields) (i : Iss) (s : State) : Res :=
  let h := i.uni 0 f.a
  let ch := chanNum f.b
  let cc := (((s.range i.r.id).getD i.r).chans[ch]?).getD ⟨.idle, 0, 0⟩
  let status (s : State) (v : Nat) : Res := .done (s.modCtx i.c.id fun c => c.writeScalD f.d (BitVec.ofNat 64 v))
  let start (at_ : W64) : Res :=
    let (id, s) := s.startOp i .xfer
    let s := s.setChan i.r.id ch ⟨.walking, at_, id⟩
    if i.h.se then .done (s.addLandings i id true (i.c.landDsts f.d true [(0, 0)]))
    else status (s.holdOn i id) 0
  if h.toNat % 64 != 0 then status s 3
  else match cc.state with
    | .walking => status s 1
    | .parked => start (if h == 0 then cc.recAt else h)
    | _ => if h == 0 then status s 2 else start h

/-- CHQ (R271): a reproducible launch waits until the channel is not WALKING. -/
def chqBody (f : Fields) (i : Iss) (s : State) : Res :=
  let cc := (((s.range i.r.id).getD i.r).chans[chanNum f.b]?).getD ⟨.idle, 0, 0⟩
  if i.l.cmd.repro && cc.state == .walking then .wait s (.stall (.chain (chanNum f.b)))
  else
    let n := match cc.state with
      | .idle => 0
      | .walking => 1
      | .parked => 2
      | .error => 3
    let at_ := if cc.state == .idle then 0 else cc.recAt.toNat % 2 ^ 56 / 64 * 64
    .done (s.modCtx i.c.id fun c => c.writeScalD f.d (BitVec.ofNat 64 (at_ + n)))

/-! ## The engines' steps -/

/-- The copy engines of a die that work and wait for no test (R258): a channel runs on any of them. -/
def State.engines (s : State) (die : Nat) : List Nat :=
  (List.range 4).filter fun e => !s.svc.failedBlocks.contains (.copy die e) && !s.svc.errors.contains (.copy die e)

/-- Charges of a segment: a copy byte each, and the levels it reads and writes, which depend on the caches
(R255). -/
def State.chargeSegment (s : State) (x : Xfer) (clu n : Nat) : State :=
  match s.op x.opId with
  | none => s
  | some o =>
    let (k, s) := s.newFree
    let es := s.engines (clu / 16)
    let tile := clu / 16 * 64 + 24 + (es[Config.freeCycles k % max 1 es.length]?).getD 0
    let s := s.chargeOp o x.range tile 9 (2 * n)
    let (a, b) := x.pas x.done (x.done + n)
    ((a.take 1) ++ (b.take 1)).foldl (fun s pa => s.chargeDown (fun s tile cls k => s.chargeOp o x.range tile cls k) pa) s

/-- COPY_SEGMENT R249: the next 64 KiB of destination. Poison ends a record's transfer (R249, R259). -/
def execCopySegment (xfer : Nat) (s : State) : Host.Outcome State Fault Refusal :=
  match s.xferAt xfer with
  | none => .next s
  | some (x, _, l, clu) =>
    if x.mcst || x.len ≤ x.done || !s.working l || (s.engines (clu / 16)).isEmpty then .next s
    else
      let e := min x.len (x.done + 65536)
      match (x.pas x.done e).1.find? s.poisoned, x.chan with
      | some pa, some _ => .next ((s.meet pa).setXfer { x with done := x.len, status := 5 })
      | some pa, none => .next (s.raiseCheck l.id pa)
      | none, _ =>
        if (x.pas x.done e).2.any s.underTest then .next s
        else match s.readWait clu 2 l.id (x.pas x.done e).1 with
        | some (s, _) => .next s
        | none =>
        let s := (s.collectFor x x.done e).granules x (e - x.done) x.done e
        .next ((s.setXfer { x with done := e }).chargeSegment x clu (e - x.done))

/-- STATUS, and OWN cleared, in one 8-byte write at the home (R249). -/
def State.writeStatus (s : State) (recPa status : Nat) : State :=
  let ctrl := (s.sliceRead (recPa + 0x28)).toNat
  s.sliceWriteN (recPa + 0x28) [BitVec.ofNat 8 (ctrl / 2 * 2), BitVec.ofNat 8 status]

/-- The walk of a channel stops in a state, and its CHAIN completes (R270). -/
def State.stopWalk (s : State) (range ch : Nat) (st : ChanState) (at_ : W64) : State :=
  match ((s.range range).bind fun r => r.chans[ch]?) with
  | none => s
  | some cc => (s.setChan range ch ⟨st, at_, 0⟩).completeOp cc.opId []

/-- A record ends with a status: its STATUS and OWN, its arrival, and where the channel goes (R249). -/
def State.endRecord (s : State) (range ch clu ctx : Nat) (cc : CopyChan) (recPa scope status : Nat) (next : W64)
    (arr : Option Loc) : State :=
  let s := s.writeStatus recPa status
  if status != 1 then (s.arriveDone range ctx clu scope arr 0).stopWalk range ch .error cc.recAt
  else if next.toNat % 64 != 0 then
    (s.sliceWriteN (recPa + 0x29) [4]).stopWalk range ch .error cc.recAt
  else s.setChan range ch { cc with recAt := next }

/-- The completion release of a transfer: at fabric scope the lines it wrote here are invalidated at their readers too, and
it is performed when everything is acknowledged (R331, R345). Answers whether it is. -/
def State.xferRelease (s : State) (x : Xfer) (clu ctx : Nat) : State × Bool :=
  match x.acks with
  | some ids => (s, !s.acksOpen ids)
  | none =>
    let meters := ((s.op x.opId).map (·.meters)).getD 0
    let s := s.releaseFor clu ctx x.scope meters
    if x.scope != 4 then (s, true)
    else
      let s := s.awaitAcksOf ctx (s.launchIdOf ctx) meters ((x.pas 0 x.len).2.filter fun p => !s.lowCached p)
      let ids := s.unacked ctx
      (s.setXfer { x with acks := some ids }, ids.isEmpty)

/-- TRANSFER_COMPLETE R246: the release at the completion scope, then the one completion. -/
def execTransferComplete (xfer : Nat) (s : State) : Host.Outcome State Fault Refusal :=
  match s.xferAt xfer with
  | none => .next s
  | some (x, r, _, clu) =>
    if x.mcst || x.done < x.len then .next s
    else
      let ctx := ((s.op x.opId).map fun o => o.ctxs.headD 0).getD 0
      let away (s : State) : State := { s with xfers := s.xfers.filter (·.id != xfer) }
      let (s, ready) := if x.status == 5 then (s, true) else s.xferRelease x clu ctx
      if !ready then .next s
      else let s := away s
      match x.chan with
      | none =>
        .next ((s.arriveDone r.id ctx clu x.scope x.arrive x.len).completeOp x.opId [])
      | some ch =>
        match r.chans[ch]? with
        | none => .next s
        | some cc =>
          if x.status == 5 then .next (s.endRecord r.id ch clu ctx cc x.recPa x.scope 5 x.next x.arrive)
          else
            let s := s.arriveDone r.id ctx clu x.scope x.arrive x.len
            .next (s.endRecord r.id ch clu ctx cc x.recPa x.scope 1 x.next none)

/-- Charges of a multicast: the scratch bytes it writes, and those it reads, or what reading its source at the homes causes
(R255, R366). -/
def State.chargeMulticast (s : State) (x : Xfer) (o : Op) (range clu targets : Nat) : State :=
  let s := s.chargeOp o range (clusterTile clu) 5 (2 * x.len * (targets + x.srcLoc.isSome.toNat))
  ((x.pas 0 x.len).1.take 1).foldl (fun s pa => s.chargeDown (fun s tile cls k => s.chargeOp o range tile cls k) pa) s

/-- MULTICAST_COMPLETE R185: every destination is written, and the multicast completes once. -/
def execMulticastComplete (xfer : Nat) (s : State) : Host.Outcome State Fault Refusal :=
  match s.xferAt xfer with
  | none => .next s
  | some (x, r, l, clu) =>
    if !x.mcst then .next s
    else match (x.pas 0 x.len).1.find? s.poisoned with
      | some pa => .next (s.raiseCheck l.id pa)
      | none =>
        match s.op x.opId with
        | none => .next s
        | some o =>
          let n := ((List.range 8).filter (bitOf x.targets)).length
          let ctx := o.ctxs.headD 0
          match (if x.acks.isSome then none else s.readWait clu 2 l.id (x.pas 0 x.len).1) with
          | some (s, _) => .next s
          | none =>
          let s := if x.acks.isSome then s else
            ((s.collectFor x 0 x.len).granules x x.len 0 x.len).chargeMulticast x o r.id clu n
          let (s, ready) := s.xferRelease x clu ctx
          if !ready then .next s
          else
          let s := { s with xfers := s.xfers.filter (·.id != xfer) }
          .next ((s.arriveDone r.id ctx clu x.scope x.arrive (x.len * n)).completeOp x.opId [])

/-- A 64-bit field of a record. -/
def fieldAt (bs : List Byte) (off n : Nat) : Nat := leVal ((bs.drop off).take n)

/-- CHAIN_RECORD R249: a walking channel with no transfer in progress reads its next record. A record whose own address faults
gets no status; the channel is then in ERROR, which is the model's choice (notes/assumptions/119.md). -/
def execChainRecord (range chan : Nat) (s : State) : Host.Outcome State Fault Refusal :=
  match s.range range with
  | none => .next s
  | some r =>
    match r.cluster, s.launch r.launchId, r.chans[chan]? with
    | some clu, some l, some cc =>
      if l.status.isSome || !s.working l || cc.state != .walking || s.xfers.any (fun x => x.range == range && x.chan == some chan) then
        .next s
      else if cc.recAt == 0 then .next (s.stopWalk range chan .idle 0)
      else
        match s.translateRange clu false l wantRmw cc.recAt 64 with
        | .error (_, .kind _) => .next (s.stopWalk range chan .error cc.recAt)
        | .error (va, m) => .next (s.parkOn l va 0 m).1
        | .ok ps =>
          let pa := (pieceAt ps 0).1
          let s := s.collect fun d => d.meets pa 64
          let bs := (List.range 64).map fun k => s.sliceSeen (pa + k)
          let ctl := fieldAt bs 0x28 1
          let len := fieldAt bs 0x10 8
          let src := BitVec.ofNat 64 (fieldAt bs 0 8)
          let dst := BitVec.ofNat 64 (fieldAt bs 8 8)
          let ref := BitVec.ofNat 64 (fieldAt bs 0x18 8)
          let next := BitVec.ofNat 64 (fieldAt bs 0x20 8)
          let scope := ctl / 2 % 8
          let ctx := ((s.op cc.opId).map fun o => o.ctxs.headD 0).getD 0
          let arr := if ref == 0 then none else
            match (s.ctx ctx).map fun c => s.arrivalLoc c ref wantRmw with
            | some (.ok loc) => some loc
            | _ => none
          let bad (s : State) (st : Nat) : Host.Outcome State Fault Refusal :=
            .next (s.endRecord range chan clu ctx cc pa 2 st next arr)
          if ((List.range 64).any fun k => s.poisoned (pa + k)) then bad (s.meet pa) 5
          else if let some (s, _) := s.readWait clu 2 l.id ((List.range 64).map (pa + ·)) then .next s
          else if ctl % 2 == 0 then .next (s.stopWalk range chan .parked cc.recAt)
          else if 2 ^ 30 < len || ctl / 16 != 0 || 4 < scope || (bs.drop 0x2A).any (· != 0) then bad s 3
          else
            match s.translateRange clu false l wantRead src len, s.translateRange clu false l wantWrite dst len with
            | .error (_, .kind _), _ => bad s 2
            | _, .error (_, .kind _) => bad s 2
            | .error (va, m), _ => .next (s.parkOn l va 0 m).1
            | _, .error (va, m) => .next (s.parkOn l va 1 m).1
            | .ok a, .ok b =>
              let (id, s) := s.newId
              .next ((s.tagRange l (r.lo / l.c) dst len).startXfer
                { id := id, opId := cc.opId, range := range, chan := some chan, recPa := pa, next := next, src := a
                  srcLoc := none, low := src.toNat % 16, dst := b, mcst := false, targets := 0, dstOff := 0, len := len
                  done := 0, scope := scope, arrive := arr, status := 0, acks := none, obj := s.objPieces clu l ref arr })
    | _, _, _ => .next s

/-! ## The meanings -/

/-- CPY R269. -/
def execCpy (f : Fields) (s : State) : Host.Outcome State Fault Refusal := issueF 0xA0 f (cpyBody f) s

/-- CHAIN R270. -/
def execChain (f : Fields) (s : State) : Host.Outcome State Fault Refusal := issueF 0xA1 f (chainBody f) s

/-- CHQ R271. -/
def execChq (f : Fields) (s : State) : Host.Outcome State Fault Refusal := issueF 0xA2 f (chqBody f) s

/-- MCST R218. -/
def execMcst (f : Fields) (s : State) : Host.Outcome State Fault Refusal := issueF 0xA3 f (mcstBody f) s

end Sys2Proof.Machine
end

