-- ==== Sys2Proof/Machine/Energy.lean ====
section
/-! DEFINITION. Metering and accounts: the meanings of ENRG and EMARK (11 R275, R276), postings, accounting windows and
calibration (10 R254 to R257, 12 R281 to R283). -/

namespace Sys2Proof.Machine

/-! ## Meters -/

/-- The tiles of R275. -/
def isTile (n : Nat) : Bool := (n < 512 && n % 64 ≤ 36) || (512 ≤ n && n ≤ 544)

def allTiles : List Nat := (List.range 545).filter isTile

/-- Issues an instruction that writes one uniform scalar result. -/
def Iss.put (i : Iss) (s : State) (d : Opnd) (v : W64) : Res :=
  .done (s.modCtx i.c.id fun c => c.writeScalD d v)

/-- The sub-meter that an immediate names. -/
def meterNum (o : Opnd) : Nat :=
  match o with
  | .imm x => x.toNat % 4
  | _ => 0

/-- ENRG (R275). ENRG.sub waits for the operations issued while the meter ran (R276). -/
def enrgBody (f : Fields) (i : Iss) (s : State) : Res :=
  let l := (s.launch i.l.id).getD i.l
  let a := s.acct l.vf
  match f.var.toNat with
  | 0 => i.put s f.d (BitVec.ofNat 64 l.energy)
  | 1 => i.put s f.d (BitVec.ofInt 64 a.bal)
  | 2 =>
    let n := (i.uni 1 f.b).toNat
    i.put s f.d (if isTile n && bitOf a.vfflags 0 then BitVec.ofNat 64 (s.tile n).last else BitVec.allOnes 64)
  | _ =>
    let m := meterNum f.b
    if s.metered i.c.id m then .wait s (.stall (.meter m))
    else i.put s f.d (BitVec.ofNat 64 (((i.c.subs[m]?).map (·.count)).getD 0 / 65536))

/-- EMARK (R276). Operations issued before a start count for nothing in its interval; one that the pieces of a cut share
counts for the first of them, which kept the count. -/
def emarkBody (f : Fields) (i : Iss) (s : State) : Res :=
  let m := meterNum f.b
  if f.var == 0 then
    let s := { s with ops := s.ops.map fun (o : Op) =>
      if o.ctxs.head? == some i.c.id then { o with meters := maskDel o.meters m } else o }
    .done (s.modCtx i.c.id fun c => { c with subs := c.subs.set m ⟨0, true⟩ })
  else
    .done (s.modCtx i.c.id fun c =>
      { c with subs := c.subs.set m ⟨((c.subs[m]?).map (·.count)).getD 0, false⟩ })

/-! ## Accounts (R282, R283) -/

/-- A 64-bit counter of EU (R2), which wraps (notes/assumptions/102.md). -/
def wrap64 (x : Int) : Int := (BitVec.ofInt 64 x).toInt


/-- STATE follows the balance: a posting that leaves it at 0 or below stops the VF (R283). -/
def Account.spend (a : Account) : Account :=
  { a with
    deepest := min a.deepest a.bal
    state := if a.state == 0 && a.bal ≤ 0 then 1 else a.state }

/-- A refill or a host write that lifts the balance above RESUME lets the VF run again (R283). -/
def Account.revive (a : Account) : Account :=
  { a with state := if a.state != 0 && a.resume < a.bal then 0 else a.state }

/-- An amount in EU subtracted from BAL as it is posted (R282). -/
def Account.post (a : Account) (eu : Int) : Account :=
  { a with bal := wrap64 (a.bal - eu), posted := wrap64 (a.posted + eu), resident := true }.spend

/-- A charge made for another package, subtracted from the remote allowance (R255, R286). -/
def Account.postRemote (a : Account) (eu : Int) : Account :=
  { a with rbal := wrap64 (a.rbal - eu), resident := true }

/-- The whole EU of one charge go to its VF and its launch; the fraction carries over (R255). -/
def State.postOne (s : State) (c : Charge) : State :=
  let eu := c.amount / 65536
  if eu == 0 then s
  else
    let a := s.acct c.vf
    let s := s.setAcct c.vf (if c.remote then a.postRemote eu else a.post eu)
    if c.remote then s else s.modLaunch c.launchId fun l => { l with energy := (l.energy + eu) % 2 ^ 64 }

/-- CHARGE_POST R255: a tile posts its tags' charges in whole EU. -/
def execChargePost (tile : Nat) (s : State) : Host.Outcome State Fault Refusal :=
  let mine := s.energy.charges.filter (·.tile == tile)
  let eu := (mine.map (·.amount / 65536)).sum
  let s := mine.foldl State.postOne s
  let t := s.tile tile
  .next { s with energy := { s.energy with
    tiles := if mine.isEmpty then s.energy.tiles else kset s.energy.tiles tile { t with posted := (t.posted + eu) % 2 ^ 64 }
    charges := (s.energy.charges.map fun (c : Charge) =>
      if c.tile == tile then { c with amount := c.amount % 65536 } else c).filter (·.amount != 0) } }

/-! ## The end of an accounting window (R256, R257) -/

/-- A quotient rounded to the nearest integer, a tie to the even one. -/
def divEven (a : Int) (b : Nat) : Int :=
  let q := a / (b : Int)
  let r := a - q * b
  if 2 * r < b then q
  else if (b : Int) < 2 * r then q + 1
  else q + q % 2

/-- The factor of the next window, in 2^-16: f + (target - f) / 8 within [0.5, 2.0] (R256). `raw` is T in 2^-16
EU. -/
def nextFactor (f raw : Nat) (e idle : Int) : Nat :=
  if raw == 0 then f
  else
    let x := divEven (7 * f * raw + (e - idle) * 2 ^ 32) (8 * raw)
    (min (max x 32768) 131072).toNat

/-- The measurement of a tile; a tile that the input does not list measured nothing. -/
def measOf (ms : List TileMeas) (t : Nat) : TileMeas := (ms.find? (·.tile == t)).getD ⟨t, 0, 0⟩

/-- The VF has contexts, ranges, parked messages or charges now (R257). -/
def State.hasWork (s : State) (vf : Nat) : Bool :=
  (s.launches.any fun l => l.vf == vf && s.ranges.any (·.launchId == l.id)) ||
  s.sends.msgs.any fun m => m.vf == vf && (m.parked || m.held.isSome)

/-- SLICE × CLUMAX / PERIOD as a numerator over the product of the PERIODs (R235). -/
def shareOf (all : List Account) (a : Account) : Nat :=
  if a.period == 0 then 0
  else a.slice * a.clumax * (((all.filter (·.period != 0)).map (·.period)).foldl (· * ·) 1 / a.period)

/-- The window's end for one account: its part of the shared cost, posted if the VF was resident, then its refills
(R257, R282, R283). -/
def Account.window (a : Account) (part : Int) (live resident : Bool) : Account :=
  let c := if live then a.post part else a
  let b := { c with shared := wrap64 part, spent := c.posted, posted := 0, resident := resident }
  let fill (x add cap : Int) : Int := if cap < x then x else min (x + add) cap
  { b with bal := fill b.bal b.refill b.cap, rbal := wrap64 (min (b.rbal + b.rrefill) b.rcap) }.revive

/-- ACCOUNTING_WINDOW_END R256, R257, R282. -/
def State.windowEnd (s : State) (meas : List TileMeas) (overhead : Int) : State :=
  let residual (t : Nat) : Int := (measOf meas t).energy - (s.tile t).posted
  let total : Int := (allTiles.map residual).sum + overhead
  let tiles := allTiles.map fun t =>
    let x := s.tile t
    let m := measOf meas t
    (t, { x with f := nextFactor x.f x.raw m.energy m.idle, raw := 0, posted := 0, last := m.energy })
  let live (vf : Nat) (a : Account) : Bool := a.resident || s.hasWork vf
  let vfs := (List.range 64).map fun vf => (vf, s.acct vf)
  let shared := (vfs.filter fun p => live p.1 p.2).map (·.2)
  let sum := (shared.map (shareOf shared)).sum
  let part (vf : Nat) (a : Account) : Int :=
    if live vf a && sum != 0 then total * shareOf shared a / (sum : Int) else 0
  let device := total - ((vfs.map fun p => part p.1 p.2).sum)
  let s' := { s with energy := { s.energy with
    tiles := tiles, device := wrap64 (s.energy.device + device), window := s.energy.window + 1 } }
  vfs.foldl (fun (s' : State) p =>
    if p.2 == Account.reset && !live p.1 p.2 then s'
    else s'.setAcct p.1 (p.2.window (part p.1 p.2) (live p.1 p.2) (s.hasWork p.1))) s'

/-- CALIBRATION_LOAD R255, R294: a tile's coefficients, one for each event class, in 2^-16 EU. -/
def execCalibrationLoad (tile : Nat) (coefs : List Nat) (s : State) : Host.Outcome State Fault Refusal :=
  if isTile tile && coefs.length == 11 then
    .next { s with energy := { s.energy with tiles := kset s.energy.tiles tile { s.tile tile with coefs := coefs } } }
  else .next s

/-! ## The meanings -/

/-- ENRG R275. -/
def execEnrg (f : Fields) (s : State) : Host.Outcome State Fault Refusal := issueF 0xE0 f (enrgBody f) s

/-- EMARK R276. -/
def execEmark (f : Fields) (s : State) : Host.Outcome State Fault Refusal := issueF 0xE1 f (emarkBody f) s

end Sys2Proof.Machine
end

