-- ==== Sys2Proof/Machine/Records.lean ====
section
/-! DEFINITION. Stamped lines at their homes (13 R312 to R317): records in key order, folds, the value at a time, and the
home's decision on a record. -/

namespace Sys2Proof.Machine

/-- The order key (R312). -/
def Rec.key (r : Rec) : Nat := r.stamp * 2 ^ 40 + r.node * 2 ^ 16 + r.g

/-- Inserts a record in key order. -/
def recIns (r : Rec) : List Rec → List Rec
  | [] => [r]
  | x :: xs => if r.key < x.key then r :: x :: xs else x :: recIns r xs

/-- Applies a record to the 64 bytes of a line. -/
def Rec.apply (base : List Byte) (r : Rec) : List Byte :=
  (List.range 64).map fun k =>
    if r.off ≤ k && k < r.off + r.size then BitVec.ofNat 8 (r.data.toNat / 2 ^ (8 * (k - r.off)))
    else (base[k]?).getD 0

/-- Every record of a line in key order. -/
def SLine.records (l : SLine) : List Rec := l.moved.foldl (fun xs r => recIns r xs) l.slots

/-- Folds a record into BASE (R313). -/
def SLine.fold (l : SLine) (r : Rec) : SLine :=
  { l with
    base := r.apply l.base, basest := some r.stamp, slots := l.slots.filter (· != r), moved := l.moved.filter (· != r) }

/-- A record is expired (R312). -/
def Meridian.expired (m : Meridian) (r : Rec) : Bool := r.stamp + m.mret < m.dielo

/-- The value of a line at a time, and its status: 0 OK, 5 TOO_OLD, 6 INITIAL (R314, R316). -/
def SLine.valueAt (l : SLine) (t : Nat) : List Byte × Nat :=
  if !l.has then (l.records.foldl Rec.apply l.base, 6)
  else if l.basest.any fun b => t < b then (l.base, 5)
  else ((l.records.filter fun r => r.stamp ≤ t).foldl Rec.apply l.base, 0)

/-- The version overflow area of a die is full (R238, R313). -/
def State.overflowFull (s : State) (die : Nat) : Bool :=
  Config.overflowRecords ≤
    ((s.mem.slines.filter fun p => s.homeDieOf (64 * p.1) == die).map fun p => p.2.moved.length).sum

/-- Makes room and inserts a record (R313); answers how many records were folded before they expired. -/
def State.insertRec (s : State) (full : Bool) (r : Rec) : Nat → SLine → SLine × Nat
  | 0, l => (l, 0)
  | fuel + 1, l =>
    if l.slots.length < 4 then ({ l with slots := recIns r l.slots, has := true }, 0)
    else
      match l.records, l.slots with
      | x :: _, y :: ys =>
        -- a fold out of the area frees its place there
        let full' := full && !l.moved.contains x
        if s.mer.expired x then s.insertRec full' r fuel (l.fold x)
        else if full then
          let (l, n) := s.insertRec full' r fuel (l.fold x)
          (l, n + 1)
        else ({ l with slots := recIns r ys, moved := recIns y l.moved, has := true }, 0)
      | _, _ => (l, 0)

/-- Sets a line, and the home bytes to its current contents (R314), which the slice's copy of a line of a CXL device has too
(R315). -/
def State.putLine (s : State) (line : Nat) (l : SLine) : State :=
  let bytes := l.records.foldl Rec.apply l.base
  let now (e : Nat × CByte) : Nat × CByte := if e.1 / 64 == line then (e.1, ⟨(bytes[e.1 % 64]?).getD 0, false⟩) else e
  { s with mem := { s.mem with
    slines := kset s.mem.slines line l
    home := Memory.writeN s.mem.home (64 * line) bytes
    l2 := s.mem.l2.map now
    cp := s.mem.cp.filter fun e => e.1 / 64 != line } }

/-- Bytes of the line must first be read from their device before its history can be kept (R280, R312). -/
def State.lineMiss (s : State) (line : Nat) : Bool := (linePas line).any s.lowMiss

/-- The home's decision on a record that arrives: its status (R317). -/
def State.takeRecord (s : State) (r : StsRec) : State × Nat :=
  if s.mer.state == 3 then (s, 4)
  else if r.stamp + s.mer.mwin < s.mer.dielo then (s, 1)
  else
    let line := r.pa / 64
    let s := (s.markStamped r.pa).collect fun d => d.meets (64 * line) 64
    match kget s.mem.slines line with
    | none => (s, 0)
    | some l =>
      let x : Rec := ⟨r.stamp, r.node, r.g, r.pa % 64, r.size, r.data⟩
      let (l, n) := s.insertRec (s.overflowFull (s.homeDieOf r.pa)) x (l.slots.length + l.moved.length + 2) l
      let s := { s with mer := { s.mer with breach := s.mer.breach + n } }
      (s.putLine line l, 0)

end Sys2Proof.Machine
end

