-- ==== Sys2Proof/Machine/Groups.lean ====
section
/-! DEFINITION. Groups and their barriers (08 R188 to R191): the meanings of BARG and GRPQ (09 R227, R228), and the
arrival and release messages. -/

namespace Sys2Proof.Machine

/-! ## Who has arrived -/

/-- The item's contexts and unplaced ranges still hold it: it has not exited and was not killed. -/
def State.itemLive (s : State) (l : Launch) (i : Nat) : Bool :=
  l.todo.any (fun p => p.1 ≤ i && i < p.2) ||
  s.ctxs.any fun c => c.holds i && (match s.range c.range with
    | some r => r.launchId == l.id
    | none => false)

/-- The live members of a group below the launch's own count (R190). -/
def State.liveMembers (s : State) (l : Launch) (k : Nat) : List Nat :=
  (List.range l.n).filter fun i => l.member k i && s.itemLive l i

/-- The number of the working core that holds an item, when its range is placed (R180). -/
def State.placeOf (s : State) (l : Launch) (i : Nat) : Option Nat :=
  (s.ctxs.filterMap fun c =>
    match s.range c.range with
    | some r => if r.launchId == l.id && c.holds i then r.cluster.map fun _ => s.coreNumber c else none
    | none => none).head?

def Launch.gen (l : Launch) (k : Nat) : Gen := (l.gens.find? (·.k == k)).getD ⟨k, [], [], []⟩

def Launch.setGen (l : Launch) (g : Gen) : Launch :=
  { l with gens := g :: l.gens.filter (·.k != g.k) }

/-- The generations the job has released on a group (R191). -/
def State.released (s : State) (job k : Nat) : Nat :=
  ((s.disp.jobGens.find? fun g => g.job == job && g.group == k).map (·.released)).getD 0

def Gen.count (g : Gen) (i : Nat) : Nat := (kget g.counts i).getD 0

/-- Items as disjoint intervals, from a rising list. -/
def intervalsOf : List Nat → List (Nat × Nat)
  | [] => []
  | i :: rest =>
    match intervalsOf rest with
    | (a, b) :: more => if a == i + 1 then (i, b) :: more else (i, i + 1) :: (a, b) :: more
    | [] => [(i, i + 1)]

def inIntervals (xs : List (Nat × Nat)) (i : Nat) : Bool := xs.any fun p => p.1 ≤ i && i < p.2

/-! ## BARG -/

/-- The greatest of some numbers, if there is one. -/
def latest (xs : List Nat) : Option Nat := if xs.isEmpty then none else some (xs.foldl max 0)

/-- The generation that a context waits for at a BARG: the latest at which one of its arriving items arrives; where none
arrives, the one at which its members have arrived before (R227). None that is released already, and none for a context
without members, which the manual does not tell what to wait for (notes/assumptions/65.md). -/
def State.waitsFor (s : State) (i : Iss) (k : Nat) (items : List Nat) : Option Nat :=
  let g := ((s.launch i.l.id).getD i.l).gen k
  let at_ := if items.isEmpty then
      ((i.c.items.filter fun x => i.l.member k x && g.count x != 0).map fun x => g.count x - 1)
    else items.map g.count
  (latest at_).filter (s.released i.l.cmd.job k ≤ ·)

/-- The arrivals of a context's items: each at its next generation, those at the unreleased one reported to the core
(R190, R191). -/
def State.arriveGroup (s : State) (i : Iss) (k : Nat) (items : List Nat) : State :=
  let l := (s.launch i.l.id).getD i.l
  let g := l.gen k
  let now := s.released l.cmd.job k
  let wait := items.filter fun x => g.count x == now
  let rising := wait.foldl (fun ys x => insertNat x ys) []
  let msg : BarrierMsg :=
    { level := .core, place := i.s.coreNumber i.c, node := s.fabric.node, launchId := l.id, job := l.cmd.job, group := k
      gen := now, items := intervalsOf rising, complete := false }
  let g' : Gen :=
    { g with
      counts := items.foldl (fun cs x => kset cs x (g.count x + 1)) g.counts
      levels := wait.foldl (fun ls x => kset ls x 0) g.levels
      sent := if wait.isEmpty then g.sent else g.sent ++ [msg] }
  s.modLaunch l.id fun l => l.setGen g'

/-- BARG (R227). A context none of whose items is a member does not wait (notes/assumptions/65.md). -/
def bargBody (f : Fields) (i : Iss) (s : State) : Res :=
  let k := (i.uni 1 f.b).toNat % 2 ^ 32
  let ar := f.order == 4
  let clu := i.r.cluster.getD 0
  let arrive (s : State) (items : List Nat) : State :=
    match s.waitsFor i k items with
    | some gen =>
      (s.arriveGroup i k items).modCtx i.c.id fun c =>
        { c with wait := .group k gen (if ar then f.scope + 1 else 0), active := false }
    | none => if ar then (s.arriveGroup i k items).acquire clu f.scope else s.arriveGroup i k items
  if 256 ≤ k then .trap s 6 2 (maskOf i.lanes) 0
  else match i.c.kind with
    | .control => .done s
    | .span lo hi =>
      (match ((List.range (hi - lo)).map (lo + ·)).find? fun x => !i.l.member k x with
      | some x => if x == lo then .trap s 6 3 0 0 else i.needCut s [x]
      | none =>
        i.afterRelease s f.order f.scope fun s =>
          .done (arrive s ((List.range (hi - lo)).map (lo + ·))))
    | .strand =>
      let item (x : Nat) : Nat := ((i.c.lanes[x]?).bind (·.item)).getD 0
      let members := i.lanes.filter fun x => i.l.member k (item x)
      let others := i.lanes.filter fun x => !i.l.member k (item x)
      i.afterRelease s f.order f.scope fun s =>
        let s := arrive s (members.map item)
        if others.isEmpty then .done s
        else .trap s 6 3 (maskOf others) (maskOf (i.issuing.filter fun x => !others.contains x))

/-! ## GRPQ -/

/-- GRPQ (R228). -/
def grpqBody (f : Fields) (i : Iss) (s : State) : Res :=
  let k := (i.uni 1 f.b).toNat % 2 ^ 32
  if 256 ≤ k then .trap s 6 2 (maskOf i.lanes) 0
  else match destScal f.d with
    | some r =>
      let n := ((List.range i.l.n).filter (i.l.member k)).length
      .done (s.modCtx i.c.id fun c => c.writeScal r (BitVec.ofNat 64 n))
    | none =>
      let p := predNum f.d
      match i.c.kind with
      | .control => .done s
      | .span lo hi =>
        let ms := ((List.range (hi - lo)).map (lo + ·)).filter (i.l.member k)
        (match ms.head?, ms.getLast? with
        | some a, some b =>
          if ms.length == b + 1 - a then
            .done (s.modCtx i.c.id fun c => c.writePForm p (PForm.within (.i a (b + 1)) lo hi))
          else i.needLanes s
        | _, _ => .done (s.modCtx i.c.id fun c => c.writePForm p (.u false)))
      | .strand =>
        .done (s.modCtx i.c.id fun c => c.writeLanePreds p
          (i.lanes.map fun x => (x, i.l.member k (((i.c.lanes[x]?).bind (·.item)).getD 0))))

/-! ## Messages -/

def levelNo : Level → Nat
  | .core => 1
  | .cluster => 2
  | .die => 3
  | .pkg => 4
  | .fabric => 5

/-- The level above, and the place there of a place. -/
def levelUp (lv : Level) (place : Nat) : Level × Nat :=
  match lv with
  | .core => (.cluster, place / 8)
  | .cluster => (.die, place / 16)
  | .die => (.pkg, 0)
  | x => (x, 0)

/-- The item is placed beneath a place of a level. -/
def State.beneath (s : State) (l : Launch) (lv : Level) (place i : Nat) : Bool :=
  match lv with
  | .pkg => true
  | _ =>
    match s.placeOf l i with
    | none => false
    | some core =>
      (match lv with
      | .core => core == place
      | .cluster => core / 8 == place
      | .die => core / 128 == place
      | _ => true)

/-- The live launches of a job on this package that have members of a group. -/
def State.jobLaunches (s : State) (job k : Nat) : List Launch :=
  s.launches.filter fun l => l.cmd.job == job && l.status.isNone && l.groups.any (·.k == k)

/-- What other packages have said of a job's barrier. -/
def State.peersOf (s : State) (job k : Nat) : List PeerCount := s.disp.peers.filter fun p => p.job == job && p.group == k

/-- The root: the package with the lowest node number, of those that hold a launch of the job (R191). -/
def State.rootOf (s : State) (job k : Nat) : Nat := ((s.peersOf job k).map (·.node)).foldl min s.fabric.node

def State.setReleased (s : State) (job k n : Nat) : State :=
  let others := s.disp.jobGens.filter fun g => !(g.job == job && g.group == k)
  { s with disp := { s.disp with jobGens := others ++ [⟨job, k, n⟩] } }

/-- A message of the barrier to another package, in a flit on VC 4 (R325), charged to a launch (R255). -/
def State.barrierFlit (s : State) (launch node : Nat) : State :=
  let s := s.chargeFlit 0 launch 0 node
  let (id, s) := s.newId
  s.sendData 4 node (id % 2 ^ 16)

/-- A count from another package's combiner, or the root's release, which is complete; a count without items that is complete
says that the launch has ended. A package without a launch of the job learns how far the job has come (R191). -/
def State.peerCount (s : State) (m : BarrierMsg) : State :=
  let n := if m.node < s.fabric.node && m.complete && !m.items.isEmpty then m.gen + 1 else m.gen
  let s := if (s.jobLaunches m.job m.group).isEmpty && s.released m.job m.group < n then s.setReleased m.job m.group n else s
  let others := s.disp.peers.filter fun p =>
    !(p.node == m.node && p.launchId == m.launchId && p.job == m.job && p.group == m.group)
  let peers := if m.items.isEmpty && m.complete then others else others ++ [⟨m.node, m.launchId, m.job, m.group, m.gen, m.complete⟩]
  { s with disp := { s.disp with peers := peers } }

/-- A launch's count at the unreleased generation is complete (R191). -/
def State.launchComplete (s : State) (l : Launch) (k : Nat) : Bool :=
  let g := l.gen k
  (s.liveMembers l k).all fun i => (kget g.levels i).getD 0 == 4

/-- The package's combiner sends the root one message per generation, when the counts of the launches here are complete
(R191). -/
def State.tellRoot (s : State) (job k : Nat) : State :=
  let root := s.rootOf job k
  let t : Told := ⟨root, job, k, s.released job k⟩
  match s.jobLaunches job k with
  | [] => s
  | l :: ls =>
    if root == s.fabric.node || s.disp.told.contains t || !((l :: ls).all fun l => s.launchComplete l k) then s
    else ({ s with disp := { s.disp with told := s.disp.told ++ [t] } } : State).barrierFlit l.id root

/-- BARRIER_ARRIVAL_MESSAGE R191: a level takes a message on its way, or counts members that have ended, and sends
one message upward when every member placed beneath it has arrived; with them go those that arrived and whose range has
been saved since (R192). -/
def execBarrierArrivalMessage (m : BarrierMsg) (s : State) : Host.Outcome State Fault Refusal :=
  if m.node != s.fabric.node then .next (s.peerCount m)
  else match s.launch m.launchId with
    | none => .next s
    | some l =>
      let g := l.gen m.group
      if !(g.sent.contains m || (m.items.isEmpty && m.gen == s.released l.cmd.job m.group && m.level != .fabric)) then .next s
      else
        let n := levelNo m.level
        let mine := (g.levels.filter fun p => inIntervals m.items p.1).map (·.1)
        let levels := mine.foldl (fun ls x => kset ls x (max n ((kget ls x).getD 0))) g.levels
        let sent := g.sent.filter (· != m)
        let here := (s.liveMembers l m.group).filter (s.beneath l m.level m.place)
        let all := here.all fun x => n ≤ (kget levels x).getD 0
        let up := (levels.filter fun p => p.2 == n &&
          (inIntervals m.items p.1 || s.beneath l m.level m.place p.1 || (s.placeOf l p.1).isNone) &&
          !(sent.any fun q => n < levelNo q.level && inIntervals q.items p.1)).map (·.1)
        let sent := if all && n < 4 && !up.isEmpty then
            let (lv, place) := levelUp m.level m.place
            sent ++ [{ m with level := lv, place := place, items := intervalsOf up }]
          else sent
        .next ((s.modLaunch l.id fun l => l.setGen { g with levels := levels, sent := sent }).tellRoot l.cmd.job m.group)

/-- The generation may release (R190, R191): at the root when every launch of the job here is complete, and every count that
it keeps of other packages is; elsewhere when the root's release has come. A count of a later generation says that the job has
released this one. -/
def State.mayRelease (s : State) (job k : Nat) : Bool :=
  let peers := s.peersOf job k
  let now := s.released job k
  (peers.any fun p => now < p.gen) ||
  if s.rootOf job k == s.fabric.node then
    (s.jobLaunches job k).all (fun l => s.launchComplete l k) && peers.all fun p => now ≤ p.gen && p.complete
  else peers.any fun p => p.node < s.fabric.node && now ≤ p.gen && p.complete

/-- A launch's barrier state at a generation that is now the unreleased one: the items that have arrived at it before are
reported from their cores; those whose range is not placed are counted at the package (R190 to R192). -/
def State.nextGen (s : State) (l : Launch) (k now : Nat) : Gen :=
  let g := l.gen k
  let early := (g.counts.filter fun x => now < x.2).map (·.1)
  let msg (level : Level) (place : Nat) (items : List Nat) : BarrierMsg :=
    { level := level, place := place, node := s.fabric.node, launchId := l.id, job := l.cmd.job, group := k, gen := now
      items := intervalsOf items, complete := false }
  let placed := ((early.filterMap (s.placeOf l)).eraseDups).map fun p =>
    msg .core p (early.filter fun x => s.placeOf l x == some p)
  let rest := early.filter fun x => (s.placeOf l x).isNone
  { g with
    levels := early.map fun x => (x, 0)
    sent := placed ++ if rest.isEmpty then [] else [msg .pkg 0 rest] }

/-- A context that waits for the released generation, or an earlier one, goes on, after its acquire (R227). -/
def State.wakeGroup (s : State) (ids : List Nat) (k gen : Nat) (c : Ctx) : State :=
  let inJob := match s.launchOf c with
    | some l => ids.contains l.id
    | none => false
  let hit (w : Wait) : Option Nat := match w with
    | .group a b acq => if a == k && b ≤ gen && inJob then some acq else none
    | _ => none
  let acq := (hit c.wait).orElse fun _ => c.save.bind fun v => hit v.wait
  match acq with
  | none => s
  | some a =>
    let s := if a == 0 then s else s.acquire (s.cluOf c) (a - 1)
    s.modCtx c.id fun c =>
      { c with
        wait := if (hit c.wait).isSome then .none else c.wait
        save := c.save.map fun v => if (hit v.wait).isSome then { v with wait := .none } else v }

/-- The root sends its release to the packages that hold launches of the job; another package has told the root first
(R191). -/
def State.passRelease (s : State) (launch job k : Nat) : State :=
  if s.rootOf job k == s.fabric.node then
    (((s.peersOf job k).map (·.node)).eraseDups).foldl (fun (s : State) node => s.barrierFlit launch node) s
  else s.tellRoot job k

/-- BARRIER_RELEASE R191: the generation's release reaches its waiting members, and the number advances. -/
def execBarrierRelease (launchId group : Nat) (s : State) : Host.Outcome State Fault Refusal :=
  match s.launch launchId with
  | none => .next s
  | some l =>
    let job := l.cmd.job
    let gen := s.released job group
    if !(l.groups.any (·.k == group)) || !s.mayRelease job group then .next s
    else
      let ls := s.jobLaunches job group
      let s := (s.passRelease launchId job group).setReleased job group (gen + 1)
      let s := { s with disp := { s.disp with told := s.disp.told.filter fun t => !(t.job == job && t.group == group) } }
      let s := ls.foldl (fun (s : State) (l : Launch) => s.modLaunch l.id fun l =>
        l.setGen (s.nextGen l group (gen + 1))) s
      .next (s.ctxs.foldl (fun (s : State) (c : Ctx) => s.wakeGroup (ls.map (·.id)) group gen c) s)

/-! ## The meanings -/

/-- BARG R227. -/
def execBarg (f : Fields) (s : State) : Host.Outcome State Fault Refusal := issueF 0xC0 f (bargBody f) s

/-- GRPQ R228. -/
def execGrpq (f : Fields) (s : State) : Host.Outcome State Fault Refusal := issueF 0xC1 f (grpqBody f) s

end Sys2Proof.Machine
end

