-- ==== Sys2Proof/Machine/Rma.lean ====
section
/-! DEFINITION. Remote memory access by the host (14 R343, R344): how a packet must come, the memory windows, and the
performance of an access, which may have to wait for a line. -/

namespace Sys2Proof.Machine

/-- An answer to the host: 1 and its data, or a negative acknowledgement. -/
def State.answer (s : State) (ok : Bool) (bs : List Byte) : State :=
  { s with host := { s.host with answers := s.host.answers ++ [BitVec.ofNat 8 ok.toNat :: bs] } }

/-- The packet came as the package supports it (R343): by a reliable delivery, and secured with the key of its VF. Others have
no effect and are answered negatively (notes/assumptions/101.md). -/
def State.viaOk (s : State) (via : Via) : Bool :=
  (via.delivery == .reliableUnordered || via.delivery == .reliableOrdered) && via.key.isSome && kget s.host.keys via.vf == via.key

/-- A physical byte of a window, or what the access meets there: by the tables of the window's process, and at the home. -/
def State.rmaByte (s : State) (vf proc : Nat) (va : W64) (wr : Bool) : Except Miss (Nat × Bool) :=
  if !canonical va then .error (.kind 1)
  else match s.walk vf proc va with
    | .error m => .error m
    | .ok l =>
      match l.check (if wr then wantWrite else wantRead) with
      | .error m => .error m
      | .ok _ =>
        if !wr then (s.sliceReady (l.phys va)).map fun pa => (pa, l.s)
        else if s.underTest (l.phys va) then .error (.test (l.phys va))
        else .ok (l.phys va, l.s)

/-- The physical bytes of a range of a memory window; the window may not grant the access (R344). -/
def State.rmaBytes (s : State) (r : Rma) : Except Miss (List (Nat × Bool)) :=
  match s.host.windows.find? fun w => w.vf == r.vf && w.index == r.window with
  | none => .error (.kind 2)
  | some w =>
    if !(if r.write then w.w else w.r) || w.len < r.off + r.len then .error (.kind 3)
    else
      let byte (k : Nat) : W64 × Except Miss (Nat × Bool) :=
        (w.base + BitVec.ofNat 64 (r.off + k), s.rmaByte r.vf w.proc (w.base + BitVec.ofNat 64 (r.off + k)) r.write)
      match wholeAccess ((List.range r.len).map byte) with
      | .error (_, m) => .error m
      | .ok ps => .ok ps

/-- The access waits until its bytes can be read. -/
def State.holdRma (s : State) (r : Rma) : State :=
  let (id, s) := s.newId
  { s with ops := s.ops ++ [⟨id, [], none, .rma r, 0⟩] }

/-- Performs an access at the homes, lets it wait, or refuses it, and then nothing changes (R344). -/
def State.serveRma (s : State) (r : Rma) : State :=
  match s.rmaBytes r with
  | .error (.cxl line) => (s.askCxl line).holdRma r
  | .error (.test _) => s.holdRma r
  | .error (.bad pa) => (s.meet pa).answer false []
  | .error _ => s.answer false []
  | .ok ps =>
    if r.write then
      let put (s : State) (x : (Nat × Bool) × Byte) : State :=
        let s := if x.1.2 then s.markStamped x.1.1 else s
        if s.lost x.1.1 then s else ((s.collect fun d => d.meets x.1.1 1).sliceWrite x.1.1 x.2).note 0 (.g x.1.1 false)
      ((ps.zip r.data).foldl put s).answer true []
    else
      let s := s.collect fun d => ps.any fun p => d.meets p.1 1
      s.answer true (ps.map fun p => s.sliceSeen p.1)

end Sys2Proof.Machine
end

