-- ==== Sys2Proof/Machine/Launch.lean ====
section
/-! DEFINITION. Work queues, commands and launches (10 R230 to R237, R375), growth (R242) and placement (08 R179 to R181,
R188, R189), and the meanings of SPAWN, GROW and LNQ (11 R272 to R274). -/

namespace Sys2Proof.Machine

/-! ## The dispatcher's memory accesses: at the homes, through the translations of a queue's process -/

/-- A cluster number that no TLB or L1 has. -/
def noCluster : Nat := 1000

def State.dispPieces (s : State) (vf proc : Nat) (w : Want) (va : W64) (n : Nat) : Except (W64 × Miss) (List Piece) :=
  s.translateFor noCluster false vf proc w va n

/-- Reads bytes; outstanding deltas are collected first (R244). A byte whose block is under test (R258), a poisoned one (R259), or
one that a CXL device must give (R280), cannot be read now. -/
def State.dispRead (s : State) (vf proc : Nat) (va : W64) (n : Nat) : Except (W64 × Miss) (State × List Byte) :=
  match s.dispPieces vf proc wantRead va n with
  | .error e => .error e
  | .ok ps =>
    let pas := (List.range n).map fun k => (pieceAt ps k).1
    if let some pa := pas.find? s.underTest then .error (va, .test pa)
    else if let some pa := pas.find? s.poisoned then .error (va, .bad pa)
    else if let line :: _ := pas.filterMap (s.cxlMiss noCluster 2) then .error (va, .cxl line)
    else
    let s := s.collect fun d => pas.any fun p => d.meets p 1
    .ok (s, pas.map s.sliceSeen)

/-- Writes bytes at fabric scope, once no block that serves one is under test (R258). The address of a word or record need not be
aligned: the manual gives no action for one that is not, and it is used as it stands (notes/assumptions/118.md). -/
def State.dispWrite (s : State) (vf proc : Nat) (va : W64) (bs : List Byte) : Except (W64 × Miss) State :=
  match s.dispPieces vf proc wantWrite va bs.length with
  | .error e => .error e
  | .ok ps =>
    if let some pa := ((List.range bs.length).map fun k => (pieceAt ps k).1).find? s.underTest then .error (va, .test pa)
    else .ok (((List.range bs.length).zip bs).foldl (fun (s : State) x =>
      let p := pieceAt ps x.1
      (s.prepare noCluster 4 p.1 1 p.2).writeByte noCluster 4 p.1 x.2) s)

/-! ## Queues (R233) -/

def State.setQueue (s : State) (q : Nat) (x : Queue) : State :=
  { s with disp := { s.disp with queues := kset s.disp.queues q x } }

/-- The address of command `k` of a queue. -/
def Queue.slot (q : Queue) (k : Nat) : W64 := q.base + BitVec.ofNat 64 (128 * (k % 2 ^ q.logsz))

/-- An entry of a VF's error log: 1 a dropped tail write, 2 QUEUEBAD, 3 a skipped completion write (its status and
launch number). -/
def State.logError (s : State) (vf code value : Nat) : State :=
  { s with host := { s.host with errlog := s.host.errlog ++ [(vf, code, value)] } }

/-- A tail below HEAD, or more than the ring above it, disables an enabled queue, and the log says so (R233). -/
def State.checkTail (s : State) (qn : Nat) : State :=
  let q := s.queue qn
  let tail := s.tailOf qn
  if q.en && (tail < q.head.toNat || 2 ^ q.logsz < tail - q.head.toNat) then
    (s.setQueue qn { q with en := false }).logError q.vf 2 qn
  else s

/-- QUEUE_TAIL_WRITE R233: a secured packet at a VF's endpoint writes a tail (R343). -/
def execQueueTailWrite (via : Via) (queue : Nat) (tail : W64) (s : State) : Host.Outcome State Fault Refusal :=
  let q := s.queue queue
  if !s.viaOk via then .next (s.answer false [])
  else if 131072 ≤ queue || q.vf != via.vf then .next (s.logError via.vf 1 queue)
  else
    .next ((s.homeWriteN (s.tailPa queue) (leBytes 8 tail.toNat)).checkTail queue)

/-- QUEUE_DESCRIPTOR_WRITE R233: bits 127:0 of a descriptor; HEAD is the dispatcher's. A LOGSZ above 20 is taken as it stands,
which is the model's choice (notes/assumptions/117.md). -/
def execQueueDescriptorWrite (queue : Nat) (desc : BitVec 128) (s : State) : Host.Outcome State Fault Refusal :=
  if 131072 ≤ queue then .next s
  else
    let x := desc.toNat
    let q : Queue :=
      { base := BitVec.ofNat 64 x, logsz := x / 2 ^ 64 % 32, prio := x / 2 ^ 69 % 8, vf := x / 2 ^ 72 % 64
        proc := x / 2 ^ 78 % 256, en := bitOf x 86, head := (s.queue queue).head, readyAt := none }
    .next ((s.setQueue queue q).checkTail queue)

/-! ## Commands (R230) -/

/-- Bits of a command. -/
def bitsAt (x lo n : Nat) : Nat := x / 2 ^ lo % 2 ^ n

/-- The fields of a command; of one that is no LAUNCH only KIND, the dependence and the completion fields are
read. -/
def parseCmd (bs : List Byte) : Cmd :=
  let x := leVal bs
  let launch := bitsAt x 0 8 == 1
  let w (lo : Nat) : W64 := BitVec.ofNat 64 (bitsAt x lo 64)
  { kind := bitsAt x 0 8, repro := launch && bitOf x 8, guarded := launch && bitOf x 9, serial := launch && bitOf x 10
    wlog := bitsAt x 16 3, vregs := bitsAt x 24 8, scal := bitsAt x 32 7, clog := bitsAt x 40 5, n := bitsAt x 64 32
    job := if launch then bitsAt x 96 32 else 0, codebase := w 128, entry := bitsAt x 192 32
    trapidx := bitsAt x 224 32, centry := bitsAt x 256 32, scratch := bitsAt x 288 32, cscratch := bitsAt x 320 32
    groups := w 352, depaddr := w 416, depval := w 480, cmpaddr := w 544, cmpval := w 608, recaddr := w 672
    estimate := bitsAt x 736 32, guardbase := w 768, guardlen := bitsAt x 832 32
    reserved := bitsAt x 11 5 != 0 || bitsAt x 19 5 != 0 || bitsAt x 39 1 != 0 || bitsAt x 45 19 != 0 ||
      bitsAt x 864 160 != 0 }

/-- BADCMD of a LAUNCH (R231). -/
def Cmd.bad (c : Cmd) : Bool :=
  c.reserved || c.n == 0 || c.wlog < 3 || 6 < c.wlog || c.clog < 6 || 20 < c.clog || 64 < c.scal ||
  c.scratch % 16 != 0 || c.codebase.toNat % 12 != 0 || c.groups.toNat % 64 != 0 ||
  (c.guarded && (c.guardbase.toNat % 65536 != 0 || c.guardlen == 0 || 65536 < c.guardlen))

/-- KIND names a host command (R291). -/
def isHostKind (k : Nat) : Bool := [0x10, 0x11, 0x12, 0x13, 0x14, 0x18, 0x19, 0x1A, 0x1B].contains k

/-- What the dispatcher finds of a queue's head command (R234): not ready, ready, or what its reads meet. -/
inductive Head where
  | no
  | yes (c : Cmd)
  | miss (va : W64) (m : Miss)

def State.headOf (s : State) (qn : Nat) : Head :=
  let q := s.queue qn
  if !q.en || s.tailOf qn ≤ q.head.toNat || 2 ^ q.logsz < s.tailOf qn - q.head.toNat then .no
  else match s.dispRead q.vf q.proc (q.slot q.head.toNat) 128 with
    | .error (va, m) => .miss va m
    | .ok (_, bs) =>
      let c := parseCmd bs
      if c.serial && s.disp.cmds.any (·.queue == qn) then .no
      else if c.depaddr == 0 then .yes c
      else match s.dispRead q.vf q.proc c.depaddr 8 with
        | .error (va, m) => .miss va m
        | .ok (_, d) => if c.depval.toNat ≤ leVal d then .yes c else .no

/-- A demand fault of a dispatcher's access (R253). -/
def State.dispPark (s : State) (vf proc kind job : Nat) (va : W64) : State :=
  s.faultMsg vf proc (BitVec.ofNat 64 (va.toNat / 2 ^ 16 * 2 ^ 16)) kind job 0

/-- A machine check for a poisoned byte that the dispatcher reads for a launch, or for none as 0 (R259). -/
def State.dispBad (s : State) (launch pa : Nat) : State :=
  if s.svc.checks.contains (launch, pa) then s else s.raiseRead launch pa

/-- What a dispatcher's access meets: a demand fault (R253), a line that a CXL device must give, a poisoned byte. With another
fault, or while a block is under test, nothing comes of it: a queue's head command is then not ready, which for a fault is the
model's choice (notes/assumptions/116.md). -/
def State.dispMiss (s : State) (vf proc kind job launch : Nat) (va : W64) (m : Miss) : State :=
  match m with
  | .park => s.dispPark vf proc kind job va
  | .cxl line => s.askCxl line
  | .bad pa => s.dispBad launch pa
  | _ => s

/-- DEPENDENCE_RECHECK R234: the dependence words are read again; a queue whose head command may start is noted as
ready from now. -/
def execDependenceRecheck (s : State) : Host.Outcome State Fault Refusal :=
  .next ((s.disp.queues.map (·.1)).foldl (fun (s : State) qn =>
    let q := s.queue qn
    match q.readyAt, s.headOf qn with
    | none, .yes _ =>
      let (n, s) := s.newId
      s.setQueue qn { q with readyAt := some n }
    | none, .miss va m => s.dispMiss q.vf q.proc 0 0 0 va m
    | _, _ => s) s)

/-- COMMAND_TAKE R234, R375: the dispatcher takes a ready queue's head command and advances HEAD. -/
def execCommandTake (queue : Nat) (s : State) : Host.Outcome State Fault Refusal :=
  let q := s.queue queue
  match s.headOf queue with
  | .no => .next s
  | .miss va m => .next (s.dispMiss q.vf q.proc 0 0 0 va m)
  | .yes c =>
    let (id, s) := s.newId
    let numbered := c.kind == 1 || c.kind == 0x12
    let s := if numbered then { s with launchCount := s.launchCount + 1 } else s
    let t : Taken :=
      { id := id, queue := queue, seq := q.readyAt.getD id, vf := q.vf, proc := q.proc, cmd := c
        launchId := if numbered then s.launchCount else 0, started := false, parked := none, refused := []
        recDone := false, result := none }
    let s := { s with disp := { s.disp with cmds := s.disp.cmds ++ [t] } }
    .next (s.setQueue queue { q with head := q.head + 1, readyAt := none })

def State.taken (s : State) (id : Nat) : Option Taken := s.disp.cmds.find? (·.id == id)

def State.modTaken (s : State) (id : Nat) (g : Taken → Taken) : State :=
  { s with disp := { s.disp with cmds := s.disp.cmds.map fun t => if t.id == id then g t else t } }

/-! ## Completion (R231, R232) -/

/-- A 192-byte completion record. -/
def recordOf (status number energy items drops tstart tend : Nat) (frame frec : List Byte) : List Byte :=
  leBytes 8 (status % 256 + number % 2 ^ 16 * 256) ++ leBytes 8 energy ++ leBytes 8 items ++ leBytes 8 drops ++
    leBytes 8 tstart ++ leBytes 8 tend ++ leBytes 16 0 ++ (frame ++ List.replicate (88 - frame.length) 0) ++
    (frec ++ List.replicate (16 - frec.length) 0) ++ leBytes 24 0

/-- One write of a command's completion: made, parked, or skipped because it faults or was refused (R231). -/
def State.complWrite (s : State) (t : Taken) (status number : Nat) (va : W64) (bs : List Byte) : Option State :=
  if va == 0 then some s
  else
    let skip (s : State) : State :=
      (s.logError t.vf 3 (number * 256 + status)).notify t.vf ⟨3, number, status, va⟩
    match s.dispWrite t.vf t.proc va bs with
    | .ok s => some s
    | .error (at_, .park) => if t.refused.contains (at_.toNat / 2 ^ 16) then some (skip s) else none
    | .error (_, .kind _) => some (skip s)
    | .error _ => none

/-- The page a parked completion write waits for. -/
def State.complPark (s : State) (t : Taken) (va : W64) (n : Nat) : State :=
  match s.dispPieces t.vf t.proc wantWrite va n with
  | .error (at_, .park) =>
    (s.dispPark t.vf t.proc 1 t.cmd.job at_).modTaken t.id fun t => { t with parked := some (at_.toNat / 2 ^ 16) }
  | .error (at_, m) => s.dispMiss t.vf t.proc 1 t.cmd.job t.launchId at_ m
  | _ => s

/-- Steps 2 and 3 of R231; the command is finished when both are done. Answers whether it is. -/
def State.complete (s : State) (t : Taken) (status number : Nat) (rec : List Byte) : State × Bool :=
  match (if t.recDone then some s else s.complWrite t status number t.cmd.recaddr rec) with
  | none => (s.complPark t t.cmd.recaddr 192, false)
  | some s =>
    let s := s.modTaken t.id fun t => { t with recDone := true }
    match s.complWrite t status number t.cmd.cmpaddr (leBytes 8 t.cmd.cmpval.toNat) with
    | none => (s.complPark t t.cmd.cmpaddr 8, false)
    | some s => ({ s with disp := { s.disp with cmds := s.disp.cmds.filter (·.id != t.id) } }, true)

/-- The completion of a command that starts no launch: its record names no launch, and the bits for its number are a
free value (R232, R375). -/
def State.completeCmd (s : State) (t : Taken) (status : Nat) : State :=
  let (k, s) := s.newFree
  let number := if t.launchId == 0 then (Config.freeWord k).toNat % 2 ^ 16 else t.launchId
  (s.complete t status number (recordOf status number 0 0 0 s.mer.lo s.mer.lo [] [])).1

/-- NOP_COMMAND R230: KIND 0x00 completes with no effect; so does a reserved KIND, with BADCMD (R231, R291). -/
def execNopCommand (cmd : Nat) (s : State) : Host.Outcome State Fault Refusal :=
  match s.taken cmd with
  | none => .next s
  | some t =>
    if t.cmd.kind == 0 then .next (s.completeCmd t 0)
    else if t.cmd.kind == 1 || t.cmd.kind == 2 || isHostKind t.cmd.kind then .next s
    else .next (s.completeCmd t 5)

/-- MARK R230: its dependence is satisfied when it is taken. -/
def execMark (cmd : Nat) (s : State) : Host.Outcome State Fault Refusal :=
  match s.taken cmd with
  | none => .next s
  | some t => if t.cmd.kind == 2 then .next (s.completeCmd t 0) else .next s

/-! ## The group table (R188, R189) -/

/-- The runs of an entry that are present. -/
def parseRuns (bs : List Byte) : List Run :=
  let x := leVal bs
  let run (lo : Nat) : Run := ⟨bitsAt x lo 32, bitsAt x (lo + 32) 32, bitsAt x (lo + 64) 32⟩
  [run 0, run 96].filter (·.count != 0)

def parseGroups (bs : List Byte) : List Group :=
  (List.range 256).filterMap fun k =>
    match parseRuns ((bs.drop (32 * k)).take 32) with
    | [] => none
    | rs => some ⟨k, rs⟩

/-- A present run with STRIDE 0 or an end beyond 2^32, or a reserved bit. -/
def badTable (bs : List Byte) (gs : List Group) : Bool :=
  (List.range 256).any (fun k => leVal ((bs.drop (32 * k + 24)).take 8) != 0) ||
  gs.any fun g => g.runs.any fun r => r.stride == 0 || 2 ^ 32 ≤ r.lo + (r.count - 1) * r.stride

/-- A progression of indices: first, last, step. -/
structure Prog where
  first : Nat
  last : Nat
  step : Nat

/-- x with a·x ≡ gcd(a, b) modulo b, by Euclid's algorithm. -/
def euclid : Nat → Int → Int → Int × Int
  | 0, a, _ => (a, 1)
  | fuel + 1, a, b =>
    if b == 0 then (a, 1)
    else
      let (g, y) := euclid fuel b (a % b)
      (g, if a % b == 0 then 0 else (g - b * y) / (a % b))

/-- The least index of a progression that is at least `lo`. -/
def Prog.raise (p : Prog) (lo : Nat) : Nat := p.first + (lo - p.first + p.step - 1) / p.step * p.step

/-- The indices two progressions share. -/
def Prog.meet (p q : Prog) : Option Prog :=
  let g := Nat.gcd p.step q.step
  let d : Int := (q.first : Int) - p.first
  if d % (g : Int) != 0 then none
  else
    let m := q.step / g
    let (_, x) := euclid 64 ((p.step / g % m : Nat) : Int) (m : Int)
    let j := (d / g * x) % (m : Int)
    let r : Prog := ⟨p.first + p.step * j.toNat, min p.last q.last, p.step * m⟩
    let first := r.raise (max p.first q.first)
    if first ≤ r.last then some { r with first := first } else none

/-- Some index is a member of more than four groups: of runs of five distinct groups that share an index. -/
def tooMany : List (Nat × Prog) → Option Prog → List Nat → Bool
  | [], _, gs => 5 ≤ gs.length
  | (g, p) :: rest, cur, gs =>
    if 5 ≤ gs.length then true
    else
      (!gs.contains g && (match (match cur with
          | none => some p
          | some c => c.meet p) with
        | some c => tooMany rest (some c) (g :: gs)
        | none => false)) ||
      tooMany rest cur gs

def groupsBad (bs : List Byte) (gs : List Group) : Bool :=
  badTable bs gs ||
  tooMany (gs.flatMap fun g => g.runs.map fun r => (g.k, ⟨r.lo, r.lo + (r.count - 1) * r.stride, r.stride⟩)) none []

/-! ## Launch -/

/-- The cluster ranges of [a, n): the first may start inside its bounds (R179, R242). -/
def cutRanges (c n : Nat) : Nat → Nat → List (Nat × Nat)
  | 0, _ => []
  | fuel + 1, a =>
    if n ≤ a then []
    else
      let e := min ((a / c + 1) * c) n
      (a, e) :: cutRanges c n fuel e

def rangesFrom (c a n : Nat) : List (Nat × Nat) := cutRanges c n ((n - a) / c + 2) a

/-- The launch of a command, with its group table. -/
def newLaunch (t : Taken) (gs : List Group) : Launch :=
  { id := t.launchId, vf := t.vf, proc := t.proc, taken := t.id, cmd := t.cmd, n := t.cmd.n, status := none
    drain := false, tend := none, tstart := none, drops := 0, frame := [], frec := none, energy := 0, retired := 0
    groups := gs, gens := [], reds := [], tags := [], todo := rangesFrom (2 ^ t.cmd.clog) 0 t.cmd.n
    failedIn := none }

/-- SPACE of R231: R116, R193, and the tag table of R241. -/
def State.spaceBad (s : State) (l : Launch) : Bool :=
  917504 < round256 l.s + l.window true || l.cmd.cscratch % 16 != 0 || 131072 < l.cmd.cscratch ||
  (l.cmd.repro && l.cmd.guarded && !s.poolRoom l.vf (4096 * l.cmd.guardlen))

/-- The dispatcher of a launch's queue sets LIVE at the package switch for each of its groups (R333, R234). -/
def State.setLive (s : State) (l : Launch) (die : Nat) : State :=
  l.groups.foldl (fun s g =>
    let key : Key := ⟨l.cmd.job, g.k, 0⟩
    let count := (((s.sends.ready.find? fun x => x.at .pkg 0 key && x.child == die).map (·.total)).getD 0)
    ({ s with sends := s.sends.report .pkg 0 die key count true } : State).tierReport s.sends key) s

/-- A launch begins, or is rejected: then it has nothing to place. -/
def State.beginLaunch (s : State) (t : Taken) (l : Launch) (status : Option Nat) : State :=
  let s := if status.isNone then s.setLive l (t.queue % 8) else s
  let s := if status.isNone && l.cmd.repro && l.cmd.guarded then s.chargePool l.vf l.proc l.id (4096 * l.cmd.guardlen) else s
  let l := match status with
    | none => l
    | some st => { l with status := some st, todo := [] }
  { s with launches := s.launches ++ [l] }.modTaken t.id fun t => { t with started := true, parked := none }

/-- LAUNCH R230, R231, R188; a poisoned group table ends it LOST (R259). Of several causes of a rejection other than
BADCMD, which one is the status is
free. -/
def execLaunch (cmd : Nat) (s : State) : Host.Outcome State Fault Refusal :=
  match s.taken cmd with
  | none => .next s
  | some t =>
    if t.cmd.kind != 1 || t.started then .next s
    else if t.cmd.bad then .next (s.beginLaunch t (newLaunch t []) (some 5))
    else match (if t.cmd.groups == 0 then .ok (s, []) else s.dispRead t.vf t.proc t.cmd.groups 8192) with
      | .error (va, .park) =>
        if t.refused.contains (va.toNat / 2 ^ 16) then .next (s.beginLaunch t (newLaunch t []) (some 7))
        else .next ((s.dispPark t.vf t.proc 0 t.cmd.job va).modTaken t.id fun t =>
          { t with parked := some (va.toNat / 2 ^ 16) })
      | .error (_, .cxl line) => .next (s.askCxl line)
      | .error (_, .test _) => .next s
      | .error (_, .bad pa) => .next ((s.beginLaunch t (newLaunch t []) (some 6)).dispBad t.launchId pa)
      | .error _ => .next (s.beginLaunch t (newLaunch t []) (some 2))
      | .ok (s, bs) =>
        let gs := parseGroups bs
        let l := newLaunch t gs
        let (k, s) := s.newFree
        let st := match groupsBad bs gs, s.spaceBad l with
          | false, false => none
          | true, false => some 2
          | false, true => some 1
          | true, true => some (if Config.freeBool k then 1 else 2)
        .next (s.beginLaunch t l st)

/-! ## Placement -/

/-- Position p of the placement order (R237). -/
def placeOrder : List Nat :=
  [0, 1, 3, 2, 6, 7, 5, 4].flatMap fun g =>
    [0, 1, 5, 4, 8, 12, 13, 9, 10, 14, 15, 11, 7, 6, 2, 3].map fun h => 16 * g + h

/-- The cluster is free and in placement: nothing is placed on it, its control core and engine work, and no block
of it waits for a self-test (R179, R258). -/
def State.clusterFree (s : State) (clu : Nat) : Bool :=
  !s.ranges.any (·.cluster == some clu) && !(s.workCores clu).isEmpty &&
  !s.svc.failedBlocks.contains (.control clu) && !s.svc.failedBlocks.contains (.engine clu) &&
  s.svc.errors.all fun b => match b with
    | .core c _ => c != clu
    | .store c _ => c != clu
    | .control c => c != clu
    | .engine c => c != clu
    | _ => true

def State.freeCluster (s : State) : Option Nat := placeOrder.find? s.clusterFree

/-- How many clusters a VF holds. -/
def State.heldBy (s : State) (vf : Nat) : Nat :=
  (s.ranges.filter fun r => r.cluster.isSome && (s.launches.any fun l => l.id == r.launchId && l.vf == vf)).length

/-- The dispatchers may place ranges of the VF (R235, R283). -/
def State.vfPlaces (s : State) (vf : Nat) : Bool :=
  let a := s.acct vf
  a.runs && a.slice != 0 && a.period != 0 && a.clumax != 0 && s.heldBy vf < a.clumax

/-- The check of R236 for a number of items. -/
def State.spendOk (s : State) (l : Launch) (items : Nat) : Bool :=
  let a := s.acct l.vf
  let room := a.bal + a.refill
  if l.cmd.estimate != 0 then (items * l.cmd.estimate : Int) ≤ room
  else if l.retired != 0 then (items * l.energy : Int) ≤ room * l.retired
  else 0 ≤ room

/-- The rank of a launch within its process: its queue's priority, then which became ready first (R235). -/
def State.rank (s : State) (l : Launch) : Nat × Nat :=
  match s.taken l.taken with
  | some t => ((s.queue t.queue).prio, t.seq)
  | none => (8, 0)

/-- One rank is not after another. -/
def notAfter (a b : Nat × Nat) : Bool := a.1 < b.1 || (a.1 == b.1 && a.2 ≤ b.2)

/-- The launch has a range to place, which has not failed the check of R236 in this window. -/
def State.toPlace (s : State) (l : Launch) : Bool :=
  l.status.isNone && !l.drain && l.failedIn != some s.energy.window && !l.todo.isEmpty

/-- The next range of a launch passes the check of R236. -/
def State.headOk (s : State) (l : Launch) : Bool := (l.todo.head?).any fun p => s.spendOk l (p.2 - p.1)

/-- The launches that a process's queues have ready and that have not begun, by their ranks, and the costs of their first ranges
(R235). -/
def State.readyHeads (s : State) (vf proc : Nat) : List ((Nat × Nat) × Nat) :=
  let cost (c : Cmd) : Nat := min (2 ^ c.clog) c.n
  (s.disp.queues.filterMap fun x =>
    if x.2.vf == vf && x.2.proc == proc then
      match x.2.readyAt, s.headOf x.1 with
      | some n, .yes c => if c.kind == 1 then some ((x.2.prio, n), cost c) else none
      | _, _ => none
    else none) ++
  (s.disp.cmds.filter fun t => t.vf == vf && t.proc == proc && t.cmd.kind == 1 && !t.started).map fun t =>
    (((s.queue t.queue).prio, t.seq), cost t.cmd)

/-- The first of them. -/
def State.readyBest (s : State) (vf proc : Nat) : Option ((Nat × Nat) × Nat) :=
  let qs := s.readyHeads vf proc
  qs.find? fun a => qs.all fun b => notAfter a.1 b.1

/-- The launch whose range a process places next: of those with a range that passes the check, the first by rank; a ready
command of a higher rank holds it back (R235). -/
def State.nextLaunch (s : State) (vf proc : Nat) : Option Launch :=
  let ls := s.launches.filter fun l => l.vf == vf && l.proc == proc && s.toPlace l && s.headOk l
  (ls.find? fun l => ls.all fun k => notAfter (s.rank l) (s.rank k)).filter fun l =>
    (s.readyBest vf proc).all fun b => notAfter (s.rank l) b.1

/-- The cost of a process's next range (R235). -/
def State.nextCost (s : State) (vf proc : Nat) : Option Nat :=
  match s.nextLaunch vf proc with
  | some l => (l.todo.head?).map fun p => p.2 - p.1
  | none => (s.readyBest vf proc).map (·.2)

/-- The launches of a VF whose turn has come and whose next range fails the check of R236 wait for the next window. -/
def State.passOver (s : State) (vf : Nat) : State :=
  let failed (l : Launch) : Bool :=
    l.vf == vf && s.toPlace l && !s.headOk l && (s.nextLaunch vf l.proc).all fun k => notAfter (s.rank l) (s.rank k)
  { s with launches := s.launches.map fun (l : Launch) => if failed l then { l with failedIn := some s.energy.window } else l }

/-- A process in the round robin. -/
structure Bid where
  proc : Nat
  weight : Nat
  deficit : Nat
  cost : Nat

/-- Rounds until the lowest process covers its cost: that process, and everyone's deficit (R235). -/
def rounds : Nat → List Bid → Option (Nat × List Bid)
  | 0, _ => none
  | fuel + 1, bs =>
    match bs.find? fun b => b.weight != 0 && b.cost ≤ b.deficit with
    | some w => some (w.proc, bs.map fun (b : Bid) => if b.proc == w.proc then { b with deficit := b.deficit - b.cost } else b)
    | none => rounds fuel (bs.map fun (b : Bid) => { b with deficit := b.deficit + 4096 * b.weight })

/-- Process `proc` of the VF is the one that places a range of `cost` items now: the deficits after it (R235). -/
def State.bid (s : State) (vf proc cost : Nat) : Option State :=
  let bids := (List.range 256).filterMap fun p =>
    let x := s.proc vf p
    (if p == proc then some cost else s.nextCost vf p).map fun c =>
      (⟨p, x.weight, if x.weight == 0 then 0 else x.deficit, c⟩ : Bid)
  match rounds 258 bids with
  | none => none
  | some (w, bs) =>
    if w != proc then none
    else
      let known := (s.procs.filter fun x => x.1 / 256 == vf).map fun x => x.1 % 256
      let s := known.foldl (fun (s : State) p => s.setProc vf p { s.proc vf p with deficit := 0 }) s
      some (bs.foldl (fun (s : State) (b : Bid) => s.setProc vf b.proc { s.proc vf b.proc with deficit := b.deficit }) s)

/-- The per-core ranges of a cluster range that are not empty: logical core, first, end (R180). -/
def coreSpans (c w m lo hi : Nat) : List (Nat × Nat × Nat) :=
  let q := ((c + m - 1) / m + w - 1) / w * w
  let base := lo / c * c
  (List.range m).filterMap fun k =>
    let a := max lo (base + k * q)
    let b := min hi (base + (k + 1) * q)
    if a < b then some (k, a, b) else none

/-- A context at its start (R121, R193). -/
def newCtx (l : Launch) (id range core : Nat) (kind : Kind) (pc : W64) : Ctx :=
  let control := kind == .control
  { id := id, range := range, core := core, kind := kind, pc := pc, lanes := []
    regs := List.replicate (if control then 0 else l.v) (.u 0), preds := List.replicate 7 (.u false)
    scal := List.replicate (if control then 64 else l.sn) 0, bars := List.replicate 4 .clear, rets := [], rep := none
    tag := 0, issued := 0, refilled := false, reserve := 0, floorLo := 0, floorHi := 0
    subs := List.replicate 4 ⟨0, false⟩, priv := if control then [] else l.blank, chans := List.replicate 4 Chan.reset, save := none, trap := .none
    wait := .none, landing := [], landed := [], part := 0, copied := 0, seat := none, first := false, active := false
    slotAt := 0, age := id, resident := true, heldTill := 0, billed := false, visited := [] }

/-- Adds the spans of [lo, hi) of a range, each where a slot and store are free and not granted to a space waiter (R120), else
outside the core. -/
def State.addSpans (s : State) (l : Launch) (r : Range) (lo hi : Nat) : State :=
  (coreSpans l.c l.w r.m lo hi).foldl (fun (s : State) (x : Nat × Nat × Nat) =>
    let (id, s) := s.newId
    let c := newCtx l id r.id x.1 (.span x.2.1 x.2.2) (l.pcOf l.cmd.entry)
    let fits := s.freeSlots r.id x.1 != 0 && c.blocks l ≤ s.freeFor c l
    (({ s with ctxs := s.ctxs ++ [{ c with resident := fits }] } : State).seatAll).refresh c) s

/-- Places the range [lo, hi) of a launch on a cluster (R179, R180, R193). No copy that the cluster holds is older than the
launch (R41, R74). The control program is a context of logical core 0, so that %core reads 0 in it, which the manual leaves
open (R30, notes/assumptions/95.md). -/
def State.putRange (s : State) (l : Launch) (clu lo hi : Nat) : State :=
  let (id, s) := s.newId
  let r : Range :=
    { id := id, launchId := l.id, lo := lo, hi := hi, cluster := some clu, m := (s.workCores clu).length, saved := false
      order := 0, atBarrier := false, store := 0, clock := 0, scratch := [], cscratch := [], tiles := []
      prog := List.replicate 16 0, mq := [], late := [], chans := List.replicate 4 ⟨.idle, 0, 0⟩, joins := [], etlb := []
      failedIn := none, elects := [] }
  let s := { s.dropClean clu with ranges := s.ranges ++ [r] }
  let s := s.addSpans l r lo hi
  let s := s.modLaunch l.id fun l => { l with tstart := some (l.tstart.getD s.mer.lo) }
  if l.cmd.centry == 0xFFFFFFFF then s
  else
    let (k, s) := s.newId
    { s with ctxs := s.ctxs ++ [newCtx l k id 0 .control (l.pcOf l.cmd.centry)] }

/-- RANGE_PLACE R235 to R237: the next range of the launch, when its VF may hold a cluster, its process and queue are
the ones to place, and a cluster is free. Those that are passed over because they fail the check of R236 are not tested again in
this window. -/
def execRangePlace (launchId : Nat) (s : State) : Host.Outcome State Fault Refusal :=
  match s.launch launchId with
  | none => .next s
  | some l =>
    match l.todo, s.freeCluster with
    | (a, b) :: rest, some clu =>
      if s.svc.dead || s.svc.recovery || l.status.isSome || l.drain || !s.vfPlaces l.vf || l.failedIn == some s.energy.window then
        .next s
      else if !s.spendOk l (b - a) then .next (s.passOver l.vf)
      else if (s.nextLaunch l.vf l.proc).map (·.id) != some l.id then .next s
      else match s.bid l.vf l.proc (b - a) with
        | none => .next s
        | some t => .next (((t.passOver l.vf).putRange l clu a b).modLaunch l.id fun l => { l with todo := rest })
    | _, _ => .next s

/-- RANGE_RETIRE R181: every context is gone, and nothing the range issued is outstanding. -/
def execRangeRetire (range : Nat) (s : State) : Host.Outcome State Fault Refusal :=
  match s.range range with
  | none => .next s
  | some r =>
    if s.ctxs.any (·.range == range) || !r.mq.isEmpty || s.xfers.any (·.range == range) then .next s
    else
      let s := s.modLaunch r.launchId fun l => { l with retired := l.retired + (r.hi - r.lo) }
      .next { s with ranges := s.ranges.filter (·.id != range) }

/-! ## Growth (R242) -/

/-- Adds `g` items to a launch: the rest of the last range's bounds, then new ranges. -/
def State.growLaunch (s : State) (l : Launch) (g : Nat) : State :=
  let n := l.n
  let k := (n - 1) / l.c
  let top := min ((k + 1) * l.c) (n + g)
  let mine (p : Nat × Nat) : Bool := p.1 / l.c == k
  let s := s.modLaunch l.id fun l => { l with n := n + g }
  let s :=
    if top ≤ n then s
    else match s.ranges.find? fun r => r.launchId == l.id && r.lo / l.c == k && r.hi == n with
      | some r => (s.modRange r.id fun r => { r with hi := top }).addSpans l { r with hi := top } n top
      | none =>
        s.modLaunch l.id fun l =>
          if l.todo.any mine then { l with todo := l.todo.map fun (p : Nat × Nat) => if mine p && p.2 == n then (p.1, top) else p }
          else { l with todo := l.todo ++ [(n, top)] }
  s.modLaunch l.id fun l => { l with todo := l.todo ++ rangesFrom l.c top (n + g) }

/-- GROW (R273). -/
def growBody (f : Fields) (i : Iss) (s : State) : Res :=
  let g := (i.uni 1 f.b).toNat % 2 ^ 32
  let l := (s.launch i.l.id).getD i.l
  if 2 ^ 32 - 1 < l.n + g then i.put s f.d (BitVec.allOnes 64)
  else i.put (if g == 0 then s else s.growLaunch l g) f.d (BitVec.ofNat 64 l.n)

/-- SPAWN (R272): the release comes first, whatever follows. -/
def spawnBody (f : Fields) (i : Iss) (s : State) : Res :=
  let qn := (i.uni 1 f.b).toNat % 2 ^ 32
  let va := i.uni 0 f.a
  let clu := i.r.cluster.getD 0
  let s := s.release clu i.c.id 3
  let q := s.queue qn
  let tail := s.tailOf qn
  if 131072 ≤ qn || q.vf != i.l.vf || q.proc != i.l.proc || !q.en then i.put s f.d 2
  else if tail - q.head.toNat == 2 ^ q.logsz then (if i.l.cmd.repro then .wait s (.stall (.ring qn)) else i.put s f.d 1)
  else if !canonical va then i.ctxFault s 7 1 false va
  else if va.toNat % 128 != 0 then i.ctxFault s 7 6 false va
  else match s.translateRange clu false i.l wantRead va 128, s.translateRange clu false i.l wantWrite (q.slot tail) 128 with
    | .error (a, m), _ => i.ctxMiss s 7 false a m
    | _, .error (a, m) => i.ctxMiss s 7 true a m
    | .ok ps, .ok qs =>
      let pas := (List.range 128).map fun k => (pieceAt ps k).1
      match s.readWait clu 2 i.l.id pas with
      | some (s, w) => .wait s w
      | none =>
        let s := s.collect fun d => pas.any fun p => d.meets p 1
        let bs := pas.map s.sliceSeen
        let s := ((List.range 128).zip bs).foldl (fun (s : State) x =>
          let p := pieceAt qs x.1
          ((s.prepare clu 3 p.1 1 p.2).writeByte clu 3 p.1 x.2).note 0 (.g p.1 false)) s
        i.put ((s.homeWriteN (s.tailPa qn) (leBytes 8 (tail + 1))).checkTail qn) f.d 0

/-- The per-item energy of R236; which way an inexact quotient goes is free. -/
def Launch.perItem (l : Launch) (free : Nat) : Nat :=
  if l.cmd.estimate != 0 then l.cmd.estimate
  else if l.retired == 0 then 0
  else l.energy / l.retired + (l.energy % l.retired != 0 && Config.freeBool free).toNat

/-- LNQ (R274). -/
def lnqBody (f : Fields) (i : Iss) (s : State) : Res :=
  let l := (s.launch i.l.id).getD i.l
  let mine := s.ranges.filter (·.launchId == l.id)
  let held := ((s.ctxs.filter fun c => mine.any (·.id == c.range)).map fun c => c.items.length).sum
  let waiting := (l.todo.map fun p => p.2 - p.1).sum
  let (k, s) := s.newFree
  let v := match f.b with
    | .imm x => (match x.toNat with
      | 0 => l.n
      | 1 => l.n - held - waiting
      | 2 => mine.length
      | 3 => l.todo.length
      | 4 => l.id
      | _ => l.perItem k)
    | _ => 0
  i.put s f.d (BitVec.ofNat 64 v)

/-! ## The meanings -/

/-- SPAWN R272. -/
def execSpawn (f : Fields) (s : State) : Host.Outcome State Fault Refusal := issueF 0xE2 f (spawnBody f) s

/-- GROW R273. -/
def execGrow (f : Fields) (s : State) : Host.Outcome State Fault Refusal := issueF 0xE3 f (growBody f) s

/-- LNQ R274. -/
def execLnq (f : Fields) (s : State) : Host.Outcome State Fault Refusal := issueF 0xE4 f (lnqBody f) s

end Sys2Proof.Machine
end

