-- ==== Sys2Proof/Machine/Sends.lean ====
section
/-! DEFINITION. Group sends (14 R333 to R341, 15 R356 to R361): readiness, steering, taking and parking of messages, and
the meanings of SENDG, OFFER, WDRAW, RECV, QSTAT, PSTAT and of MOV, which may pop a receive buffer (05 R97). -/

namespace Sys2Proof.Machine

/-! ## Messages (R336, R340) -/

def State.setMsg (s : State) (m : Msg) : State :=
  { s with sends := { s.sends with msgs := s.sends.msgs.map fun x => if x.id == m.id then m else x } }

def State.dropMsg (s : State) (id : Nat) : State :=
  { s with sends := { s.sends with msgs := s.sends.msgs.filter (·.id != id) } }

def State.msg (s : State) (id : Nat) : Option Msg := s.sends.msgs.find? (·.id == id)

/-- The message is gone. One whose PARKED has not reached its sender stands without a place until it does (R338, R340). -/
def State.endMsg (s : State) (m : Msg) : State :=
  if m.outcome == some 1 && m.node == s.fabric.node then s.setMsg { m with parked := false, held := none }
  else s.dropMsg m.id

/-- The messages parked here for the keys of (job, group), woken ones too. -/
def State.parkedFor (s : State) (job group : Nat) : List Msg :=
  s.sends.msgs.filter fun m => m.held.isSome && m.key.job == job && m.key.group == group

/-- They are dropped (R340). -/
def State.dropGroup (s : State) (job group : Nat) : State := (s.parkedFor job group).foldl State.endMsg s

/-! ## Readiness (R333) -/

/-- A LIVE bit of (job, group) is set for another child of the switch tier (R333). -/
def State.liveElsewhere (s : State) (job group : Nat) : Bool :=
  s.sends.ready.any fun x =>
    x.level == .fabric && x.child != s.fabric.node && x.key.job == job && x.key.group == group && x.live

/-- No launch of a job is left that holds members of a group: none here but the one that ends, and none elsewhere by the LIVE
bits of the switch tier (R333, R340). -/
def State.noneLeft (s : State) (ending job group : Nat) : Bool :=
  !(s.launches.any fun x => x.id != ending && x.status.isNone && x.cmd.job == job && x.groups.any (·.k == group)) &&
    !s.liveElsewhere job group

/-- READINESS_REPORT R333: a child tells its parent level its total. Inside the package, and of this package at the switch tier,
the total is the child's own; the tier's other counts come from outside. A context slot is named as core × 64 + slot, a core as
die × 128 + child. When the last LIVE bit of a group goes at the tier, what is parked here for it is dropped (R340). -/
def execReadinessReport (level : Level) (child : Nat) (key : Key) (total : Nat) (live : Bool) (s : State) :
    Host.Outcome State Fault Refusal :=
  let d := s.sends
  match level with
  | .core =>
    if s.slotTotal (child / 64) (child % 64) key == (total, live) then .next (s.report (child / 64) (child % 64) key)
    else .next s
  | .die =>
    if total == d.total .core child key && live == d.live .core child key then
      .next { s with sends := d.report .die (child / 128) (child % 128) key total live }
    else .next s
  | .pkg =>
    if total == d.total .die child key && live == d.live .die child key then
      .next (({ s with sends := d.report .pkg 0 child key total live } : State).tierReport d key)
    else .next s
  | .fabric =>
    if !s.fabric.tier then .next s
    else if child != s.fabric.node then
      let s : State := { s with sends := d.report .fabric 0 child key total live }
      .next (if s.noneLeft 0 key.job key.group then s.dropGroup key.job key.group else s)
    else if total == d.total .pkg 0 key && live == d.live .pkg 0 key then
      .next (({ s with sends := d.report .fabric 0 child key total live } : State).sendTier 4 (2 ^ 16))
    else .next s
  | .cluster => .next s

/-! ## Receive buffers (R334) -/

def round16 (n : Nat) : Nat := (n + 15) / 16 * 16

/-- A place of the ring, which wraps. -/
def ringAt (o : Nat) : Nat := 16 + (o - 16) % 496

def RecvRec.size (r : RecvRec) : Nat := 16 + round16 (4 * r.words.length)

/-- Ring bytes that records still occupy (R357). -/
def Chan.used (h : Chan) : Nat := (h.held.map (·.size)).sum

/-- RDOFF: the next word to pop, or where the next record starts. -/
def Chan.settle (h : Chan) : Chan :=
  let at_ := match h.held with
    | [] => h.wroff
    | r :: _ => ringAt (r.start + 16 + 4 * r.popped)
  { h with rdoff := at_ }

/-- Pops one word; a record is freed with its last word. -/
def Chan.pop (h : Chan) : W32 × Chan :=
  match h.held with
  | [] => (0, h)
  | r :: rest =>
    let x := (r.words[r.popped]?).getD 0
    let held := if r.popped + 1 < r.words.length then { r with popped := r.popped + 1 } :: rest else rest
    (x, { h with held := held }.settle)

/-- The bytes of a record. -/
def RecvRec.bytes (r : RecvRec) : List Byte :=
  leBytes 2 (4 * r.words.length) ++ leBytes 2 r.seq.toNat ++ leBytes 2 r.node ++ leBytes 2 0 ++ leBytes 4 r.core ++
    leBytes 4 0 ++ r.words.flatMap fun w => leBytes 4 w.toNat

/-- Writes a record into a channel's ring. -/
def Ctx.putRec (c : Ctx) (n : Nat) (r : RecvRec) : Ctx :=
  let put (m : Memory) (x : Nat × Byte) : Memory := Memory.write m (0x800 + 512 * n + ringAt (r.start + x.1)) x.2
  { c with priv := ((List.range r.bytes.length).zip r.bytes).foldl put c.priv }

/-- A context takes a message (R335). -/
def Ctx.take (c : Ctx) (m : Msg) : Ctx :=
  match c.chans[m.key.chan]? with
  | none => c
  | some h =>
    let r : RecvRec := { start := h.wroff, words := m.words, popped := 0, seq := m.seq, node := m.node, core := m.core }
    let h' : Chan := { h with offered := h.offered - 1, held := h.held ++ [r], wroff := ringAt (h.wroff + r.size) }
    (c.putRec m.key.chan r).putChan m.key.chan h'.settle

/-- The context qualifies for a message that reaches its core (R335). -/
def State.takes (s : State) (m : Msg) (c : Ctx) : Bool :=
  match s.launchOf c, c.chans[m.key.chan]? with
  | some l, some h =>
    c.kind != .control && c.resident && l.status.isNone && l.cmd.job == m.key.job && h.offered != 0 &&
    h.group == m.key.group && 4 * m.words.length ≤ h.limit && c.items.any (l.member m.key.group) &&
    ((s.range c.range).map (·.cluster.isSome)).getD false
  | _, _ => false

/-! ## Steering (R336, R337) -/

/-- Charges a tile's event of a message to its sender's tag (R341). -/
def State.chargeTag (s : State) (m : Msg) (tile raw : Nat) : State :=
  (s.charge tile m.vf m.proc m.launchId (m.node != s.fabric.node) raw).1

/-- The tile of a level: a core's cluster, a die's dispatcher, and for the package switch that of die 0 (R275, R370). -/
def Msg.tile (m : Msg) : Nat :=
  match m.level with
  | .core => clusterTile (if m.place < 1024 then m.place / 8 else m.place - 1024)
  | .die => m.place * 64 + 36
  | _ => 36

/-- The arrival of a message at a core, a die or the package switch: 64 EU (R370). -/
def State.arrived (s : State) (m : Msg) : State := s.chargeTag m m.tile (64 * 65536)

/-- The same at a level that it reaches. -/
def State.arrivedAt (s : State) (level : Level) (m : Msg) : State := s.arrived { m with level := level, place := 0 }

/-- Flits that this package sends for a message, at the group of their port (R329, R370). -/
def State.sendFlits (s : State) (m : Msg) (port : Option Nat) (n : Nat) : State :=
  match port with
  | some p => s.chargeTag m (portTile p) (s.coef (portTile p) 10 * n)
  | none => s

/-- The flits of a message of 224 payload bytes each (R323): how many bytes go with its data is open, so a message of
more than 192 bytes may need one more. -/
def Msg.flits (m : Msg) (free : Bool) : Nat :=
  let n := 4 * m.words.length
  (n + 223) / 224 + (192 < n && n ≤ 224 && free).toNat

/-- A Jalgus port is UP or DEGRADED. -/
def State.portsUp (s : State) : Bool := s.fabric.ports.any fun p => p.state == 2 || p.state == 3

/-- Parking places of the package switch that are taken: a woken message keeps its own (R2, R337). -/
def State.parkedHere (s : State) : Nat := (s.sends.msgs.filter fun m => m.held == some .pkg).length

/-- A live member of (job, group) anywhere that this package knows of: in its own launches, or by a LIVE bit at the
package switch or the switch tier (R333). -/
def State.anyLive (s : State) (key : Key) : Bool :=
  s.sends.live .pkg 0 key || s.liveElsewhere key.job key.group ||
  s.launches.any fun l => l.status.isNone && l.cmd.job == key.job && !(s.liveMembers l key.group).isEmpty

/-- The message parks at a level. Every parking, again at the place it held too, is the latest of its key
(notes/assumptions/96.md). -/
def State.park (s : State) (m : Msg) (level : Level) : State :=
  let (n, s) := s.newId
  s.setMsg { m with
    level := level, place := 0, climbing := true, came := false, parked := true, held := some level, order := n }

/-- A message whose climb ends at the package switch, the top: it parks again, ends, or parks (R337). -/
def State.endClimb (s : State) (m : Msg) : State :=
  if m.held.isSome then s.park m .pkg
  else if !s.anyLive m.key then s.setMsg { m with level := .pkg, place := 0, climbing := true, came := false, outcome := some 3 }
  else if s.parkedHere < 4096 then s.park { m with outcome := some 1 } .pkg
  else s.setMsg { m with level := .pkg, place := 0, climbing := true, came := false, outcome := some 2 }

/-- The message leaves for the switch tiers on VC 3 (R325), once a port can carry it; one of another package leaves this one. -/
def State.toFabric (s : State) (m : Msg) : State :=
  if !s.portsUp then s.setMsg { m with level := .pkg, place := 0, climbing := true, came := false }
  else
  let (k, s) := s.newFree
  let n := m.flits (Config.freeBool k)
  let s := s.sendFlits m (s.tierPort (m.id % 2 ^ 16)) n
  let s := (List.range n).foldl (fun s _ => s.sendTier 3 (m.id % 2 ^ 16)) s
  if m.node == s.fabric.node then s.setMsg { m with level := .fabric, place := 0, climbing := true, came := false }
  else s.dropMsg m.id

/-- The message moves to a child. -/
def State.goDown (s : State) (m : Msg) (k : Nat) : State :=
  let d := (s.sends.setNext m.level m.place m.key (k + 1)).pass m.level m.place k m.key
  let (level, place) := match m.level with
    | .pkg => (Level.die, k)
    | _ => (Level.core, m.place * 128 + k)
  let m := { m with level := level, place := place, climbing := false, came := true }
  (({ s with sends := d } : State).setMsg m).arrived m

/-- A message that has bounced 64 times goes to the top of its climb, by way of the package switch. -/
def State.toTop (s : State) (m : Msg) : State :=
  if s.fabric.tier then s.toFabric m else s.endClimb m

/-- The message bounces to the parent, which sets the child's count to 0; after 64 bounces it parks. -/
def State.bounce (s : State) (m : Msg) : State :=
  let (level, place, child) := match m.level with
    | .core => (Level.die, dieOf m.place, m.place % 128)
    | _ => (Level.pkg, 0, m.place)
  let m' := { m with level := level, place := place, climbing := true, came := false, bounces := m.bounces + 1 }
  let s := (({ s with sends := s.sends.zero level place child m.key } : State).setMsg m').arrived m'
  if m'.bounces < 64 then s
  else if m'.level == .pkg then s.toTop m'
  else
    let p := { m' with level := .pkg, place := 0 }
    ((s.setMsg p).arrived p).toTop p

/-- A message that came down from the switch tier and finds no count here goes back: the tier sets this package's count to 0
(R336). -/
def State.backUp (s : State) (m : Msg) : State :=
  if !m.came then s.toFabric m
  else
    ({ s with sends := s.sends.zero .fabric 0 s.fabric.node m.key } : State).toFabric { m with bounces := m.bounces + 1 }

/-- Every fabric-scope store of the sender before the message is acknowledged (R345 item 3). -/
def State.sendReady (s : State) (m : Msg) : Bool :=
  s.ops.all fun o => match o.what with
    | .remote _ false _ => !(o.ctxs.any m.ctxs.contains && o.id < m.id)
    | _ => true

/-- The message climbs to a level. -/
def State.climb (s : State) (m : Msg) (level : Level) (place : Nat) : State :=
  let m := { m with level := level, place := place }
  (s.setMsg m).arrived m

/-- The message is on its way: neither parked nor ended. -/
def Msg.moves (m : Msg) : Bool := !m.parked && (m.outcome.isNone || m.held.isSome)

/-- A message comes down to this package from a switch tier: it is charged to its sender's VF, and waits while that VF's
RBAL is not above 0 (R286, R336). A message has 16 to 256 bytes (R2). -/
def State.comeDown (s : State) (x : InMsg) : State :=
  if x.words.length < 4 || 64 < x.words.length then s
  else
  let (id, s) := s.newId
  let m : Msg :=
    { id := id, key := x.key, seq := x.seq, words := x.words, node := x.node, core := x.core, vf := x.vf
      proc := x.proc, launchId := 0, ctxs := [], opId := 0, level := .pkg, place := 0, climbing := false
      came := true, parked := false, held := none, order := 0, bounces := x.bounces, outcome := none, returned := false }
  let d := s.sends.pass .fabric 0 s.fabric.node x.key
  ({ s with sends := { d with msgs := d.msgs ++ [m] } } : State).arrived m

/-- One move of a message. -/
def State.steer (s : State) (m : Msg) : State :=
  let kids := s.sends.kids m.level m.place m.key
  match m.level with
  | .core =>
    if !m.climbing then s
    else if kids.isEmpty then s.climb m .die (dieOf m.place)
    else s.setMsg { m with climbing := false, came := false }
  | .die =>
    (match pick (s.sends.next .die m.place m.key) kids with
    | some k => s.goDown m k
    | none => if m.climbing then s.climb m .pkg 0 else s.bounce m)
  | .pkg =>
    if 64 ≤ m.bounces then s.toTop m
    else
    (match pick (s.sends.next .pkg 0 m.key) kids with
    | some k => s.goDown m k
    | none => if s.fabric.tier then s.backUp m else s.endClimb m)
  | _ => s

/-- MESSAGE_STEER R336: a message on its way makes one move, after the release before it; or a message comes down from a
switch tier. -/
def execMessageSteer (msg : Nat) (arrives : Option InMsg) (s : State) : Host.Outcome State Fault Refusal :=
  match arrives with
  | some x =>
    if !s.fabric.tier then .next s
    else match s.msg msg with
      | some m =>
        if m.level == .fabric && m.node == s.fabric.node && !s.unsent (m.id % 2 ^ 16) &&
            (m.outcome.isNone || m.held.isSome) then
          let m := { m with
            level := .pkg, place := 0, climbing := false, came := true, parked := false, bounces := max m.bounces x.bounces }
          .next ((({ s with sends := s.sends.pass .fabric 0 s.fabric.node m.key } : State).setMsg m).arrived m)
        else .next s
      | none =>
        if x.node == s.fabric.node then .next s
        else if (s.acct x.vf).rbal ≤ 0 then
          .next { s with fabric := { s.fabric with queued := s.fabric.queued ++ [⟨x.node, 0, x.vf, 0, .send x⟩] } }
        else .next (s.comeDown x)
  | none =>
    match s.msg msg with
    | none => .next s
    | some m =>
      if !m.moves || !s.sendReady m then .next s
      else .next (s.steer m)

/-- MESSAGE_TAKE R335: at a core, the first context in round-robin order that qualifies takes the message; with none it
bounces, or climbs on from its own core. -/
def execMessageTake (msg : Nat) (s : State) : Host.Outcome State Fault Refusal :=
  match s.msg msg with
  | none => .next s
  | some m =>
    if m.level != .core || m.climbing || !m.moves then .next s
    else
      let here := s.ctxs.filter fun c => c.kind != .control && s.coreNumber c == m.place && s.takes m c
      match pick (s.sends.next .core m.place m.key) (here.filterMap (·.seat)) with
      | some seat =>
        let s := here.foldl (fun (s : State) c => if c.seat == some seat then s.modCtx c.id fun c => c.take m else s) s
        let s := { s with sends := s.sends.setNext .core m.place m.key (seat + 1) }
        let s := s.report m.place seat m.key
        let s := s.chargeTag m m.tile (s.coef m.tile 5 * (16 + 4 * m.words.length))
        let s := if m.node == s.fabric.node then s
          else (s.sendFlits m (s.portFor m.node (m.id % 2 ^ 16)) 1).sendData 1 m.node (m.id % 2 ^ 16)
        if m.node == s.fabric.node && m.held.isNone then .next (s.setMsg { m with outcome := some 0 })
        else .next (s.endMsg m)
      | none =>
        if m.came then .next (s.bounce m)
        else
          let kids := s.sends.kids .core m.place m.key
          let d := kids.foldl (fun (d : Sends) k => d.zero .core m.place k m.key) s.sends
          .next (({ s with sends := d } : State).setMsg { m with climbing := true })

/-- PARKED_WAKE R337: with a count for its key at the package switch or a tier, the message that parked first climbs
again from its place, one for each unit. -/
def execParkedWake (key : Key) (s : State) : Host.Outcome State Fault Refusal :=
  let far := s.sends.ready.filter fun x => x.at .fabric 0 key && x.child != s.fabric.node
  let total := s.sends.total .pkg 0 key + (far.map (·.total)).sum
  let woken := (s.sends.msgs.filter fun m => m.key == key && m.held.isSome && !m.parked).length
  match leastBy Msg.order (s.sends.msgs.filter fun m => m.key == key && m.parked && m.level == .pkg) with
  | none => .next s
  | some m =>
    if total ≤ woken then .next s
    else .next (s.setMsg { m with parked := false, climbing := true, came := false })

/-- A status reaches its sender (R338). -/
def State.sendDone (s : State) (m : Msg) (status : Nat) : State :=
  let dst := (s.op m.opId).bind fun o => match o.what with
    | .send _ d => d
    | _ => none
  s.completeOp m.opId (dst.toList.map fun r => (LDst.scal r, BitVec.ofNat 64 status))

/-- SEND_STATUS_RETURN R338: a status returns; or the switch tiers say what became of a message that is with them: it is
taken, it parks there, no tier has room for it, or it has no live member. Then it parks at this package switch, again in
the place it held if it was woken, or is refused (R337). -/
def execSendStatusReturn (msg status : Nat) (s : State) : Host.Outcome State Fault Refusal :=
  match s.msg msg with
  | none => .next s
  | some m =>
    if m.node != s.fabric.node then .next s
    else if m.outcome == some status && !(m.level == .fabric && m.moves) then
      (if status != 1 then .next ((s.dropMsg m.id).sendDone m status)
      else if m.held.isNone then .next ((s.dropMsg m.id).sendDone m 1)
      else .next ((s.setMsg { m with outcome := none, returned := true }).sendDone m 1))
    else if m.level != .fabric || !(m.moves || m.parked) || 3 < status || s.unsent (m.id % 2 ^ 16) then .next s
    else if status == 0 then
      (if m.held.isSome then .next (s.endMsg m) else .next ((s.dropMsg m.id).sendDone m 0))
    else if status == 1 then
      .next (s.park { m with outcome := if m.held.isSome then m.outcome else some 1 } .fabric)
    else if m.held.isSome then
      (if status != 2 then .next s
      else if m.held == some .pkg || s.parkedHere < 4096 then .next ((s.park m .pkg).arrivedAt .pkg m)
      else .next (s.park m .fabric))
    else if status == 2 && s.parkedHere < 4096 then .next ((s.park { m with outcome := some 1 } .pkg).arrivedAt .pkg m)
    else .next ((s.dropMsg m.id).sendDone m status)

/-- The parked messages for the groups of a launch that no other launch is left to serve. -/
def State.ownMsgs (s : State) (l : Launch) : List Msg :=
  s.sends.msgs.filter fun m =>
    m.held.isSome && m.key.job == l.cmd.job && l.groups.any (fun g => g.k == m.key.group) && s.noneLeft l.id l.cmd.job m.key.group

/-- They are dropped when it ends, woken ones too; answers how many (R340). -/
def State.dropParked (s : State) (l : Launch) : State × Nat := ((s.ownMsgs l).foldl State.endMsg s, (s.ownMsgs l).length)

/-! ## The instructions -/

/-- The channel of an instruction (R347). -/
def chanNo (f : Fields) : Nat := f.mod.toNat % 4

/-- A range of bytes in .g or .x: translated pieces or a location, or the lowest address whose check fails (R372). -/
def Iss.rangeLoc (i : Iss) (s : State) (space : Nat) (va : W64) (n : Nat) (w : Want) :
    Except (W64 × Miss) (List Piece × Option Loc) :=
  if space == 0 then (s.translateRange (i.r.cluster.getD 0) false i.l w va n).map fun ps => (ps, none)
  else match s.locate i.c space va n false w with
    | .ok loc => .ok ([], some loc)
    | .error m => .error ((s.firstBad i.c space va n w).getD (va, m))

/-- Reads a range through the cluster L1, or from scratch. -/
def Iss.readRange (i : Iss) (s : State) (ps : List Piece) (loc : Option Loc) (n : Nat) : State × List Byte :=
  let clu := i.r.cluster.getD 0
  match loc with
  | some (.scratch core off) =>
    (s, (List.range n).map fun k => s.unlessOpen i.r.id (.scratch core (off + k))
      (Memory.read ((s.range i.r.id).getD i.r).scratch (core * 2 ^ 20 + off + k)))
  | some (.control off) => (s, Memory.readN ((s.range i.r.id).getD i.r).cscratch off n)
  | some (.priv off) => (s, Memory.readN ((s.ctx i.c.id).getD i.c).priv off n)
  | _ =>
    let pas := (List.range n).map fun k => (pieceAt ps k).1
    let s := s.collect fun d => pas.any fun p => d.meets p 1
    (s, pas.map fun pa => s.unlessOpen i.r.id (.g pa false) (s.l1Read clu pa))

/-- Writes a range through the cluster L1, or to scratch. -/
def Iss.writeRange (i : Iss) (s : State) (ps : List Piece) (loc : Option Loc) (bs : List Byte) : State :=
  let clu := i.r.cluster.getD 0
  match loc with
  | some (.scratch core off) =>
    (s.noteScratch i.r.id core off bs.length).modRange i.r.id fun r =>
      { r with scratch := Memory.writeN r.scratch (core * 2 ^ 20 + off) bs }
  | some (.control off) => s.modRange i.r.id fun r => { r with cscratch := Memory.writeN r.cscratch off bs }
  | some (.priv off) => s.modCtx i.c.id fun c => { c with priv := Memory.writeN c.priv off bs }
  | _ =>
    ((List.range bs.length).zip bs).foldl (fun (s : State) x =>
      let p := pieceAt ps x.1
      ((s.prepare clu 1 p.1 1 p.2).l1Write clu p.1 x.2).note 0 (.g p.1 false)) s

/-- The 32-bit words of bytes. -/
def wordsOf (bs : List Byte) : List W32 :=
  (List.range (bs.length / 4)).map fun k => BitVec.ofNat 32 (leVal ((bs.drop (4 * k)).take 4))

/-- SENDG (R356). -/
def sendgBody (f : Fields) (i : Iss) (s : State) : Res :=
  let n := (i.uni 1 f.b).toNat % 2 ^ 32
  let va := i.uni 0 f.a
  let clu := i.r.cluster.getD 0
  if n < 16 || 256 < n || n % 4 != 0 then .trap s 6 7 (maskOf i.lanes) 0
  else if s.fabric.tier && !s.portsUp then .trap s 4 1 (maskOf i.lanes) 0
  else if f.var == 1 && s.seqOut i.c.id (chanNo f) then .wait s (.stall (.seq (chanNo f)))
  else match i.rangeLoc s f.space va n wantRead with
    | .error (a, m) => i.ctxMiss s 7 false a m
    | .ok (ps, loc) =>
      match s.readWait clu 1 i.l.id (if loc.isSome then [] else (List.range n).map fun k => (pieceAt ps k).1) with
      | some (s, w) => .wait s w
      | none =>
        let s := s.release clu i.c.id 4
        let (s, bs) := i.readRange s ps loc n
        let s := s.chargeBytes i n (ps.map (·.pa))
        let (mid, s) := s.newId
        let (id, s) := s.startOp i (.send mid (destScal f.d))
        let m : Msg :=
          { id := mid, key := ⟨i.l.cmd.job, f.x.toNat, chanNo f⟩, seq := f.var == 1, words := wordsOf bs
            node := s.fabric.node, core := i.s.coreNumber i.c, vf := i.l.vf, proc := i.l.proc, launchId := i.l.id
            ctxs := [i.c.id], opId := id, level := .core, place := i.s.coreNumber i.c, climbing := true, came := false
            parked := false, held := none, order := 0, bounces := 0, outcome := none, returned := false }
        .done ((({ s with sends := { s.sends with msgs := s.sends.msgs ++ [m] } } : State).arrived m).holdOn i id)

/-- The channel of the issuing context. -/
def Iss.chan (i : Iss) (n : Nat) : Chan := (i.c.chans[n]?).getD Chan.reset

/-- OFFER (R357). -/
def offerBody (f : Fields) (i : Iss) (s : State) : Res :=
  let n := (i.uni 1 f.b).toNat % 2 ^ 32
  let lim := (i.uni 0 f.a).toNat % 2 ^ 32
  let g := f.x.toNat
  let ch := chanNo f
  let h := i.chan ch
  if lim < 16 || 256 < lim || lim % 4 != 0 || 65535 < n then .trap s 6 9 (maskOf i.lanes) 0
  else if !i.c.items.any (i.l.member g) then i.put s f.d 1
  else if n == 0 then i.put s f.d 0
  else if h.offered != 0 && (h.group != g || h.limit != lim) then i.put s f.d 2
  else if 496 < h.used + (h.offered + n) * (16 + round16 lim) then i.put s f.d 3
  else
    let s := s.modCtx i.c.id fun c => c.putChan ch { h with offered := h.offered + n, group := g, limit := lim }
    i.put (s.report (s.coreNumber i.c) (i.c.seat.getD 0) ⟨i.l.cmd.job, g, ch⟩) f.d 0

/-- WDRAW (R359). -/
def wdrawBody (f : Fields) (i : Iss) (s : State) : Res :=
  let ch := chanNo f
  let h := i.chan ch
  if h.offered == 0 then i.put s f.d 0
  else
    let s := s.modCtx i.c.id fun c => c.putChan ch { h with offered := 0 }
    i.put (s.report (s.coreNumber i.c) (i.c.seat.getD 0) ⟨i.l.cmd.job, h.group, ch⟩) f.d (BitVec.ofNat 64 h.offered)

/-- RECV (R360). -/
def recvBody (f : Fields) (i : Iss) (s : State) : Res :=
  let ch := chanNo f
  let h := i.chan ch
  let va := i.uni 0 f.a
  let clu := i.r.cluster.getD 0
  match h.held with
  | [] => if h.offered == 0 then .trap s 4 2 (maskOf i.lanes) 0 else .wait s (.stall (.words ch 1))
  | r :: rest =>
    let ws := r.words.drop r.popped
    let n := 4 * ws.length
    match i.rangeLoc s f.space va n wantWrite with
    | .error (a, m) => i.ctxMiss s 7 true a m
    | .ok (ps, loc) =>
      match s.readWait clu 2 i.l.id ((List.range n).filterMap fun k =>
          let pa := (pieceAt ps k).1
          if loc.isNone && s.underTest pa then some pa else none) with
      | some (s, w) => .wait s w
      | none =>
      let s := i.writeRange s ps loc (ws.flatMap fun w => leBytes 4 w.toNat)
      let s := s.chargeBytes i n (ps.map (·.pa))
      let s := s.modCtx i.c.id fun c => c.putChan ch { h with held := rest }.settle
      let s := s.acquire clu 4
      let v := n + r.node * 2 ^ 16 + r.seq.toNat * 2 ^ 29 + r.core * 2 ^ 32
      .done (s.results i f.d true true [(0, BitVec.ofNat 64 v)])

/-- QSTAT (R361). -/
def qstatBody (f : Fields) (i : Iss) (s : State) : Res :=
  let ch := chanNo f
  let h := i.chan ch
  let rest := match h.held with
    | [] => 0
    | r :: _ => 4 * (r.words.length - r.popped)
  let v := h.held.length + h.offered * 2 ^ 16 + rest * 2 ^ 32 + (s.seqOut i.c.id ch).toNat * 2 ^ 48 + h.group * 2 ^ 56
  i.put s f.d (BitVec.ofNat 64 v)

/-- PSTAT (R362). -/
def pstatBody (f : Fields) (i : Iss) (s : State) : Res :=
  let n := (i.uni 1 f.b).toNat % 2 ^ 32
  if 128 < n then .trap s 6 8 (maskOf i.lanes) 0
  else if n == 128 then i.put s f.d (BitVec.ofNat 64 s.fabric.failed.length)
  else i.put s f.d (BitVec.ofNat 64 (maskOf ((s.fabric.failed.filter fun k => k / 64 == n).map (· % 64))))

/-- The channel that a queue register names. -/
def queueOf (o : Opnd) : Option Nat :=
  match o with
  | .q r => some r.toNat
  | _ => none

/-- One value reaches D of every active item: a strand's lanes, held in U form where all are present, or the whole context. -/
def Iss.deliverAll (i : Iss) (c : Ctx) (d : Opnd) (wide : Bool) (v : W64) : Ctx :=
  match d with
  | .v r =>
    if c.kind == .strand then i.putLanes c r.toNat wide (i.lanes.map (·, v)) (.u v) else c.writeForm r.toNat wide (.u v)
  | d => c.writeScalD d v

/-- MOV (R97). From a queue register it pops one word, or two under a 64-bit type. -/
def movBody (f : Fields) (i : Iss) (s : State) : Res :=
  match queueOf f.b with
  | none => copyBody f 1 f.b i s
  | some ch =>
    let wide := f.ty.is64
    let need := if wide then 2 else 1
    let h := i.chan ch
    if h.waiting < need then
      (if h.offered == 0 then .trap s 4 2 (maskOf i.lanes) 0 else .wait s (.stall (.words ch need)))
    else if i.splits f.d wide then i.needLanes s
    else
      let (x, h) := h.pop
      let (y, h) := if wide then h.pop else (0, h)
      let n := x.toNat + y.toNat * 2 ^ 32
      let s := s.modCtx i.c.id fun c => c.putChan ch h
      let v : W64 := if wide then BitVec.ofNat 64 n else regBits f.ty n
      .done (s.modCtx i.c.id fun c => i.deliverAll c f.d wide v)

/-! ## The meanings -/

/-- SENDG R356. -/
def execSendg (f : Fields) (s : State) : Host.Outcome State Fault Refusal := issueF 0xC2 f (sendgBody f) s

/-- OFFER R357. -/
def execOffer (f : Fields) (s : State) : Host.Outcome State Fault Refusal := issueF 0xC3 f (offerBody f) s

/-- WDRAW R359. -/
def execWdraw (f : Fields) (s : State) : Host.Outcome State Fault Refusal := issueF 0xC4 f (wdrawBody f) s

/-- RECV R360. -/
def execRecv (f : Fields) (s : State) : Host.Outcome State Fault Refusal := issueF 0xC5 f (recvBody f) s

/-- QSTAT R361. -/
def execQstat (f : Fields) (s : State) : Host.Outcome State Fault Refusal := issueF 0xC6 f (qstatBody f) s

/-- PSTAT R362. -/
def execPstat (f : Fields) (s : State) : Host.Outcome State Fault Refusal := issueF 0xE5 f (pstatBody f) s

/-- MOV R97. -/
def execMov (f : Fields) (s : State) : Host.Outcome State Fault Refusal := issueF 0x43 f (movBody f) s

end Sys2Proof.Machine
end

