-- ==== Sys2Proof/Machine/LaunchEnd.lean ====
section
/-! DEFINITION. The end of a launch (10 R231, R232), the final write of RED.ord (R64, 11 R266), and the boundaries at which
work stops, with the saving of cluster ranges (08 R192, 12 R283, R284, R287 to R290). -/

namespace Sys2Proof.Machine

/-! ## RED.ord -/

/-- The value of the node of R64's tree over 2^d leaves from `base` on. -/
def ordTree (t : Ty) (leaves : List (Nat × W64)) : Nat → Nat → W64
  | 0, base => (kget leaves base).getD 0
  | d + 1, base =>
    if leaves.any fun x => base ≤ x.1 && x.1 < base + 2 ^ (d + 1) then
      BitVec.ofNat 64 (fltItem .add t 0 (ordTree t leaves d base) (ordTree t leaves d (base + 2 ^ d)) 0)
    else 0

/-- log2 of the least power of two not below n. -/
def log2up (n : Nat) : Nat := ((List.range 33).find? fun d => n ≤ 2 ^ d).getD 33

/-- round(initial + T): what the location receives. -/
def RedLoc.final (r : RedLoc) (n : Nat) : Nat :=
  fltItem .add r.ty 0 r.initial (ordTree r.ty r.leaves (log2up n) 0) 0

/-- The final writes of a launch, at fabric scope. -/
def State.redFinal (s : State) (l : Launch) : State :=
  l.reds.foldl (fun (s : State) r =>
    ((s.prepare noCluster 4 r.pa r.ty.bytes false).writeBytes noCluster 4 r.pa (leBytes r.ty.bytes (r.final l.n))).awaitAcksOf
      0 l.id 0 [r.pa]) s

/-! ## What a launch holds -/

/-- The ranges, contexts and operations of a launch. -/
def State.rangesOf (s : State) (launchId : Nat) : List Range := s.ranges.filter (·.launchId == launchId)

def State.ctxsOf (s : State) (launchId : Nat) : List Ctx :=
  s.ctxs.filter fun c => (s.rangesOf launchId).any (·.id == c.range)

/-- A lock word at its home: this package's, or another's (R245). -/
def State.homeLock (s : State) (pa : Nat) : LockWord :=
  LockWord.ofNat (if s.remote pa then leVal (s.homeReadN pa 4) else s.sliceVal pa 4)

def State.putHomeLock (s : State) (pa : Nat) (w : LockWord) : State :=
  if s.remote pa then s.homeWriteN pa (leBytes 4 w.toNat) else s.sliceWriteN pa (leBytes 4 w.toNat)

/-- Withdraws the parked lock requests of contexts: a withdrawn writer leaves the count, and the waiters left are tested
(R245, R268). -/
def State.withdrawLocks (s : State) (ids : List Nat) : State :=
  (s.mem.lockq.filter fun x => x.peer.isNone && ids.contains x.ctx).foldl (fun (s : State) x =>
    let s := { s with mem := { s.mem with lockq := s.mem.lockq.filter (·.id != x.id) } }
    if x.write then
      let (s, w) := s.lockTest x.pa (s.homeLock x.pa).unwait
      s.putHomeLock x.pa w
    else s) s

/-- The records of a launch's stamped stores that are on their way to their homes: here they are taken at once, elsewhere
their acknowledgement is awaited (R231, R321). -/
def State.sentRecords (s : State) (id : Nat) (ids : List Nat) : State :=
  (s.ops.filter fun o => o.ctxs.any ids.contains).foldl (fun (s : State) o => match o.what with
    | .sts r .sent _ _ => if s.remote r.pa then s.awaitAck 0 id (nodeOf r.pa) none else (s.takeRecord r).1
    | _ => s) s

/-- Everything of a launch but its unacknowledged stores is removed. Messages still held are drops (R335), but for a
checkpoint, whose image has them. -/
def State.clearLaunch (s : State) (id status : Nat) : State :=
  let cs := s.ctxsOf id
  let ids := cs.map (·.id)
  let rs := (s.rangesOf id).map (·.id)
  let held := if status == 9 then 0 else (cs.map fun c => (c.chans.map (·.held.length)).sum).sum
  let s := (s.withdrawLocks ids).sentRecords id ids
  let s := { s with
    ctxs := s.ctxs.filter fun c => !ids.contains c.id
    ranges := s.ranges.filter fun r => !rs.contains r.id
    ops := s.ops.filter fun o => !o.holds || !(o.ctxs.any ids.contains)
    xfers := s.xfers.filter fun x => !rs.contains x.range }
  s.modLaunch id fun l => { l with drops := l.drops + held, todo := [] }

/-- Every dirty byte of the package goes to its home (R231 step 1, R331). -/
def State.flushAll (s : State) (launchId : Nat) : State :=
  let dirty := (s.mem.l1.filter (·.2.dirty)).map (·.1 % 2 ^ 56)
  ((List.range 128).foldl (fun (s : State) clu => s.writeBackL1 clu) s).releaseLow 0 launchId 0 dirty

/-- A store of the launch is not yet acknowledged, or the record of a stamped store is on its way. -/
def State.launchUnacked (s : State) (launchId : Nat) : Bool :=
  s.ops.any fun o => match o.what with
    | .remote _ false l => l == launchId
    | .sts _ .sent _ _ => o.ctxs.any fun x => s.launchIdOf x == launchId
    | _ => false

/-- The LIVE bits that the launch's dispatcher set at the package switch go, where no member lies below and no other launch
has members to come (R333). -/
def State.clearLive (s : State) (l : Launch) : State :=
  l.groups.foldl (fun s g =>
    let key : Key := ⟨l.cmd.job, g.k, 0⟩
    (List.range 8).foldl (fun (s : State) die =>
      let more := s.launches.any fun x => x.id != l.id && x.status.isNone && x.cmd.job == l.cmd.job && !x.todo.isEmpty &&
        x.groups.any (·.k == g.k) && (s.taken x.taken).any (·.queue % 8 == die)
      ({ s with sends := s.sends.report .pkg 0 die key (s.sends.total .die die key) (s.sends.live .die die key || more) } :
        State).tierReport s.sends key) s) s

/-! ## LAUNCH_END -/

/-- The root of each of its groups hears that a launch has ended (R191). -/
def State.tellEnd (s : State) (l : Launch) : State :=
  l.groups.foldl (fun (s : State) g =>
    let root := s.rootOf l.cmd.job g.k
    if root == s.fabric.node then s else s.barrierFlit l.id root) s

/-- The energy charged to a launch: posted, and the whole EU that its tiles have not posted yet. -/
def State.energyOf (s : State) (l : Launch) : Nat :=
  l.energy + ((s.energy.charges.filter fun c => c.launchId == l.id && !c.remote).map (·.amount / 65536)).sum

/-- The work of the launch ends (R231 step 1): its last stores go out, then the final values of its reductions, which replace
what stands at their locations (R266); its parked messages are dropped (R340). A checkpoint has moved its reductions and
messages into its image. -/
def State.stopLaunch (s : State) (l : Launch) (status : Nat) : State :=
  let s := s.modLaunch l.id fun l => { l with status := some status, tend := some s.mer.lo }
  let cs := s.ctxsOf l.id
  let s := s.clearLaunch l.id status
  let s := ((cs.map s.coreNumber).eraseDups).foldl State.reportCore s
  let s := (s.clearLive l).flushAll l.id
  let s := (if status == 9 then s else s.redFinal l).tellEnd l
  let s := s.setAcct l.vf { s.acct l.vf with resident := true }
  let (s, n) := s.dropParked l
  s.modLaunch l.id fun l => { l with drops := l.drops + n }

/-- Its completion record (R232). -/
def State.launchRecord (s : State) (l : Launch) : List Byte :=
  let st := l.status.getD 0
  let tend := l.tend.getD s.mer.lo
  recordOf st l.id (s.energyOf l) l.n l.drops (l.tstart.getD tend) tend (if st == 3 || st == 4 then l.frame else [])
    (l.frec.getD [])

/-- The record and the completion word, once every store is acknowledged (R231 steps 2 and 3). -/
def State.finishLaunch (s : State) (id : Nat) : State :=
  match s.launch id with
  | none => s
  | some l =>
    match s.taken l.taken with
    | none => { s with launches := s.launches.filter (·.id != id) }
    | some t =>
      if s.launchUnacked id then s
      else
        let (s, done) := s.complete t (l.status.getD 0) l.id (s.launchRecord l)
        if done then
          ({ s with launches := s.launches.filter (·.id != id) } : State).notify l.vf
            ⟨1, l.id, l.status.getD 0, t.cmd.recaddr⟩
        else s

/-- LAUNCH_END R231: a launch with a status, or with every range retired, ends. -/
def execLaunchEnd (launchId : Nat) (s : State) : Host.Outcome State Fault Refusal :=
  match s.launch launchId with
  | none => .next s
  | some l =>
    if l.tend.isSome then .next (s.finishLaunch launchId)
    else if l.status.isNone && (l.drain || !l.todo.isEmpty || !(s.rangesOf launchId).isEmpty) then .next s
    else .next ((s.stopLaunch l (l.status.getD 0)).finishLaunch launchId)

/-! ## Boundaries (R284, R287) -/

/-- An operation that must complete before its range is saved: it waits on no other party, or is a send in flight. -/
def Op.inFlight (o : Op) : Bool :=
  match o.what with
  | .ready => true
  | .fence _ _ _ _ => true
  | .remote _ failed _ => !failed
  | .visit _ => true
  | .send _ _ => true
  | _ => false

/-- Every piece of the range's work is at its boundary; an access parked on a demand page stays parked. -/
def State.rangeStopped (s : State) (r : Range) : Bool :=
  let ids := (s.ctxs.filter (·.range == r.id)).map (·.id)
  !(s.ctxs.any fun c => c.range == r.id && c.trap == .slot) &&
  !(s.ops.any fun o => o.inFlight && o.ctxs.any ids.contains) &&
  !(s.xfers.any fun x => x.range == r.id && x.mcst) &&
  match r.mq with
  | e :: _ => !e.started || e.op == 0xB0 || e.op == 0xB1 || e.parked.isSome
  | [] => true

def State.launchStopped (s : State) (id : Nat) : Bool := (s.rangesOf id).all s.rangeStopped

/-! ## Saving and restoring -/

/-- The numbers g of a cluster's cores and control core (R299). -/
def clusterGs (clu : Nat) : List Nat := (1024 + clu) :: (List.range 8).map (8 * clu + ·)

/-- The largest logical clock of a cluster's cores (R289, R299). -/
def State.clusterClock (s : State) (clu : Nat) : Nat :=
  ((clusterGs clu).map fun g => (kget s.mem.clocks g).getD 0).foldl max 0

def State.raiseClocks (s : State) (clu v : Nat) : State :=
  let clocks := (clusterGs clu).foldl
    (fun m g => if v ≤ (kget m g).getD 0 then m else kset m g v) s.mem.clocks
  { s with mem := { s.mem with clocks := clocks } }

/-- Where the state of a range finds room: the range save region of its die, else the VF's pool (R238, R239). -/
def State.saveRoom (s : State) (r : Range) (vf clu : Nat) : Option Nat :=
  let die := clu / 16
  let used := ((s.ranges.filter fun x => x.saved && x.store == die).map s.savedBytes).sum
  if used + s.savedBytes r ≤ 80 * 2 ^ 20 then some die
  else if s.poolRoom vf (s.savedBytes r) then some 8
  else none

/-- Saves a stopped range and frees its cluster (R287 steps 3 and 4); its stores are at their homes first, the engine's TLB
is saved with it (R195), and its contexts withdraw their offers (R335). -/
def State.saveRange (s : State) (r : Range) (vf : Nat) (atBarrier : Bool) : Option State :=
  match r.cluster with
  | none => none
  | some clu =>
    match s.saveRoom r vf clu with
    | none => none
    | some store =>
      let s := s.writeBackL1 clu
      let (n, s) := s.newId
      let clock := s.clusterClock clu
      let s := (s.launch r.launchId).elim s fun l => if store == 8 then s.chargePool l.vf l.proc l.id (s.savedBytes r) else s
      let mine (t : Tlb) : Bool := t.clu == clu && t.engine
      let s := s.modRange r.id fun r =>
        { r with
          cluster := none, saved := true, order := n, atBarrier := atBarrier, store := store, clock := clock
          etlb := s.mem.tlb.filter mine }
      let s := { s with
        ctxs := s.ctxs.map fun (c : Ctx) => if c.range == r.id then { c with active := false, seat := none } else c
        mem := { s.mem with tlb := s.mem.tlb.filter fun t => !mine t } }
      some (((List.range 8).map (8 * clu + ·)).foldl State.reportCore s)

/-- Saves every stopped range of a list that finds room. -/
def State.saveRanges (s : State) (vf : Nat) (rs : List Range) : State :=
  rs.foldl (fun (s : State) r => (s.saveRange r vf false).getD s) s

/-- VF_STOPPED R283: every piece of the VF's work is at its boundary: its ranges are saved, and STOPPING becomes
STOPPED. A range without room stays on its cluster (R239). -/
def execVfStopped (vf : Nat) (s : State) : Host.Outcome State Fault Refusal :=
  let a := s.acct vf
  let ls := s.launches.filter (·.vf == vf)
  if (a.state != 1 && !a.sliceOver) || !(ls.all fun l => s.launchStopped l.id) then .next s
  else
    let s := if a.state == 1 then s.setAcct vf { a with state := 2 } else s
    .next (s.saveRanges vf (ls.flatMap fun l => (s.rangesOf l.id).filter (·.cluster.isSome)))

/-- SLICE_END R235: the VF stops; STATE does not change (R283). -/
def execSliceEnd (vf : Nat) (s : State) : Host.Outcome State Fault Refusal :=
  if 64 ≤ vf then .next s else .next (s.setAcct vf { s.acct vf with sliceOver := true })

/-- PERIOD_START R235: a new slice, but for a VF that may hold no cluster. -/
def execPeriodStart (vf : Nat) (s : State) : Host.Outcome State Fault Refusal :=
  let a := s.acct vf
  if 64 ≤ vf || (a.sliceOver && (a.slice == 0 || a.period == 0 || a.clumax == 0)) then .next s
  else .next (s.setAcct vf { a with sliceOver := false })

/-- Every context of the range waits at a BARG or has ended (R192). -/
def State.allAtBarrier (s : State) (r : Range) : Bool :=
  (s.ctxs.filter (·.range == r.id)).all fun c => match c.wait with
    | .group _ _ _ => true
    | .ended => true
    | _ => c.kind != .control && c.items.isEmpty

/-- BARRIER_RANGE_SAVE R192: a range whose contexts all wait at a BARG makes room for another of its launch. -/
def execBarrierRangeSave (range : Nat) (s : State) : Host.Outcome State Fault Refusal :=
  match s.range range with
  | none => .next s
  | some r =>
    match s.launch r.launchId with
    | none => .next s
    | some l =>
      let more := !l.todo.isEmpty || s.ranges.any fun x => x.launchId == l.id && x.saved
      if !more || !s.allAtBarrier r || !s.rangeStopped r then
        .next s
      else .next ((s.saveRange r l.vf true).getD s)

/-- The working cores of a cluster have slots and store for a range's logical cores (R290). -/
def State.roomOn (s : State) (l : Launch) (r : Range) (clu : Nat) : Bool :=
  let n := (s.workCores clu).length
  (List.range n).all fun p =>
    let cs := s.ctxs.filter fun c => c.range == r.id && c.resident && c.kind != .control && c.core % n == p
    let areas := ((List.range r.m).filter fun k => k % n == p).length
    cs.length ≤ 64 && areas * (round256 l.s / 256) + (cs.map (·.blocks l)).sum ≤ 3584

/-- The items that a range holds. -/
def State.itemsIn (s : State) (r : Range) : Nat := ((s.ctxs.filter (·.range == r.id)).map fun c => c.items.length).sum

/-- A saved range may be placed, its VF and cluster and the check of R236 apart: a barrier save waits for its release
(R192), and one that failed that check for the next window. -/
def State.waitsPlace (s : State) (r : Range) : Bool :=
  r.saved && !(r.atBarrier && s.allAtBarrier r) && r.failedIn != some s.energy.window &&
  (s.launch r.launchId).any fun l => l.status.isNone && !l.drain

/-- It may be placed now: the check of R236 counts the items it holds. -/
def State.mayRestore (s : State) (r : Range) : Bool :=
  s.waitsPlace r && (s.launch r.launchId).any fun l => s.spendOk l (s.itemsIn r)

/-- The saved ranges of a VF up to one in the order that fail the check of R236 wait for the next window. -/
def State.passRanges (s : State) (vf upTo : Nat) : State :=
  let failed (r : Range) : Bool :=
    r.order ≤ upTo && ((s.launch r.launchId).any fun l => l.vf == vf) && s.waitsPlace r && !s.mayRestore r
  { s with ranges := s.ranges.map fun (r : Range) => if failed r then { r with failedIn := some s.energy.window } else r }

/-- A context of a restored range: an access that was parked on a page is tried again (R253), a hold has long passed (R36), and
ISSUED counts from now, if it is resident (R157). -/
def Ctx.retryPage (c : Ctx) : Ctx :=
  { c with heldTill := 0, issued := if c.resident then 0 else c.issued, wait := match c.wait with
      | .page _ _ _ => .none
      | w => w }

/-- RANGE_RESTORE R290: the saved range that was saved first is restored whole onto a free cluster with room; one that
fails the check of R236 waits for the next window. -/
def execRangeRestore (range : Nat) (s : State) : Host.Outcome State Fault Refusal :=
  match s.range range with
  | none => .next s
  | some r =>
    match s.launch r.launchId with
    | none => .next s
    | some l =>
      let rivals := s.ranges.filter fun x =>
        x.id != r.id && x.order < r.order && s.mayRestore x && s.launches.any fun k => k.id == x.launchId && k.vf == l.vf
      match placeOrder.find? fun clu => s.clusterFree clu && s.roomOn l r clu with
      | none => .next s
      | some clu =>
        if s.svc.dead || s.svc.recovery || !s.waitsPlace r || !s.vfPlaces l.vf then .next s
        else if !s.mayRestore r then .next (s.passRanges l.vf r.order)
        else if !rivals.isEmpty then .next s
        else match (s.passRanges l.vf r.order).bid l.vf l.proc (r.hi - r.lo) with
          | none => .next s
          | some s =>
            let s := (s.raiseClocks clu r.clock).dropClean clu
            let s := s.modRange r.id fun r =>
              { r with
                cluster := some clu, saved := false, atBarrier := false, failedIn := none, etlb := []
                mq := r.mq.map fun (e : MqEntry) => { e with parked := none } }
            let s := { s with
              ctxs := s.ctxs.map fun (c : Ctx) => if c.range == r.id then c.retryPage else c
              mem := { s.mem with tlb := r.etlb.map (fun (t : Tlb) => { t with clu := clu }) ++ s.mem.tlb } }
            let s := s.seatAll
            let s := (s.ctxs.filter (·.range == r.id)).foldl State.refresh s
            .next (s.modLaunch l.id fun l => { l with tstart := some (l.tstart.getD s.mer.lo) })

end Sys2Proof.Machine
end

