-- ==== Sys2Proof/Machine/Host.lean ====
section
/-! DEFINITION. Host commands and checkpoints (12 R278, R281, R291 to R293). -/

namespace Sys2Proof.Machine

/-! ## The frame of a host command (R291) -/

/-- The n-th argument of an argument block. -/
def argOf (bs : List Byte) (n : Nat) : Nat := leVal ((bs.drop (8 * n)).take 8)

/-- What a host command does: nothing yet, or a result. -/
inductive HostRes where
  | wait (s : State)
  | done (s : State) (result : Nat)

/-- The completion of a host command that is performed: its result is kept until the write is done, and then the host is told
(R291, R344). -/
def State.finishCmd (s : State) (t : Taken) (result : Nat) : State :=
  let s := s.completeCmd t result
  if (s.taken t.id).isNone then s.notify t.vf ⟨2, t.launchId, result, t.cmd.recaddr⟩
  else s.modTaken t.id fun t => { t with result := some result }

/-- Runs a host command: BADCMD without RECADDR, BADARG when the block cannot be read, DENIED when only the management
process may issue it. One that is performed only completes. -/
def State.hostCmd (s : State) (cmd kind : Nat) (mgmt : Bool) (run : Taken → List Byte → State → HostRes) : State :=
  match s.taken cmd with
  | none => s
  | some t =>
    let finish (s : State) (result : Nat) : State := s.finishCmd t result
    if t.cmd.kind != kind || t.started then s
    else if let some result := t.result then finish s result
    else if t.cmd.recaddr == 0 then finish s 5
    else match s.dispRead t.vf t.proc t.cmd.recaddr 64 with
      | .error (va, .park) =>
        if t.refused.contains (va.toNat / 2 ^ 16) then finish s 0x15
        else (s.dispPark t.vf t.proc 0 0 va).modTaken t.id fun t => { t with parked := some (va.toNat / 2 ^ 16) }
      | .error (_, .cxl line) => s.askCxl line
      | .error (_, .test _) => s
      | .error (_, .bad pa) => finish (s.dispBad 0 pa) 0x15
      | .error _ => finish s 0x15
      | .ok (s, bs) =>
        if mgmt && (t.vf != 0 || t.proc != 255) then finish s 0x14
        else match run t bs s with
          | .wait s => s
          | .done s result => finish s result

/-- The launch that a command names, if it is a target: of the queue's process, and not ended. -/
def State.target (s : State) (t : Taken) (number : Nat) : Option Launch :=
  match s.launch number with
  | some l => if l.vf == t.vf && l.proc == t.proc && l.status.isNone then some l else none
  | none => none

/-- The command of a launch that is taken and numbered but has not begun: a target as well (R291). -/
def State.taking (s : State) (t : Taken) (number : Nat) : Option Taken :=
  s.disp.cmds.find? fun x => x.launchId == number && number != 0 && !x.started && x.vf == t.vf && x.proc == t.proc

/-- Stops a launch (R287 steps 1 and 2). -/
def State.drain (s : State) (id : Nat) : State := s.modLaunch id fun l => { l with drain := true }

/-- KILL R291: the launch stops at its boundaries and ends; nothing is saved. One that has not begun ends as it begins. -/
def execKill (cmd : Nat) (s : State) : Host.Outcome State Fault Refusal :=
  .next (s.hostCmd cmd 0x10 false fun t bs s =>
    match s.target t (argOf bs 0), s.taking t (argOf bs 0) with
    | none, none => .done s 0x11
    | none, some x => .done (s.beginLaunch x (newLaunch x []) (some 8)) 0x10
    | some l, _ =>
      let s := s.drain l.id
      if s.launchStopped l.id then .done (s.endLaunch l.id 8) 0x10 else .wait s)

/-! ## Checkpoints (R292) -/

/-- CRC-32C, bit by bit. -/
def crcBit (c : Nat) : Nat := if c % 2 == 1 then (c / 2) ^^^ 0x82F63B78 else c / 2

def crcByte (c : Nat) (b : Byte) : Nat := (List.range 8).foldl (fun c _ => crcBit c) (c ^^^ b.toNat)

def crc32c (bs : List Byte) : Nat := (bs.foldl crcByte 0xFFFFFFFF) ^^^ 0xFFFFFFFF

/-- An image: "DZ9K", version 1, its bytes, the CRC of what follows, and the sections (notes/assumptions/5.md). -/
def imageOf (body : List Byte) : List Byte :=
  [0x44, 0x5A, 0x39, 0x4B] ++ leBytes 4 1 ++ leBytes 8 (20 + body.length) ++ leBytes 4 (crc32c body) ++ body

/-- The 128 bytes of a launch command (R230), with N as it is now. -/
def Cmd.bytes (c : Cmd) (n : Nat) : List Byte :=
  let put (x : Nat) (f : Nat × Nat × Nat) : Nat := x + f.2.2 % 2 ^ f.2.1 * 2 ^ f.1
  leBytes 128 ([(0, 8, c.kind), (8, 1, c.repro.toNat), (9, 1, c.guarded.toNat), (10, 1, c.serial.toNat), (16, 3, c.wlog),
    (24, 8, c.vregs), (32, 7, c.scal), (40, 5, c.clog), (64, 32, n), (96, 32, c.job), (128, 64, c.codebase.toNat),
    (192, 32, c.entry), (224, 32, c.trapidx), (256, 32, c.centry), (288, 32, c.scratch), (320, 32, c.cscratch),
    (352, 64, c.groups.toNat), (416, 64, c.depaddr.toNat), (480, 64, c.depval.toNat), (544, 64, c.cmpaddr.toNat),
    (608, 64, c.cmpval.toNat), (672, 64, c.recaddr.toNat), (736, 32, c.estimate), (768, 64, c.guardbase.toNat),
    (832, 32, c.guardlen)].foldl put 0)

/-- The 8,192 bytes of a group table (R188). -/
def groupBytes (gs : List Group) : List Byte :=
  (List.range 256).flatMap fun k =>
    let runs := ((gs.find? (·.k == k)).map (·.runs)).getD []
    let bs := runs.flatMap fun r => leBytes 4 r.lo ++ leBytes 4 r.count ++ leBytes 4 r.stride
    bs ++ List.replicate (32 - bs.length) 0

/-- The 40,960 bytes of an accumulator tile: row-major, ten bytes an element (R59, R289). -/
def Range.tileImage (r : Range) (t : Nat) : List Byte := (List.range 4096).flatMap fun i => leBytes 10 (r.elem t i).toNat

/-- Bytes of a part of an image whose layout is open. -/
def openBytes (fresh launch part : Nat) : List Byte :=
  (List.range (Config.imageSize (launch * 2 ^ 64 + part))).map fun i => Config.freeByte ((fresh * 2 ^ 64 + part) * 2 ^ 64 + i)

/-- The section of a placed range (R289): header, scratch, control scratch, control program, tiles, and the rest. -/
def Range.image (r : Range) (l : Launch) (fresh : Nat) : List Byte :=
  openBytes fresh l.id (8 * r.id + 1) ++
    ((List.range r.m).flatMap fun k => r.readScratch k 0 l.s) ++ Memory.readN r.cscratch 0 l.cmd.cscratch ++
    openBytes fresh l.id (8 * r.id + 2) ++ ((List.range 16).flatMap r.tileImage) ++ openBytes fresh l.id (8 * r.id + 3)

/-- The sections of an image in their order (R292). -/
def imageBody (l : Launch) (rs : List Range) (fresh : Nat) : List Byte :=
  l.cmd.bytes l.n ++ groupBytes l.groups ++ openBytes fresh l.id 0 ++ (rs.flatMap fun r => r.image l fresh) ++
    openBytes fresh l.id 4

/-- The structured image of a stopped launch. -/
def State.snapshot (s : State) (l : Launch) (addr : W64) (bytes : List Byte) : Image :=
  let cs := s.ctxsOf l.id
  let ids := cs.map (·.id)
  let rs := (s.rangesOf l.id).map fun (r : Range) => match r.cluster with
    | some clu => { r with
        clock := s.clusterClock clu, etlb := s.mem.tlb.filter fun t => t.clu == clu && t.engine }
    | none => r
  { addr := addr, vf := l.vf, proc := l.proc, launch := l, ranges := rs, ctxs := cs
    ops := s.ops.filter fun o => o.holds && o.ctxs.any ids.contains
    xfers := s.xfers.filter fun x => rs.any (·.id == x.range)
    msgs := s.ownMsgs l, locks := s.mem.lockq.filter fun x => x.peer.isNone && ids.contains x.ctx
    gens := l.groups.map fun g => ⟨l.cmd.job, g.k, s.released l.cmd.job g.k⟩, bytes := bytes }

/-- CHECKPOINT R291, R292: the image's bytes are counted before anything stops; an image that cannot be written there has
no room (notes/assumptions/99.md). -/
def execCheckpoint (cmd : Nat) (s : State) : Host.Outcome State Fault Refusal :=
  .next (s.hostCmd cmd 0x11 false fun t bs s =>
    let addr := BitVec.ofNat 64 (argOf bs 1)
    match s.target t (argOf bs 0), s.taking t (argOf bs 0) with
    | none, none => .done s 0x11
    | none, some _ => .wait s
    | some l, _ =>
      let n := (imageBody l (s.rangesOf l.id) 0).length
      if argOf bs 2 < 20 + n then .done s 0x12
      else match s.dispPieces t.vf t.proc wantWrite addr (20 + n) with
        | .error (va, .park) =>
          if t.refused.contains (va.toNat / 2 ^ 16) then .done (s.modLaunch l.id fun l => { l with drain := false }) 0x12
          else .wait ((s.dispPark t.vf t.proc 1 0 va).modTaken t.id fun t => { t with parked := some (va.toNat / 2 ^ 16) })
        | .error (_, .kind _) => .done (s.modLaunch l.id fun l => { l with drain := false }) 0x12
        | .error (va, m) => .wait (s.dispMiss t.vf t.proc 1 0 0 va m)
        | .ok _ =>
          let s := s.drain l.id
          if !s.launchStopped l.id then .wait s
          else
            let s := s.flushAll l.id
            if s.launchUnacked l.id then .wait s
            else
              let (k, s) := s.newFree
              let l := (s.launch l.id).getD l
              let bytes := imageOf (imageBody l (s.rangesOf l.id) k)
              let image := s.snapshot l addr bytes
              match s.dispWrite t.vf t.proc addr bytes with
              | .error _ => .wait s
              | .ok s =>
                let gone := image.msgs.map (·.id)
                let s := { s with
                  images := s.images ++ [image]
                  sends := { s.sends with msgs := s.sends.msgs.filter fun m => !gone.contains m.id } }
                .done (s.endLaunch l.id 9) 0x10)

/-! ## Restoring (R293): the saved objects take fresh numbers -/

def Wait.shift (b : Nat) : Wait → Wait
  | .op id => .op (id + b)
  | .lock id => .lock (id + b)
  | .acks _ => .acks []
  | .stall .answers => .none
  | w => w

def Ctx.shift (b : Nat) (c : Ctx) : Ctx :=
  { c with
    id := c.id + b, range := c.range + b, wait := c.wait.shift b, active := false, visited := []
    seat := none, landing := c.landing.map fun (x : Landing) => { x with op := x.op + b }
    landed := c.landed.map fun x => (x.1, x.2 + b)
    save := c.save.map fun (v : Save) => { v with wait := v.wait.shift b } }

def OpWhat.shift (b : Nat) : OpWhat → OpWhat
  | .sts record phase x items => .sts { record with op := record.op + b } phase x items
  | .send m dst => .send (m + b) dst
  | w => w

def Op.shift (b : Nat) (o : Op) : Op :=
  { o with id := o.id + b, ctxs := o.ctxs.map (· + b), what := o.what.shift b }

def Xfer.shift (b : Nat) (x : Xfer) : Xfer :=
  { x with id := x.id + b, opId := x.opId + b, range := x.range + b, acks := x.acks.map fun _ => [] }

def MqEntry.shift (b : Nat) (e : MqEntry) : MqEntry := { e with opId := e.opId + b, acks := e.acks.map fun _ => [] }

def Range.shift (b launch order : Nat) (r : Range) : Range :=
  { r with
    id := r.id + b, launchId := launch, cluster := none, saved := true, order := order
    mq := r.mq.map (MqEntry.shift b), late := r.late.map (MqEntry.shift b), etlb := [], failedIn := none
    chans := r.chans.map fun (c : CopyChan) => { c with opId := c.opId + b } }

/-- A message parks again at this package's switch. -/
def Msg.shift (b : Nat) (m : Msg) : Msg :=
  { m with
    id := m.id + b, opId := m.opId + b, ctxs := m.ctxs.map (· + b), level := .pkg, place := 0, parked := true
    held := some .pkg, order := m.order + b }

/-- A saved lock request is made again at its home (R268, R288), if it finds room (R239). -/
def State.relock (s : State) (t : Taken) (x : LockWait) : Option State :=
  let (s, w) := s.lockTest x.pa (s.homeLock x.pa)
  if w.free x.write then
    some ((s.putHomeLock x.pa (w.hold x.write)).modCtx x.ctx fun c =>
      { c with wait := if c.wait == .lock x.id then .none else c.wait })
  else (s.waiterRoom x.vf x.pa).map fun room =>
    let s := if room == 2 then s.chargePool t.vf t.proc t.launchId Config.waitBytes else s
    ({ s with mem := { s.mem with lockq := s.mem.lockq ++ [{ x with room := room }] } } : State).putHomeLock x.pa
      (w.park x.write)

/-- The saved lock requests of an image, in their order. -/
def State.relockAll (s : State) (t : Taken) : List LockWait → Option State
  | [] => some s
  | x :: xs => (s.relock t x).bind fun s => s.relockAll t xs

/-- The highest number that an image gives its contexts, ranges, operations, transfers and messages. -/
def Image.top (im : Image) : Nat :=
  (im.ctxs.map (·.id) ++ im.ranges.map (·.id) ++ im.ops.map (·.id) ++ im.xfers.map (·.id) ++ im.msgs.map (·.id) ++
    im.locks.map (·.id)).foldl max 0

/-- Another package has written an image (R293, R321); its numbers stay below those that this package gives next. -/
def State.learnImage (s : State) (im : Image) : State :=
  { s with images := s.images ++ [im], nextId := max s.nextId (im.top + 1) }

/-- The groups of a restored launch go on at the generation that the job has reached, here or at the checkpoint (R191, R292). -/
def State.restoreGens (s : State) (launch : Nat) (gens : List JobGen) : State :=
  gens.foldl (fun (s : State) g =>
    let now := max g.released (s.released g.job g.group)
    let s := s.setReleased g.job g.group now
    let s := s.modLaunch launch fun l => l.setGen (s.nextGen l g.group now)
    if now == 0 then s
    else s.ctxs.foldl (fun (s : State) (c : Ctx) => s.wakeGroup [launch] g.group (now - 1) c) s) s

/-- A read at a time that is homed on another node is issued again (R321). -/
def State.reissue (s : State) (o : Op) : State :=
  match o.what with
  | .ldat _ _ pa _ _ _ => if s.remote pa then s.openTx (nodeOf pa) o.id else s
  | _ => s

/-- The launch of an image begins: its ranges are saved, its messages park here again, and its barriers and reads at a time are
taken up. None when a lock request finds no room yet. -/
def State.restoreImage (s : State) (t : Taken) (im : Image) : Option State :=
  let b := s.nextId
  let l : Launch :=
    { im.launch with
      id := t.launchId, vf := t.vf, proc := t.proc, taken := t.id, status := none, drain := false, tend := none
      tstart := none }
  let s := { s with
    nextId := 2 * b + im.ranges.length
    launches := s.launches ++ [l]
    ranges := s.ranges ++ im.ranges.zipWith (fun (r : Range) k => r.shift b t.launchId (2 * b + k)) (List.range im.ranges.length)
    ctxs := s.ctxs ++ im.ctxs.map (Ctx.shift b)
    ops := s.ops ++ im.ops.map (Op.shift b)
    xfers := s.xfers ++ im.xfers.map (Xfer.shift b)
    sends := { s.sends with msgs := s.sends.msgs ++ im.msgs.map (Msg.shift b) } }
  let s := s.modTaken t.id fun t => { t with started := true }
  (s.relockAll t (im.locks.map fun x => { x with id := x.id + b, ctx := x.ctx + b, vf := t.vf })).map fun s =>
    (im.ops.map (Op.shift b)).foldl State.reissue (s.restoreGens t.launchId im.gens)

/-- The image that bytes hold, when its header, version and CRC are right. -/
def State.imageAt (s : State) (bs : List Byte) : Option Image :=
  let n := leVal ((bs.drop 8).take 8)
  let body := (bs.take n).drop 20
  if bs.length < 20 || bs.length < n || n < 20 || bs.take 4 != [0x44, 0x5A, 0x39, 0x4B] || leVal ((bs.drop 4).take 4) != 1 ||
      leVal ((bs.drop 16).take 4) != crc32c body then none
  else s.images.find? fun im => im.bytes == bs.take n

/-- RESTORE R291, R293: its command is finished when the launch ends. With too few parking places free for the messages of the
image, or no room for its lock waiters (R239), it waits, which is the model's choice (notes/assumptions/114.md). -/
def execRestore (cmd : Nat) (s : State) : Host.Outcome State Fault Refusal :=
  .next (s.hostCmd cmd 0x12 false fun t bs s =>
    match s.dispRead t.vf t.proc (BitVec.ofNat 64 (argOf bs 0)) (argOf bs 1) with
    | .error (va, .park) =>
      if t.refused.contains (va.toNat / 2 ^ 16) then .done s 0x13
      else .wait ((s.dispPark t.vf t.proc 0 0 va).modTaken t.id fun t => { t with parked := some (va.toNat / 2 ^ 16) })
    | .error (_, .cxl line) => .wait (s.askCxl line)
    | .error (_, .test _) => .wait s
    | .error (_, .bad pa) => .done (s.dispBad 0 pa) 0x13
    | .error _ => .done s 0x13
    | .ok (s, image) =>
      match s.imageAt image with
      | none => .done s 0x13
      | some im => .wait (if 4096 < s.parkedHere + im.msgs.length then s else (s.restoreImage t im).getD s))

/-! ## Demand paging (R253, R291) -/

/-- The wait names the page. -/
def Wait.onPage (w : Wait) (vf proc : Nat) (page : W64) : Bool :=
  match w with
  | .page a b c => a == vf && b == proc && c == page
  | _ => false

/-- A context parked on a page tries its access again. -/
def Ctx.resolve (c : Ctx) (vf proc : Nat) (page : W64) : Ctx :=
  let clear (w : Wait) : Wait := if w.onPage vf proc page then .none else w
  { c with wait := clear c.wait, save := c.save.map fun (v : Save) => { v with wait := clear v.wait } }

/-- A matrix instruction parked on a page goes on. -/
def Range.resolve (r : Range) (page : W64) : Range :=
  { r with mq := r.mq.map fun (e : MqEntry) => { e with parked := e.parked.filter (· != page) } }

/-- The message of a page leaves the fault queue; its contexts, matrix instructions and commands go on. -/
def State.resolvePage (s : State) (vf proc : Nat) (page : W64) : State :=
  let n := page.toNat / 2 ^ 16
  { s with
    ctxs := s.ctxs.map fun (c : Ctx) => c.resolve vf proc page
    ranges := s.ranges.map fun (r : Range) =>
      if (s.launch r.launchId).any fun l => l.vf == vf && l.proc == proc then r.resolve page else r
    host := { s.host with faults := s.host.faults.filter fun f => !(f.vf == vf && f.proc == proc && f.page == page) }
    disp := { s.disp with cmds := s.disp.cmds.map fun (t : Taken) =>
      { t with parked := t.parked.filter fun p => !(p == n && t.vf == vf && t.proc == proc) } } }

/-- The page that an argument block names. -/
def pageArg (bs : List Byte) : W64 := BitVec.ofNat 64 (argOf bs 0 / 2 ^ 16 * 2 ^ 16)

/-- RESOLVE R291. -/
def execResolve (cmd : Nat) (s : State) : Host.Outcome State Fault Refusal :=
  .next (s.hostCmd cmd 0x13 false fun t bs s => .done (s.resolvePage t.vf t.proc (pageArg bs)) 0x10)

/-- REFUSE R291: the launches parked on the page end with FAULT; a parked completion write is skipped (R231). -/
def execRefuse (cmd : Nat) (s : State) : Host.Outcome State Fault Refusal :=
  .next (s.hostCmd cmd 0x14 false fun t bs s =>
    let page := pageArg bs
    let n := page.toNat / 2 ^ 16
    let hits := s.host.faults.filter fun f => f.vf == t.vf && f.proc == t.proc && f.page == page
    let s := (hits.flatMap (·.parties)).foldl (fun (s : State) id => s.endLaunch id 7) s
    let refuse (x : Taken) : Taken :=
      if x.parked == some n && x.vf == t.vf && x.proc == t.proc then { x with refused := n :: x.refused } else x
    let s := { s with disp := { s.disp with cmds := s.disp.cmds.map refuse } }
    .done (s.resolvePage t.vf t.proc page) 0x10)

/-! ## Accounts, partition and scheduling -/

/-- A signed 64-bit value. -/
def s64 (n : Nat) : Int := (BitVec.ofNat 64 n).toInt

/-- The account with one RW field given the whole of a value, which the checks see before a field is cut; none when the
offset is no RW field (R281). -/
def Account.setField (a : Account) (off v : Nat) : Option Account :=
  match off with
  | 0x00 => some { a with bal := s64 v }
  | 0x08 => some { a with refill := v }
  | 0x10 => some { a with cap := s64 v }
  | 0x18 => some { a with resume := s64 v }
  | 0x28 => some { a with rrefill := v }
  | 0x30 => some { a with rcap := v }
  | 0x3C => some { a with vfflags := v }
  | 0x40 => some { a with slice := v }
  | 0x44 => some { a with period := v }
  | 0x48 => some { a with clumax := v }
  | 0x60 => some { a with deepest := s64 v }
  | 0x68 => some { a with savebase := v }
  | 0x70 => some { a with savelen := v }
  | _ => none

/-- A save pool lies in populated deep store or CXL memory of this package, and meets no other VF's pool (R281). -/
def State.poolOk (s : State) (vf : Nat) (a : Account) : Bool :=
  a.savebase % 65536 == 0 && a.savelen % 65536 == 0 &&
  (a.savelen == 0 ||
    (!s.remote a.savebase && a.savebase < 2 ^ 56 &&
      (s.populated a.savebase a.savelen false 0 || (List.range 8).any fun d => s.pinnedAt d a.savebase a.savelen) &&
      s.accts.all fun p => p.1 == vf || p.2.savelen == 0 || a.savebase + a.savelen ≤ p.2.savebase ||
        p.2.savebase + p.2.savelen ≤ a.savebase))

/-- The checks of VFACCT on the account as it would be (R281). -/
def State.acctOk (s : State) (vf : Nat) (a : Account) : Bool :=
  a.resume < a.cap && 0 ≤ a.resume && a.slice ≤ a.period &&
  (a.period == 0 || (100 ≤ a.period && a.period ≤ 1000000)) && a.clumax ≤ 128 && a.vfflags ≤ 1 && s.poolOk vf a

/-- A VF that holds more clusters than it now may stops for the rest of its slice (R235, notes/assumptions/98.md). -/
def State.overQuota (s : State) (vf : Nat) (a : Account) : Bool :=
  let held := s.heldBy vf
  held != 0 && (a.slice == 0 || a.period == 0 || a.clumax < held)

/-- VFACCT R281, R291; STATE follows a written balance (R283). -/
def execVfacct (cmd : Nat) (s : State) : Host.Outcome State Fault Refusal :=
  .next (s.hostCmd cmd 0x18 true fun _ bs s =>
    let vf := argOf bs 0
    match (if 64 ≤ vf then none else (s.acct vf).setField (argOf bs 1) (argOf bs 2)) with
    | none => .done s 0x11
    | some a =>
      if s.acctOk vf a then
        let a := (if argOf bs 1 == 0 then a.spend else a).revive
        .done (s.setAcct vf { a with sliceOver := a.sliceOver || s.overQuota vf a }) 0x10
      else .done s 0x14)

/-- PARTITION R278: sizes in bytes. -/
def execPartition (cmd : Nat) (s : State) : Host.Outcome State Fault Refusal :=
  .next (s.hostCmd cmd 0x19 true fun _ bs s =>
    let cache := argOf bs 0
    let pin := argOf bs 1
    if cache % 2 ^ 27 != 0 || 2 ^ 31 < cache || pin % 2 ^ 26 != 0 || 46 * 2 ^ 27 < cache + pin ||
        s.ranges.any (·.cluster.isSome) then .done s 0x14
    else .done { s with svc := { s.svc with cacheUnits := cache / 2 ^ 27, pinUnits := pin / 2 ^ 26 } } 0x10)

/-- PREEMPTVF R291: the VF stops for the rest of its slice. -/
def execPreemptvf (cmd : Nat) (s : State) : Host.Outcome State Fault Refusal :=
  .next (s.hostCmd cmd 0x1A true fun _ bs s =>
    let vf := argOf bs 0
    if 64 ≤ vf then .done s 0x11 else .done (s.setAcct vf { s.acct vf with sliceOver := true }) 0x10)

/-- PROCWT R235, R291. -/
def execProcwt (cmd : Nat) (s : State) : Host.Outcome State Fault Refusal :=
  .next (s.hostCmd cmd 0x1B true fun _ bs s =>
    let vf := argOf bs 0
    let p := argOf bs 1
    if 64 ≤ vf || 256 ≤ p then .done s 0x11
    else if 255 < argOf bs 2 then .done s 0x14
    else .done (s.setProc vf p { s.proc vf p with weight := argOf bs 2 }) 0x10)

end Sys2Proof.Machine
end

