-- ==== Sys2Proof/Machine/Meridian.lean ====
section
/-! DEFINITION. Meridian (13 R301 to R321): the interval, its syncs and its failures, stamped lines at the home, the
meanings of TIME, TUNC, TWAIT, STS and LDAT (15 R350 to R355), and the steps of stamped stores and reads at a time. -/

namespace Sys2Proof.Machine

/-! ## The interval -/

/-- The highest time. -/
def timeTop : Nat := 2 ^ 64 - 1

/-- MUNC: U (R301). -/
def Meridian.munc (m : Meridian) : Nat := (m.hi - m.lo + 1) / 2

/-- STATE follows U (R309); FAILED is left only by a reset. -/
def Meridian.grade (m : Meridian) : Meridian :=
  if m.state == 3 then m
  else { m with state := if m.mulim ≤ m.munc then 2 else if m.mulim < 4 * m.munc then 1 else 0 }

/-- The die copies take the reported pair (R306). -/
def Meridian.send (m : Meridian) : Meridian := { m with dielo := m.lo, diehi := min (m.hi + 2) timeTop }

/-- The reported pair follows the computed one, rounded outward, and never decreases once a sync was accepted
(R301, R302). -/
def Meridian.publish (m : Meridian) : Meridian :=
  let lo := m.clo / 2 ^ 32
  let hi := min ((m.chi + 2 ^ 32 - 1) / 2 ^ 32) timeTop
  ({ m with lo := if m.synced then max lo m.lo else lo, hi := if m.synced then max hi m.hi else hi
            synced := true } : Meridian).grade.send

/-- Enters FAILED for a cause: the reported lo is frozen and the reported hi is the highest time (R308, R310). -/
def Meridian.fail (m : Meridian) (cause : Nat) : Meridian :=
  if m.state == 3 then m
  else { m with state := 3, cause := cause, hi := timeTop, dielo := m.lo, diehi := timeTop }

/-- Intersects the reported pair with bounds on true time (R303, R304, R311). -/
def Meridian.sync (m : Meridian) (nlo nhi cause : Nat) : Meridian :=
  if m.state == 3 then m
  else
    let a := max m.lo nlo
    let b := min m.hi nhi
    if b < a then m.fail cause else ({ m with clo := a * 2 ^ 32, chi := b * 2 ^ 32 } : Meridian).publish

/-- The standby unit takes the same bounds into its own pair (R305). -/
def Meridian.standby (m : Meridian) (nlo nhi : Nat) : Meridian :=
  let a := max m.standbyLo (nlo * 2 ^ 32)
  let b := min m.standbyHi (nhi * 2 ^ 32)
  if b < a then m else { m with standbyLo := a, standbyHi := b }

/-- One tick: 0.9999 and 1.0001 of a tick in 2^-32, each rounded outward (R302). -/
def Meridian.tick (m : Meridian) : Meridian :=
  let top := timeTop * 2 ^ 32
  let dlo := 9999 * 2 ^ 32 / 10000
  let dhi := (10001 * 2 ^ 32 + 9999) / 10000
  let m := { m with
    ticks := m.ticks + 1, standbyLo := min (m.standbyLo + dlo) top, standbyHi := min (m.standbyHi + dhi) top }
  if m.state == 3 || !m.synced then m
  else ({ m with clo := min (m.clo + dlo) top, chi := min (m.chi + dhi) top } : Meridian).publish

/-- SYNCS (R308): the ports whose timing flit arrived in the last 2,048 ticks, saturating at 255. -/
def Meridian.syncs (m : Meridian) : Nat := min ((m.heard.filter fun p => m.ticks ≤ p.2 + 2048).length) 255

/-- MSTAT (R308). -/
def Meridian.mstat (m : Meridian) : Nat :=
  m.state + m.cause * 2 ^ 8 + m.unit * 2 ^ 12 + m.ref * 2 ^ 13 + m.syncs * 2 ^ 16

/-- The registers by their numbers: MUNC, MULIM, MWIN, MRET, MLAST, MSTAT, MLO, MHI, MBREACH (R307). -/
def Meridian.register (m : Meridian) (k : Nat) : Option Nat :=
  [m.munc, m.mulim, m.mwin, m.mret, m.mlast, m.mstat, m.lo, m.hi, m.breach % 2 ^ 64][k]?

/-- MERIDIAN_TICK R302. -/
def execMeridianTick (s : State) : Host.Outcome State Fault Refusal := .next { s with mer := s.mer.tick }

/-- TIMING_FLIT R303: a neighbour's pair, shifted by the link's one-way delay; MLAST is the reported lo after it. -/
def execTimingFlit (port lo hi : Nat) (s : State) : Host.Outcome State Fault Refusal :=
  match s.fabric.ports[port]? with
  | none => .next s
  | some p =>
    if !p.carries then .next s
    else
      let nlo := lo + p.dmin
      let nhi := hi + (p.rho - p.dmin)
      let m := (s.mer.standby nlo nhi).sync nlo nhi 1
      let heard := kset m.heard port m.ticks
      .next { s with mer := { m with mlast := if m.state == 3 then m.mlast else m.lo, heard := heard } }

/-- REFERENCE_INPUT R304: a reference package takes the time of its input, where there is one, with the configured half-width
UREF. -/
def execReferenceInput (present : Bool) (ref : Nat) (s : State) : Host.Outcome State Fault Refusal :=
  let lo := ref - s.mer.uref
  let hi := ref + s.mer.uref
  if s.mer.ref == 0 || !present then .next s else .next { s with mer := (s.mer.standby lo hi).sync lo hi 2 }

/-- OSCILLATOR_DISAGREEMENT R305. -/
def execOscillatorDisagreement (s : State) : Host.Outcome State Fault Refusal := .next { s with mer := s.mer.fail 3 }

/-- STANDBY_TAKEOVER R305: the standby's pair, intersected with the last reported one; an empty intersection or an
unusable standby fails. -/
def execStandbyTakeover (usable : Bool) (s : State) : Host.Outcome State Fault Refusal :=
  let m := s.mer
  if m.unit == 1 then .next s
  else
    let m' := { m with unit := 1 }
    if m.state == 3 then .next { s with mer := m' }
    else
      let a := max (m.lo * 2 ^ 32) m.standbyLo
      let b := min (m.hi * 2 ^ 32) m.standbyHi
      if !usable || b < a then .next { s with mer := m'.fail 4 }
      else if !m.synced then .next { s with mer := m' }
      else .next { s with mer := ({ m' with clo := a, chi := b } : Meridian).publish }

/-! ## Stamped lines -/

/-- RECORD_FOLD R313: the lowest-keyed record, once expired. -/
def execRecordFold (line : Nat) (s : State) : Host.Outcome State Fault Refusal :=
  match kget s.mem.slines line with
  | none => .next s
  | some l =>
    match l.records with
    | [] => .next s
    | x :: _ => if s.mer.expired x then .next (s.putLine line (l.fold x)) else .next s

/-! ## Results of stamped stores and reads at a time -/

/-- The items an issue acts for, as intervals. -/
def Iss.itemRuns (i : Iss) : List (Nat × Nat) :=
  match i.c.kind with
  | .span lo hi => [(lo, hi)]
  | .strand => i.lanes.filterMap fun l => ((i.c.lanes[l]?).bind (·.item)).map fun k => (k, k + 1)
  | .control => []

/-- The lanes of a context that a result goes to; one place outside a strand. -/
def Ctx.placesOf (c : Ctx) (items : List (Nat × Nat)) : List Nat :=
  if c.kind == .strand then
    (List.range c.lanes.length).filter fun l => match (c.lanes[l]?).bind (·.item) with
      | some k => items.any fun p => p.1 ≤ k && k < p.2
      | none => false
  else [0]

/-- The status under the status byte of R348: a predicate tells whether it is good. -/
def Ctx.statusResult (c : Ctx) (x : BitVec 8) (items : List (Nat × Nat)) (status : Nat) : List (LDst × W64) :=
  let n := x.toNat % 64
  match x.toNat / 64 with
  | 1 =>
    let v : W64 := if status == 0 || status == 6 then 1 else 0
    (c.placesOf items).map fun l => (LDst.pred n (if c.kind == .strand then some l else none), v)
  | 2 => [(.scal n, BitVec.ofNat 64 status)]
  | _ => []

/-- A value in the U form of a destination (R44, R46). -/
def Ctx.valueResult (c : Ctx) (d : Opnd) (ty : Ty) (items : List (Nat × Nat)) (v : Nat) : List (LDst × W64) :=
  let x := if d.isS then scalBits ty v else regBits ty v
  c.landDsts d ty.is64 ((c.placesOf items).map fun l => (l, x))

/-- Results that reach a context at once, each one value for all its items. -/
def Ctx.landNow (c : Ctx) (xs : List (LDst × W64)) : Ctx :=
  let mine : List Landing := xs.map fun x => ⟨0, 0, x.1, x.2, true⟩
  mine.foldl (fun (c : Ctx) x => c.landOne mine x) c

/-- Results of an operation that completes as it issues: at once, or under the token. -/
def State.giveNow (s : State) (i : Iss) (xs : List (LDst × W64)) : State :=
  if i.h.se then
    let (id, s) := s.startOp i .ready
    s.addLandings i id true xs
  else s.modCtx i.c.id fun c => c.landNow xs

/-! ## TIME, TUNC, TWAIT (R350 to R352) -/

/-- TIME (R350): the die copy, raised to the context's time floor, which follows. -/
def timeBody (f : Fields) (i : Iss) (s : State) : Res :=
  .done (s.modCtx i.c.id fun c =>
    let lo := max s.mer.dielo c.floorLo
    let hi := max s.mer.diehi c.floorHi
    let d := match f.d with
      | .s r => (c.writeScal r.toNat (BitVec.ofNat 64 lo)).writeScal (r.toNat + 1) (BitVec.ofNat 64 hi)
      | _ => c
    { d with floorLo := lo, floorHi := hi })

/-- TUNC (R351). -/
def Meridian.tunc (m : Meridian) : Nat :=
  min m.munc (2 ^ 40 - 1) + m.state % 4 * 2 ^ 40 + m.cause % 16 * 2 ^ 44 + m.unit % 2 * 2 ^ 48

def tuncBody (f : Fields) (i : Iss) (s : State) : Res :=
  .done (s.modCtx i.c.id fun c => c.writeScalD f.d (BitVec.ofNat 64 s.mer.tunc))

/-- TWAIT (R352): 0 once local lo is past t, 3 when the state is FAILED before that. -/
def twaitBody (f : Fields) (i : Iss) (s : State) : Res :=
  let t := i.uni 1 f.b
  let done (v : W64) : Res := .done (s.modCtx i.c.id fun c => c.writeScalD f.d v)
  if t.toNat < s.mer.dielo then done 0
  else if s.mer.state == 3 then done 3
  else .wait s (.time t)

/-! ## STS and LDAT (R353 to R355) -/

/-- LIMIT or FAILED at issue: with .nt the status, else the TIME trap (R349). `none`: the instruction goes on. -/
def Iss.timeGate (i : Iss) (s : State) (f : Fields) (stamp : List (LDst × W64)) : Option Res :=
  if s.mer.state == 2 || s.mer.state == 3 then
    if f.var == 1 then some (.done (s.giveNow i (stamp ++ i.c.statusResult f.x i.itemRuns s.mer.state)))
    else some (.trap s 3 (s.mer.state - 1) (maskOf i.lanes) 0)
  else none

/-- STS (R353, R354): the release is performed, with every acknowledgement, before the stamp is taken; in the commit wait
the context is out of the active set (R136). -/
def stsBody (f : Fields) (i : Iss) (s : State) : Res :=
  let n := f.ty.bytes
  let va := i.uni 0 f.a
  match s.locate i.c 0 va n true ⟨false, true, false, true⟩ with
  | .error m => i.ctxMiss s n.log2 true va m
  | .ok (.g pa _) =>
    (match (if i.acked then none else i.timeGate s f (i.c.landDsts f.d true [(0, 0)])) with
    | some r => r
    | none => i.afterRelease (s.tlbFill (i.r.cluster.getD 0) false i.l.vf i.l.proc va) 3 4 fun s =>
      let g := s.coreNumber i.c
      let stamp := s.mer.diehi
      let last := kget s.lastStamps g
      if last.any fun x => stamp ≤ x then .wait s (.stall (.stamp (last.getD 0)))
      else
        let s := { s with lastStamps := kset s.lastStamps g stamp }
        let r : StsRec := ⟨pa, stamp, s.fabric.node, g, n, i.uni 1 f.b, s.nextId⟩
        let (id, s) := s.startOp i (.sts r .waiting f.x i.itemRuns)
        let xs := i.c.landDsts f.d true [(0, BitVec.ofNat 64 stamp)]
        if i.h.se then .done (s.addLandings i id false xs)
        else .done ((s.modCtx i.c.id fun c =>
          { c.landNow xs with active := false }).holdOn i id))
  | .ok _ => i.ctxFault s n.log2 2 true va

/-- LDAT (R355). -/
def ldatBody (f : Fields) (i : Iss) (s : State) : Res :=
  let n := f.ty.bytes
  let va := i.uni 0 f.a
  match s.locate i.c 0 va n true ⟨true, false, false, true⟩ with
  | .error m => i.ctxMiss s n.log2 false va m
  | .ok (.g pa _) =>
    (match i.timeGate s f [] with
    | some r => r
    | none =>
      let s := s.tlbFill (i.r.cluster.getD 0) false i.l.vf i.l.proc va
      let (id, s) := s.startOp i (.ldat (i.uni 1 f.b) f.ty pa f.d f.x i.itemRuns)
      let s := if s.remote pa then s.openTx (nodeOf pa) id else s
      .done (s.holdOn i id))
  | .ok _ => i.ctxFault s n.log2 2 false va

/-! ## Their steps -/

/-- The contexts of an operation may go on: placed, and their VF runs (R284, R288). -/
def State.opRuns (s : State) (o : Op) : Bool :=
  o.ctxs.all fun x => match s.ctx x with
    | some c => (s.range c.range).any (·.cluster.isSome) && (s.launchOf c).any fun l => l.status.isNone && s.working l
    | none => true

/-- The accesses before an operation are acknowledged at fabric scope (R322 item 1). -/
def State.acked (s : State) (o : Op) : Bool :=
  s.ops.all fun p => match p.what with
    | .remote _ false _ => !(p.id < o.id && p.ctxs.any o.ctxs.contains)
    | _ => true

def State.setWhat (s : State) (op : Nat) (w : OpWhat) : State :=
  { s with ops := s.ops.map fun (p : Op) => if p.id == op then { p with what := w } else p }

/-- STS_COMMIT R317: the wait ends with FAILED, or the record is sent once local lo is past its stamp. -/
def execStsCommit (op : Nat) (s : State) : Host.Outcome State Fault Refusal :=
  match s.op op with
  | none => .next s
  | some o =>
    match o.what with
    | .sts r .waiting x items =>
      if !s.opRuns o then .next s
      else if s.mer.state == 3 then .next (s.completeOpBy op fun c => c.statusResult x items 3)
      else if r.stamp < s.mer.dielo && s.acked o then
        let s := s.setWhat op (.sts r .sent x items)
        .next (if s.remote r.pa then s.openTx (nodeOf r.pa) op else s)
      else .next s
    | _ => .next s

/-- STS_RECORD_ARRIVAL R317: a record that was sent, of this package or of another, reaches its home here; a line of a CXL device
is read first (R280). A record of another package may carry any node, its issuer's (R321). -/
def execStsRecordArrival (record : StsRec) (s : State) : Host.Outcome State Fault Refusal :=
  if s.remote record.pa || (record.size != 4 && record.size != 8) || record.pa % record.size != 0 then .next s
  else if s.lineMiss (record.pa / 64) then .next (s.askCxl (record.pa / 64))
  else if record.op == 0 then .next (s.takeRecord record).1
  else
    match s.op record.op with
    | none => .next s
    | some o =>
      match o.what with
      | .sts r .sent x items =>
        if r != record then .next s
        else
          let (s, status) := s.takeRecord record
          .next (s.setWhat record.op (.sts r (.answered status) x items))
      | _ => .next s

/-- The contexts of a stamped store that was TAKEN see it from now on: the clean copies of its bytes near them go (R73
item 3). -/
def State.seeTaken (s : State) (o : Op) (r : StsRec) (status : Nat) : State :=
  if status != 0 then s
  else
    let hit (pa : Nat) : Bool := r.pa ≤ pa && pa < r.pa + r.size
    let clus := o.ctxs.filterMap fun x => (s.ctx x).map s.cluOf
    { s with mem := { s.mem with
      l1 := s.mem.l1.filter fun e => e.2.dirty || !(hit (e.1 % 2 ^ 56) && clus.contains (e.1 / 2 ^ 56))
      l2 := s.mem.l2.filter fun e => e.2.dirty || !hit e.1
      cp := s.mem.cp.filter fun e => e.2.dirty || !hit e.1 } }

/-- STS_STATUS_RETURN R317: the status of a record homed here, or the one that another home answers. -/
def execStsStatusReturn (op status : Nat) (s : State) : Host.Outcome State Fault Refusal :=
  match s.op op with
  | none => .next s
  | some o =>
    match o.what with
    | .sts r (.answered v) x items => .next ((s.seeTaken o r v).completeOpBy op fun c => c.statusResult x items v)
    | .sts r .sent x items =>
      if s.remote r.pa && [0, 1, 4].contains status && !s.txUnsent op then
        .next (((s.closeTx op).seeTaken o r status).completeOpBy op fun c => c.statusResult x items status)
      else .next s
    | _ => .next s

/-- Completes an LDAT: with OK or INITIAL its destination and the acquire (R355). -/
def State.ldatDone (s : State) (o : Op) (ty : Ty) (d : Opnd) (x : BitVec 8) (items : List (Nat × Nat)) (status v : Nat) :
    State :=
  let good := status == 0 || status == 6
  let s := if good then o.ctxs.foldl (fun (s : State) k => match s.ctx k with
      | some c => s.dropClean (s.cluOf c)
      | none => s) s
    else s
  s.completeOpBy o.id fun c => (if good then c.valueResult d ty items v else []) ++ c.statusResult x items status

/-- The answer to a read at a time of another node: its status, and the bytes; none while the home's lo has not passed it
(R319). -/
def State.ldatFor (s : State) (t pa n : Nat) : State × Option (List Byte) :=
  if s.mer.state == 3 then (s, some [4])
  else if s.mer.dielo ≤ t + s.mer.mwin then (s.markStamped pa, none)
  else
    let s := s.markStamped pa
    match kget s.mem.slines (pa / 64) with
    | none => (s, none)
    | some l =>
      let (bytes, status) := l.valueAt t
      (s, some (BitVec.ofNat 8 status :: (bytes.drop (pa % 64)).take n))

/-- LDAT_ANSWER R319: this home answers once its lo is past t + MWIN, an LDAT of another node that is parked here too; another
home's answer comes with the step. -/
def execLdatAnswer (op : Nat) (remote : Option (Nat × W64)) (s : State) : Host.Outcome State Fault Refusal :=
  match s.op op with
  | none => .next s
  | some o =>
    match o.what with
    | .ldat t ty pa d x items =>
      if s.remote pa then
        match remote with
        | some (status, v) =>
          if [0, 4, 5, 6].contains status && !s.txUnsent op then .next ((s.closeTx op).ldatDone o ty d x items status (v.toNat % 2 ^ ty.width))
          else .next s
        | none => .next s
      else if s.mer.state == 3 then .next (s.ldatDone o ty d x items 4 0)
      else if s.mer.dielo ≤ t.toNat + s.mer.mwin then .next s
      else if (List.range ty.bytes).any fun k => s.poisoned (pa + k) then
        .next (s.dispBad (s.launchIdOf (o.ctxs.headD 0)) pa)
      else if s.lineMiss (pa / 64) then .next (s.askCxl (pa / 64))
      else
        let s := (s.markStamped pa).collect fun d => d.meets (pa / 64 * 64) 64
        match kget s.mem.slines (pa / 64) with
        | none => .next s
        | some l =>
          let (bytes, status) := l.valueAt t.toNat
          .next (s.ldatDone o ty d x items status (leVal ((bytes.drop (pa % 64)).take ty.bytes)))
    | .serveAt r =>
      (match r.kind with
      | .ldat t n =>
        if s.mer.state != 3 && s.lineMiss (r.pa / 64) then .next (s.askCxl (r.pa / 64))
        else match (s.collect fun d => d.meets (r.pa / 64 * 64) 64).ldatFor t r.pa n with
          | (s, some bs) => .next (({ s with ops := s.ops.filter (·.id != op) } : State).reply r false bs)
          | (s, none) => .next s
      | _ => .next s)
    | _ => .next s

/-- TWAIT_WAKE R352: a context whose time has come, or whose package has failed, is ready to complete its word. -/
def execTwaitWake (ctx : Nat) (s : State) : Host.Outcome State Fault Refusal :=
  match s.ctx ctx with
  | none => .next s
  | some c =>
    match c.wait with
    | .time t =>
      if t.toNat < s.mer.dielo || s.mer.state == 3 then .next (s.setCtx { c with wait := .none }) else .next s
    | _ => .next s

/-! ## The meanings -/

/-- TIME R350. -/
def execTime (f : Fields) (s : State) : Host.Outcome State Fault Refusal := issueF 0xD0 f (timeBody f) s

/-- TUNC R351. -/
def execTunc (f : Fields) (s : State) : Host.Outcome State Fault Refusal := issueF 0xD1 f (tuncBody f) s

/-- STS R353. -/
def execSts (f : Fields) (s : State) : Host.Outcome State Fault Refusal := issueF 0xD2 f (stsBody f) s

/-- LDAT R355. -/
def execLdat (f : Fields) (s : State) : Host.Outcome State Fault Refusal := issueF 0xD3 f (ldatBody f) s

/-- TWAIT R352. -/
def execTwait (f : Fields) (s : State) : Host.Outcome State Fault Refusal := issueF 0xD4 f (twaitBody f) s

end Sys2Proof.Machine
end

