-- ==== Sys2Proof/Machine/Service.lean ====
section
/-! DEFINITION. Caches and translations as events (08 R183, 10 R244, R252, 12 R279), CXL.mem (R280), errors and
self-tests (10 R258, R259), and the service core: firmware, attestation, freeze and reset (12 R294 to R297). -/

namespace Sys2Proof.Machine

/-! ## Caches -/

/-- L1_EVICTION R183: the dirty bytes of a line go to its home slice, and the line leaves the L1. -/
def execL1Eviction (clu line : Nat) (s : State) : Host.Outcome State Fault Refusal :=
  let s := s.collect fun d => d.clu == clu && d.meets (64 * line) 64
  .next ((List.range 64).foldl (fun (s : State) k => (s.cleanByte clu (64 * line + k)).dropByte clu (64 * line + k)) s)

/-- One byte leaves the cache portion. -/
def State.evictCp (s : State) (pa : Nat) : State :=
  match kget s.mem.cp pa with
  | none => s
  | some c =>
    let s := { s with mem := { s.mem with cp := kdel s.mem.cp pa } }
    if c.dirty && !s.lost pa then s.homeWrite pa c.val else s

/-- L2_EVICTION R279: a remote or CXL line leaves the L2 or the cache portion. Dirty bytes of a C line leave the L2 for the
cache portion, where there is one; others go to the device or the remote home. -/
def execL2Eviction (line : Nat) (portion : Bool) (s : State) : Host.Outcome State Fault Refusal :=
  if portion then
    let s := if dirtyLine s.mem.cp line then s.sendCxl line else s
    .next ((linePas line).foldl State.evictCp s)
  else .next (s.evictLine line)

/-- DELTA_FLUSH R244: a cluster's deltas of a line are sent to the home. -/
def execDeltaFlush (clu line : Nat) (s : State) : Host.Outcome State Fault Refusal :=
  .next (s.collect fun d => d.clu == clu && d.meets (64 * line) 64)

/-! ## Translations -/

/-- TRANSLATION_WALK R252: a walk fills a TLB entry. -/
def execTranslationWalk (clu : Nat) (engine : Bool) (vf proc : Nat) (va : W64) (s : State) :
    Host.Outcome State Fault Refusal :=
  if 128 ≤ clu || !canonical va then .next s else .next (s.tlbFill clu engine vf proc va)

/-- A transfer, or the arrival object of one or of a matrix instruction, was translated through the page of an address, and its
access is still to be performed. -/
def State.pageHeld (s : State) (vf proc : Nat) (va : W64) : Bool :=
  let hit (p : Piece) : Bool := va.toNat % 2 ^ 56 / p.size == p.va.toNat % 2 ^ 56 / p.size
  s.ranges.any fun r => ((s.launch r.launchId).any fun l => l.vf == vf && l.proc == proc) &&
    (s.xfers.any (fun x => x.range == r.id && (x.src ++ x.dst ++ x.obj).any hit) || r.mq.any fun e => e.obj.any hit)

/-- An access translated by the entry is still to be performed: a stamped store, a read at a time, a parked lock request, or the
final values of a reproducible launch's reductions (R265, R266). -/
def State.inUse (s : State) (t : Tlb) : Bool :=
  let hit (pa : Nat) : Bool := t.leaf.pa ≤ pa && pa < t.leaf.pa + t.leaf.size
  s.ops.any (fun o => match o.what with
    | .sts r _ _ _ => hit r.pa
    | .ldat _ _ pa _ _ _ => hit pa
    | _ => false) ||
  s.mem.lockq.any (fun w => w.peer.isNone && hit w.pa) || s.launches.any fun l => l.reds.any fun r => hit r.pa

/-- SHOOTDOWN R252: once every access translated by the entry has been performed, every TLB drops it. -/
def execShootdown (vf proc : Nat) (va : W64) (s : State) : Host.Outcome State Fault Refusal :=
  let hit (t : Tlb) : Bool := t.vf == vf && t.proc == proc && va.toNat % 2 ^ 56 / t.leaf.size == t.va / t.leaf.size
  if s.pageHeld vf proc va || (s.mem.tlb.filter hit).any s.inUse then .next s
  else .next { s with
    mem := { s.mem with tlb := s.mem.tlb.filter fun t => !hit t }
    ranges := s.ranges.map fun (r : Range) => { r with etlb := r.etlb.filter fun t => !hit t } }

/-! ## CXL.mem (R280) -/

def State.addPoison (s : State) (pas : List Nat) : State :=
  { s with mem := { s.mem with poison := s.mem.poison ++ pas.filter fun p => !s.mem.poison.contains p } }

/-- A request is answered. -/
def State.dropReq (s : State) (tag : Nat) : State :=
  { s with svc := { s.svc with cxlReqs := s.svc.cxlReqs.filter (·.tag != tag) } }

/-- A read has failed: its reader meets it. -/
def State.failReq (s : State) (tag : Nat) : State :=
  { s with svc := { s.svc with cxlReqs := s.svc.cxlReqs.map fun (r : CxlReq) => if r.tag == tag then { r with failed := true } else r } }

/-- CXL_RESPONSE R280: the bytes a device returns, which are BASE of a stamped line (R312), poison, or the acknowledgement of a
write. -/
def execCxlResponse (tag : Nat) (bytes : List Byte) (poison : Bool) (s : State) : Host.Outcome State Fault Refusal :=
  match s.svc.cxlReqs.find? (·.tag == tag) with
  | none => .next s
  | some r =>
    if r.failed then .next s
    else if r.write then .next ((s.dropReq tag).completeOp r.op [])
    else if poison then .next (s.failReq tag)
    else if bytes.length != 64 then .next s
    else
      let s := s.dropReq tag
      let s := match kget s.mem.slines r.line with
        | some l => s.putLine r.line { l with base := bytes }
        | none => { s with mem := { s.mem with home := Memory.writeN s.mem.home (64 * r.line) bytes } }
      .next ((linePas r.line).foldl (fun (s : State) pa => s.fillL2 pa (s.homeRead pa)) s)

/-- CXL_TIMEOUT R280: an unanswered read is a poisoned read; an unanswered write is logged, and its line is poisoned. -/
def execCxlTimeout (tag : Nat) (s : State) : Host.Outcome State Fault Refusal :=
  match s.svc.cxlReqs.find? (·.tag == tag) with
  | none => .next s
  | some r =>
    if r.failed then .next s
    else if r.write then .next ((((s.dropReq tag).addPoison (linePas r.line)).logError 0 4 r.line).completeOp r.op [])
    else .next (s.failReq tag)

/-- Ranges lie in the window, in units of 256 MiB, over 1 to 16 ports, and do not overlap (R280). -/
def cxlOk (rs : List CxlRange) : Bool :=
  let mib := 2 ^ 28
  rs.length ≤ 16 &&
  rs.all (fun r => r.base % mib == 0 && r.size % mib == 0 && r.base + r.size ≤ 7936 * 2 ^ 30 &&
    [1, 2, 4, 8, 16].contains r.ports.length && r.ports.all (· < 16) && r.gran ≤ 6) &&
  (List.range rs.length).all fun i => (List.range i).all fun j =>
    match rs[i]?, rs[j]? with
    | some a, some b => a.base + a.size ≤ b.base || b.base + b.size ≤ a.base
    | _, _ => true

/-- CXL_RANGE_CONFIGURATION R280. -/
def execCxlRangeConfiguration (ranges : List CxlRange) (s : State) : Host.Outcome State Fault Refusal :=
  if cxlOk ranges then .next { s with svc := { s.svc with cxl := ranges } } else .next s

/-! ## Errors and self-tests (R258, R259) -/

/-- BLOCK_ERROR R258: the block waits for its test, in the order of the errors; an error during its own test is noted. -/
def execBlockError (block : Block) (poison : List Nat) (s : State) : Host.Outcome State Fault Refusal :=
  let s := s.addPoison poison
  if s.svc.failedBlocks.contains block then .next s
  else
    let first := s.svc.errors.head? == some block
    let errs := if first then block :: s.svc.errors else s.svc.errors ++ [block]
    .next (if first || !s.svc.errors.contains block then { s with svc := { s.svc with errors := errs } } else s)

/-- The range's work is at its boundary (R284, R287), but for a handler on the failing block itself, which cannot run
on (R258). -/
def State.offBlock (s : State) (r : Range) (block : Block) : Bool :=
  ({ s with ctxs := s.ctxs.map fun (c : Ctx) => if s.blockOf c == block then { c with trap := .none } else c } : State).rangeStopped r

/-- A cluster's range moves off a failing block, or its launch is lost (R239, R259). -/
def State.moveOff (s : State) (clu : Nat) (destroyed : Bool) : State :=
  (s.ranges.filter (·.cluster == some clu)).foldl (fun (s : State) r =>
    match s.launch r.launchId with
    | none => s
    | some l =>
      if destroyed then s.endLaunch l.id 6
      else (s.saveRange r l.vf false).getD (s.endLaunch l.id 6)) s

/-- The cluster of a block that a range holds. -/
def Block.cluster : Block → Option Nat
  | .core c _ => some c
  | .store c _ => some c
  | .control c => some c
  | .engine c => some c
  | _ => none

/-- SELF_TEST R258: the first block with an error is tested. A pass returns it to service; a failure takes it out once
the work of its cluster has stopped; the log has every result. Whether a bank group has spare rows left is free; one that has
none is retired, and the host is told by the log of VF 0. For a store bank that fails the manual gives no action: it is logged
(notes/assumptions/115.md). -/
def execSelfTest (block : Block) (pass destroyed : Bool) (s : State) : Host.Outcome State Fault Refusal :=
  if s.svc.errors.head? != some block then .next s
  else
    let rest := s.svc.errors.filter (· != block)
    let good := pass && (s.svc.errors.filter (· == block)).length == 1
    let back : State := { s with svc := { s.svc with errors := rest, tests := s.svc.tests ++ [(block, good)] } }
    if good then .next back
    else
      let failed : State := { back with svc := { back.svc with failedBlocks := back.svc.failedBlocks ++ [block] } }
      match block with
      | .bank die group =>
        let k := die * 8 + group
        let (n, s) := back.newFree
        if Config.freeBool n then
          .next { s with svc := { s.svc with spares := kset s.svc.spares k ((kget s.svc.spares k).getD 0 + 1) } }
        else .next (({ s with svc := { s.svc with retired := s.svc.retired ++ [k] } } : State).logError 0 5 k)
      | .store _ _ => .next back
      | .l2 _ _ => .next failed
      | .copy _ _ => .next failed
      | .core clu _ | .control clu | .engine clu =>
        if !destroyed && (s.ranges.any fun r => r.cluster == some clu && !s.offBlock r block) then .next s
        else
          let moved := back.moveOff clu destroyed
          .next { moved with svc := { moved.svc with failedBlocks := moved.svc.failedBlocks ++ [block] } }

/-- MACHINE_CHECK R259: the launch that read poison ends with LOST. -/
def execMachineCheck (launchId pa : Nat) (s : State) : Host.Outcome State Fault Refusal :=
  if s.svc.checks.contains (launchId, pa) then
    .next (({ s with svc := { s.svc with checks := s.svc.checks.filter (· != (launchId, pa)) } } : State).endLaunch launchId 6)
  else .next s

/-! ## The service core -/

/-- SERVICE_CORE_FAILURE R294: the package stops, and every launch ends with LOST, one that was taken and has not begun
too. -/
def execServiceCoreFailure (s : State) : Host.Outcome State Fault Refusal :=
  let s := (s.launches.map (·.id)).foldl (fun (s : State) id => s.endLaunch id 6) { s with svc := { s.svc with dead := true } }
  .next ((s.disp.cmds.filter fun t => t.cmd.kind == 1 && !t.started).foldl
    (fun (s : State) t => s.beginLaunch t (newLaunch t []) (some 6)) s)

/-- FREEZE R297: every clock stops. -/
def execFreeze (s : State) : Host.Outcome State Fault Refusal := .next { s with svc := { s.svc with frozen := true } }

/-- Reset: everything but flash, fuses and what lies outside the package is lost (R295, R297). Firmware
configuration is loaded (R307, R329); the model's own tape and counter go on. -/
def State.resetPackage (s : State) (verified : Bool) : State :=
  { State.reset with
    tape := s.tape, fresh := s.fresh, nextId := s.nextId, images := s.images
    mem := { Mem.reset with home := s.mem.home.filter fun c => s.lowCached c.1 }
    fabric := { Fabric.reset with
      node := s.svc.firmware.node, ports := s.fabric.ports.map fun (p : Port) => { Port.reset with dmin := p.dmin } }
    mer := { Meridian.reset with
      mulim := s.svc.firmware.mulim, mwin := s.svc.firmware.mwin, mret := s.svc.firmware.mret
      ref := s.svc.firmware.ref.toNat, uref := s.svc.firmware.uref }
    svc := { Service.reset with
      firmware := s.svc.firmware, recovery := !verified, flashOk := s.svc.flashOk, attIdx := s.svc.attIdx, imageDigest := s.svc.imageDigest
      keyDigest := s.svc.keyDigest } }

/-- The flash holds an image that verifies, or not. -/
def State.setFlash (s : State) (ok : Bool) : State := { s with svc := { s.svc with flashOk := ok } }

/-- PACKAGE_RESET R295: the image is verified; a failure enters recovery, and so does every later reset until an image has
been written. -/
def execPackageReset (imageOk : Bool) (s : State) : Host.Outcome State Fault Refusal :=
  let ok := imageOk && s.svc.flashOk
  .next ((s.setFlash ok).resetPackage ok)

/-- RECOVERY_IMAGE R295: an image that verifies is written to flash in two steps: the write begins, and a reset then finds
flash unverifiable; the image is `written`, and the package resets. -/
def execRecoveryImage (image : NewImage) (digest : BitVec 256) (s : State) : Host.Outcome State Fault Refusal :=
  if !s.svc.recovery || !image.ok then .next s
  else if image.written then
    .next (({ s with svc := { s.svc with imageDigest := digest, flashOk := true } } : State).resetPackage true)
  else .next (s.setFlash false)

/-- ATTESTATION_REQUEST R296: a report under the next one-time key, refused when all 2^20 are used. -/
def execAttestationRequest (nonce : BitVec 256) (s : State) : Host.Outcome State Fault Refusal :=
  if 2 ^ 20 ≤ s.svc.attIdx then .next s
  else
    let r : Report :=
      { image := s.svc.imageDigest, key := s.svc.keyDigest, cacheUnits := s.svc.cacheUnits, pinUnits := s.svc.pinUnits
        cxl := s.svc.cxl, nonce := nonce, index := s.svc.attIdx }
    .next { s with svc := { s.svc with attIdx := s.svc.attIdx + 1, report := some r } }

end Sys2Proof.Machine
end

