-- ==== Sys2Proof/Machine/Fabric.lean ====
section
/-! DEFINITION. The fabric and the host's side of it: links and keys (14 R323 to R328), nodes and remote transactions
(R329, R330), remote memory (R331, R332), remote memory access, notifications and management registers (R343, R344), and
the end of an accounting window (12 R256, R286). -/

namespace Sys2Proof.Machine

/-! ## Links (R323 to R328) -/

/-- TIMING_FLIT_SEND R303: the flit carries the reported pair as it leaves. -/
def execTimingFlitSend (port : Nat) (s : State) : Host.Outcome State Fault Refusal :=
  let (k, s) := s.newFree
  .next (s.modPort port fun p => if p.carries then p.sendFlit (.timing s.fabric.node s.mer.lo s.mer.hi k) else p)

/-- RESEND_REQUEST R324: the contents of one of the last 64 flits go again under the next counter of its key, whichever key that
was; a timing flit does not (R303). -/
def execResendRequest (port ctr : Nat) (s : State) : Host.Outcome State Fault Refusal :=
  .next (s.modPort port fun p => match p.sent.reverse.find? (·.ctr == ctr) with
    | some x => p.again x.cargo
    | none => p)

/-- A port that has gone down gives its traffic to the others (R324). -/
def State.afterDown (s : State) (port : Nat) : State :=
  if (s.fabric.ports[port]?).any (·.state == 0) then s.moveTraffic port else s

/-- LANE_ERASURE R324: the port goes DEGRADED, which a control flit tells the other end; a second lane takes it DOWN. -/
def execLaneErasure (port lane : Nat) (s : State) : Host.Outcome State Fault Refusal :=
  let (k, s) := s.newFree
  .next ((s.modPort port fun p =>
    if p.state < 2 || 4 ≤ lane || bitOf p.erased lane then p
    else if p.erased != 0 then { p.down with erased := p.erased + 2 ^ lane }
    else ({ p with erased := 2 ^ lane, state := if p.state == 2 then 3 else p.state } : Port).control s.fabric.node k
      false).afterDown port)

/-- PORT_DOWN R324. -/
def execPortDown (port : Nat) (s : State) : Host.Outcome State Fault Refusal :=
  .next ((s.modPort port Port.down).afterDown port)

/-- LINK_TRAINING R303, R328: a port that is DOWN trains; it then comes up with the round trip of a timing flit. -/
def execLinkTraining (port : Nat) (rho : Option Nat) (s : State) : Host.Outcome State Fault Refusal :=
  .next (s.modPort port fun p => match rho with
    | none => if p.state == 0 then { p with state := 1 } else p
    | some r => if 2 ≤ p.state then p
      else ({ p with state := 2, erased := 0, rho := r, paused := 0, asked := [] } : Port).drain)

/-- PAUSE_UPDATE R325: flits of a VC that is no longer paused go on. -/
def execPauseUpdate (port : Nat) (vcs : BitVec 8) (s : State) : Host.Outcome State Fault Refusal :=
  .next (s.modPort port fun p => ({ p with paused := vcs.toNat } : Port).drain)

/-- KEY_STAGE R326, R327: the service cores have agreed the next key by keying flits; it stands in the unused slot of each
direction; an exhausted sender takes it at once. -/
def execKeyStage (port : Nat) (s : State) : Host.Outcome State Fault Refusal :=
  let (k, s) := s.newFree
  .next (s.modPort port fun p =>
    let q : Port := { p.control s.fabric.node k true with
      staged := true, rx0 := if p.rxidx then none else p.rx0, rx1 := if p.rxidx then p.rx1 else none }
    if p.state == 0 || p.staged then p
    else if p.state == 4 then ({ q.switchKey with state := p.upState } : Port).drain
    else q)

/-- KEY_EXHAUSTED R327: the last counter is used with no staged key. -/
def execKeyExhausted (port : Nat) (s : State) : Host.Outcome State Fault Refusal :=
  .next (s.modPort port fun p => if p.carries && !p.staged then { p with ctr := 2 ^ 32 - 1, state := 4 } else p)

/-- KEY_TIMEOUT R327. -/
def execKeyTimeout (port : Nat) (s : State) : Host.Outcome State Fault Refusal :=
  .next ((s.modPort port fun p => if p.state == 4 then p.down else p).afterDown port)

/-- What the receiver does with 256 bytes (R323, R324, R326): a bad flit is asked for again, by a control flit that names its
counter; one whose counter is not above the last accepted one of its key is rejected. -/
def Port.take (p : Port) (src body : Nat) (raw : RawFlit) : Port :=
  let f := Flit.ofBytes raw.bytes
  if p.state < 2 then p
  else if !RawFlit.ok raw then { p.control src body false with asked := p.asked ++ [f.ctr] }
  else if f.type == 1 || f.type == 3 then
    if p.rxc.any fun c => f.ctr ≤ c then p else { p with rxc := some f.ctr }
  else
    let last := if f.keyIdx then p.rx1 else p.rx0
    let got := if f.type == 0 then some f else p.got
    if last.any fun c => f.ctr ≤ c then p
    else if f.keyIdx then { p with rxidx := true, rx1 := some f.ctr, got := got }
    else { p with rxidx := false, rx0 := some f.ctr, got := got }

/-- The virtual channels whose buffers this receiver finds full are paused by a control flit: which they are is free, but
never RSP or INV (R325). -/
def Port.pause (p : Port) (src body : Nat) (x : W64) : Port :=
  let vcs := maskAnd (x.toNat % 64) 0x39
  if vcs == p.pausing then p else { p.control src body false with pausing := vcs }

/-- FLIT_RECEIVE R323 to R326. What an accepted flit asks for comes as a step of its own. -/
def execFlitReceive (port : Nat) (flit : RawFlit) (s : State) : Host.Outcome State Fault Refusal :=
  let (k, s) := s.newFree
  let (a, s) := s.newFree
  let (b, s) := s.newFree
  .next (s.modPort port fun p =>
    if p.state < 2 then p else (p.take s.fabric.node a flit).pause s.fabric.node b (Config.freeWord k))

/-! ## Remote transactions (R330) -/

/-- The line's directory entry gains a node (R331). -/
def State.dirAdd (s : State) (node line : Nat) : State :=
  let d := ((kget s.mem.dir line).getD ⟨[], 0⟩).add node
  { s with mem := { s.mem with dir := kset s.mem.dir line d } }

/-- An answer that comes once every invalidation is acknowledged (R331 item 2). -/
def State.answerAfter (s : State) (told : Bool) (r : RemoteReq) (answer : List Byte) : State :=
  if told then
    let (id, s) := s.newId
    { s with ops := s.ops ++ [⟨id, [], none, .serve r answer, 0⟩] }
  else s.keep r answer

/-- A home write for another node, its answer after the invalidations of the other nodes of the entry (R331 item 2). -/
def State.remoteWrite (s : State) (r : RemoteReq) (bs answer : List Byte) : State :=
  let (s, told) := (s.sliceWriteN r.pa bs).invalidateDir r.node (r.pa / 64)
  s.answerAfter told r answer

/-- What this home does for another node's VF is charged to that VF's remote allowance: bytes at the slice, bytes below
it, at a bank group that is free, and the flit of the answer at the group of its port (R255, R286, R370). -/
def State.chargeHomeWork (s : State) (r : RemoteReq) (n below : Nat) : State :=
  let (k, s) := s.newFree
  let bank := s.homeDieOf r.pa * 64 + 28 + Config.freeCycles k % 8
  let s := (s.charge (s.homeTile r.pa) r.vf 0 0 true (s.coef (s.homeTile r.pa) 6 * n)).1
  let s := (s.charge bank r.vf 0 0 true (s.coef bank (if inCxl r.pa then 8 else 7) * below)).1
  match s.portFor r.node r.tag with
  | some p => (s.charge (portTile p) r.vf 0 0 true (s.coef (portTile p) 10)).1
  | none => s

/-- The bytes of a request. -/
def reqSize (r : RemoteReq) : Nat :=
  match r.kind with
  | .read n => n
  | .write bs => bs.length
  | .atom _ ty _ => ty.bytes
  | .cas ty _ _ => ty.bytes
  | .sts x => x.size
  | .ldat _ n => n
  | .dir => 0
  | .crng _ _ => 0
  | .lock _ => 4
  | .unlock _ => 4
  | .writeBack bs _ => bs.length
  | .send _ => 0
  | .owner _ _ => 0

/-- The bytes of a transaction stay within one line; a write-back is of a whole one. -/
def reqFits (r : RemoteReq) : Bool :=
  r.pa % 64 + reqSize r ≤ 64 && (match r.kind with
    | .writeBack bs _ => bs.length == 64
    | _ => true)

/-- Serving a request: how many bytes it moves below the slice depends on what the slice holds, so that is free. A
write-back moves the bytes it has. -/
def State.chargeRemote (s : State) (r : RemoteReq) : State :=
  let (k, s) := s.newFree
  match r.kind with
  | .writeBack bs _ => s.chargeHomeWork r (bs.filter (·.isSome)).length (bs.filter (·.isSome)).length
  | .send _ => s
  | .owner _ _ => s
  | _ => s.chargeHomeWork r (reqSize r) (Config.freeCycles k)

/-- Merges the bytes of a write-back (R331 item 2). -/
def State.mergeLine (s : State) (pa : Nat) (bytes : List (Option Byte)) : State :=
  ((List.range 64).zip bytes).foldl (fun (s : State) x => match x.2 with
    | some b => (s.sliceWrite (pa + x.1) b).note 0 (.g (pa + x.1) false)
    | none => s) s

/-- The coordinator of a read-duplicate page: the lowest node of its replica set (R332). -/
def State.coordinator (s : State) (page : Nat) : Option Nat :=
  match kget s.fabric.replicas page with
  | some (n :: ns) => some (ns.foldl min n)
  | _ => none

/-- This package is the coordinator. -/
def State.coordinates (s : State) (page : Nat) : Bool := s.coordinator page == some s.fabric.node

/-- Makes a node the owner of a piece that has none. -/
def State.own (s : State) (page piece node : Nat) : State :=
  match kget s.fabric.owners (page * 32 + piece) with
  | some _ => s
  | none => { s with fabric := { s.fabric with owners := kset s.fabric.owners (page * 32 + piece) node } }

/-- The coordinator takes a request for a piece: its node becomes the owner if there is none, and hears who is, on VC 5 (R325,
R332). -/
def State.serveOwner (s : State) (node tag page piece : Nat) : State :=
  if s.coordinates page && piece < 32 && ((kget s.fabric.replicas page).getD []).contains node then
    let s := s.own page piece node
    if node == s.fabric.node then s else s.sendData 5 node (2 ^ 16 + tag)
  else s

/-- The bytes whose contents a request needs at their home: of a record or a read at a time the line's. -/
def needs (r : RemoteReq) : List Nat :=
  match r.kind with
  | .write _ => []
  | .writeBack _ _ => []
  | .sts _ => linePas (r.pa / 64)
  | .ldat _ _ => linePas (r.pa / 64)
  | _ => (List.range (reqSize r)).map (r.pa + ·)

/-- Performs a transaction at its home here and answers it (R330). A poisoned byte raises a machine check, and the answer has no
bytes (R259, notes/assumptions/27.md). An LDAT stays parked until lo is past its time (R319). -/
def State.serve (s : State) (r : RemoteReq) : State :=
  let line := r.pa / 64
  if let some pa := (needs r).find? s.poisoned then ((s.chargeRemote r).dispBad 0 pa).reply r false []
  else
  let s := (s.collect fun d => d.meets (64 * line) 64).chargeRemote r
  match r.kind with
  | .read n => (s.dirAdd r.node line).reply r false ((List.range n).map fun k => s.sliceSeen (r.pa + k))
  | .dir => (s.dirAdd r.node line).keep r []
  | .write bs => s.remoteWrite r bs []
  | .atom op ty v =>
    let old := s.sliceSeenVal r.pa ty.bytes
    s.remoteWrite r (leBytes ty.bytes (rmwVal op ty (BitVec.ofNat 64 old) v)) (leBytes ty.bytes old)
  | .cas ty cmp swap =>
    let old := s.sliceSeenVal r.pa ty.bytes
    let hit := old == cmp.toNat % 2 ^ ty.width
    if hit then s.remoteWrite r (leBytes ty.bytes swap.toNat) (leBytes ty.bytes old) else s.keep r (leBytes ty.bytes old)
  | .sts x =>
    let (s, status) := s.takeRecord x
    s.keep r (leBytes 1 status)
  | .ldat t n =>
    (match s.ldatFor t r.pa n with
    | (s, some bs) => s.reply r false bs
    | (s, none) =>
      let (id, s) := s.newId
      { s with ops := s.ops ++ [⟨id, [], none, .serveAt r, 0⟩] })
  | .crng var n => s.crng var 3 0 r.pa n
  | .lock write => s.peerLock r write
  | .unlock write => s.peerUnlock r write
  | .writeBack bs evict =>
    let s := s.mergeLine r.pa bs
    if evict then s.keep r []
    else
      let (s, told) := s.invalidateDir r.node line
      s.answerAfter told r []
  | .send x => s.comeDown x
  | .owner page piece => s.serveOwner r.node r.tag page piece

/-- A CRNG at scope fabric of another package acts on this package's caches (R176), wherever the home of its range is. -/
def anywhere (r : RemoteReq) : Bool :=
  match r.kind with
  | .crng _ _ => true
  | _ => false

/-- The request is queued (R286), performed and not yet answered, or a lock request that is parked here (R245): a resend of
it is answered with HOLD. -/
def State.holding (s : State) (r : RemoteReq) : Bool :=
  s.fabric.queued.contains r || s.mem.lockq.any (·.peer == some r) || s.ops.any fun o => match o.what with
    | .serve x _ => x == r
    | .serveAt x => x == r
    | _ => false

/-- A request that reads bytes which this home cannot read yet: their block waits for its test (R258), or a CXL device must
give them (R280). -/
def State.notYet (s : State) (r : RemoteReq) : Option State :=
  let pas := (List.range (reqSize r)).map (r.pa + ·)
  if pas.any s.underTest then some s
  else if (needs r).any s.poisoned then none
  else match (needs r).find? s.lowMiss with
    | some pa => some (s.askCxl (pa / 64))
    | none => none

/-- The request joins those that wait. -/
def State.enqueue (s : State) (r : RemoteReq) : State := { s with fabric := { s.fabric with queued := s.fabric.queued ++ [r] } }

/-- REMOTE_REQUEST R330, R286, R176: a resent transaction is not performed again, but gets its answer again, or HOLD;
without remote allowance it is queued. -/
def execRemoteRequest (req : RemoteReq) (s : State) : Host.Outcome State Fault Refusal :=
  if req.node == s.fabric.node || (!anywhere req && (s.remote req.pa || !reqFits req)) then .next s
  else if let some x := s.fabric.kept.find? fun x => x.req == req && s.mer.ticks ≤ x.tick + 1000000 then
    .next (s.reply req false x.answer)
  else if s.holding req then .next (s.reply req true [])
  else if (s.acct req.vf).rbal ≤ 0 then .next (s.enqueue req)
  else if let some t := s.notYet req then .next (t.reply req true [])
  else .next (s.serve req)

/-- WRITE_BACK_MERGE R331: merged by byte; unless it comes from an eviction, every other node of the entry is told, and the
acknowledgement waits for theirs; the VF whose bytes they are pays for the merge (R286, R370). -/
def execWriteBackMerge (sender : Sender) (pa : Nat) (bytes : List (Option Byte)) (evict : Bool) (s : State) :
    Host.Outcome State Fault Refusal :=
  if pa % 64 != 0 then .next s
  else execRemoteRequest ⟨sender.node, sender.tag, sender.vf, pa, .writeBack bytes evict⟩ s

/-- ACCOUNTING_WINDOW_END R256, R282, R286: after the refill the queued requests are served in order; one that reads what its
home cannot read yet stays, and those of its VF behind it (R258, R280). -/
def execAccountingWindowEnd (meas : List TileMeas) (overhead : Int) (s : State) : Host.Outcome State Fault Refusal :=
  let s := s.windowEnd meas overhead
  let ready (r : RemoteReq) : Bool := 0 < (s.acct r.vf).rbal
  let step (t : State) (r : RemoteReq) : State :=
    if !ready r || t.fabric.queued.any (·.vf == r.vf) then t.enqueue r
    else match t.notYet r with
      | some t => t.enqueue r
      | none => t.serve r
  .next (s.fabric.queued.foldl step { s with fabric := { s.fabric with queued := [] } })

/-- A transaction goes again, over another port of the set where there is one (R330). -/
def State.sendAgain (s : State) (x : Rtx) : State :=
  let ps := s.routesTo x.node
  let port := match ps.filter fun p => some p != x.port with
    | p :: _ => some p
    | [] => ps.head?
  let y := { x with resends := x.resends + 1, port := port }
  let (k, s) := s.newFree
  let s := { s with fabric := { s.fabric with rtx := s.fabric.rtx.map fun (z : Rtx) => if z.tag == x.tag then y else z } }
  s.putOn port (.data s.fabric.node 0 x.node x.tag k)

/-- TRANSACTION_RESEND R330: HOLD answers it, or it goes again. -/
def execTransactionResend (r : Resend) (s : State) : Host.Outcome State Fault Refusal :=
  match s.fabric.rtx.find? (·.tag == r.tag) with
  | none => .next s
  | some x =>
    if r.hold then
      .next { s with fabric := { s.fabric with rtx := s.fabric.rtx.map fun (y : Rtx) =>
        if y.tag == r.tag then { y with since := s.mer.ticks } else y } }
    else .next (s.sendAgain x)

/-- What the declaration does to an operation: stores to the node are discarded, and a fence whose wait set holds one of them
fails (R330, R342). `gone` lists them. -/
def Op.peerFailed (gone : List Nat) (o : Op) : Op :=
  match o.what with
  | .remote n f l => { o with what := .remote n (f || gone.contains o.id) l }
  | .fence set failed acq dst => { o with what := .fence set (failed || set.any gone.contains) acq dst }
  | _ => o

/-- It waits for the answer of a node to a read: that access meets the failure when it is tried again. -/
def Op.readsFrom (node : Nat) (o : Op) : Bool :=
  match o.what with
  | .fetch line => nodeOf (64 * line) == node
  | .visit line => nodeOf (64 * line) == node
  | _ => false

/-- The stores to a node that are not acknowledged. -/
def State.unackedTo (s : State) (node : Nat) : List Nat :=
  s.ops.filterMap fun o => match o.what with
    | .remote n false _ => if n == node then some o.id else none
    | _ => none

/-- A node may be declared failed (R330): a switch reports it, no port routes to it, or a transaction to it has had neither
an answer nor a HOLD for 200 µs. -/
def State.mayFail (s : State) (node : Nat) (reported : Bool) : Bool :=
  reported || (s.routesTo node).isEmpty || s.fabric.rtx.any fun x => x.node == node && x.since + 200000 ≤ s.mer.ticks

/-- NODE_FAILED R330: the map, the stores that are not acknowledged, the reads that wait for the node, the notices. -/
def execNodeFailed (f : NodeReport) (s : State) : Host.Outcome State Fault Refusal :=
  let node := f.node
  if node == s.fabric.node || 2 ^ 13 ≤ node || s.fabric.failed.contains node || !s.mayFail node f.reported then .next s
  else
    let reads := s.ops.filterMap fun o => match o.what with
      | .ldat _ _ pa _ _ _ => if nodeOf pa == node then some (s.launchIdOf (o.ctxs.headD 0), pa) else none
      | _ => none
    let s := { s with
      ops := (s.ops.map (Op.peerFailed (s.unackedTo node))).filter fun o => !o.readsFrom node
      fabric := { s.fabric with
        failed := s.fabric.failed ++ [node], rtx := s.fabric.rtx.filter (·.node != node) }
      svc := { s.svc with checks := s.svc.checks ++ reads } }
    .next ((s.host.rings.map (·.vf)).foldl (fun (s : State) vf => s.notify vf ⟨5, 0, 0, BitVec.ofNat 64 node⟩) s)

/-! ## Remote memory (R331, R332) -/

/-- INVALIDATION R331 item 3: the clean bytes of the line below the L1s are dropped, and the home has its acknowledgement
(R325). -/
def execInvalidation (line : Nat) (s : State) : Host.Outcome State Fault Refusal :=
  let stays (e : Nat × CByte) : Bool := e.1 / 64 != line || e.2.dirty
  let s := { s with mem := { s.mem with l2 := s.mem.l2.filter stays, cp := s.mem.cp.filter stays } }
  .next (if s.remote (64 * line) then s.sendData 2 (nodeOf (64 * line)) (2 ^ 16 + line) else s)

/-- OWNERSHIP_REQUEST R332: the first request makes its node the owner; another package's waits for its VF's remote allowance
(R286). -/
def execOwnershipRequest (page piece : Nat) (sender : Sender) (s : State) : Host.Outcome State Fault Refusal :=
  if sender.node != s.fabric.node && (s.acct sender.vf).rbal ≤ 0 then
    .next (s.enqueue ⟨sender.node, sender.tag, sender.vf, 0, .owner page piece⟩)
  else .next (s.serveOwner sender.node sender.tag page piece)

/-- The address and word of the 2 MiB leaf that maps an address, if one does (R250, R251). -/
def State.bigLeaf (s : State) (va : Nat) : List (Nat × Nat × Nat) → Nat → Option (Nat × Nat)
  | [], _ => none
  | (sh, n, _) :: rest, table =>
    let at_ := table + va / 2 ^ sh % 2 ^ n * 8
    let e := s.sliceVal at_ 8
    if sh == 21 then (if e % 4 == 3 then some (at_, e) else none)
    else if e % 4 == 1 then s.bigLeaf va rest (e / 2 ^ 8 % 2 ^ 48 * 2 ^ 8)
    else none

/-- The leaf of a piece whose owner holds it at `pa`: W stays, D goes (R332). -/
def ownedLeaf (e pa : Nat) : Nat := e / 2 ^ 56 * 2 ^ 56 + pa / 2 ^ 16 % 2 ^ 40 * 2 ^ 16 + maskDel (e % 2 ^ 16) 6

/-- COLLAPSE R332: a piece of a read-duplicate page becomes an ordinary 64 KiB page that maps the owner's copy, and the
parked write is tried again. The 32 leaves stand in the state, the spec giving their table no place. -/
def execCollapse (vf proc : Nat) (va : W64) (ownerPa : Nat) (s : State) : Host.Outcome State Fault Refusal :=
  let a := va.toNat % 2 ^ 56
  let piece := a / 2 ^ 16 % 32
  let inPage (t : Tlb) : Bool := t.vf == vf && t.proc == proc && t.va / 2 ^ 21 == a / 2 ^ 21
  match s.bigLeaf a walkLevels (s.proc vf proc).root with
  | none => .next s
  | some (entry, e) =>
    match s.leafOf e (2 ^ 21) with
    | .error _ => .next s
    | .ok leaf =>
      let page := leaf.pa / 2 ^ 21
      let node := nodeOf ownerPa
      let plain := (List.range 32).map fun k => e + k * 2 ^ 16
      let old := ((s.fabric.splits.find? fun x => x.entry == entry && x.old == e).map (·.leaves)).getD plain
      let mine := leaf.pa + piece * 2 ^ 16
      if !leaf.d || !leaf.w || ownerPa % 2 ^ 16 != 0 || !bitOf ((old[piece]?).getD 0) 6 ||
          (node == s.fabric.node && ownerPa != mine) ||
          (kget s.fabric.owners (page * 32 + piece)).any (· != node) || s.pageHeld vf proc va ||
          (s.mem.tlb.filter inPage).any s.inUse then .next s
      else
        let s := match s.coordinator page with
          | some n => if n == s.fabric.node then s.own page piece node else s.sendData 5 n (2 ^ 16 + page)
          | none => s
        let new : Split := ⟨entry, e, old.set piece (ownedLeaf e ownerPa)⟩
        let s := { s with
          fabric := { s.fabric with splits := (s.fabric.splits.filter fun (x : Split) => x.entry != entry) ++ [new] }
          mem := { s.mem with tlb := s.mem.tlb.filter fun t => !inPage t }
          ranges := s.ranges.map fun (r : Range) => { r with etlb := r.etlb.filter fun t => !inPage t } }
        .next (s.resolvePage vf proc (BitVec.ofNat 64 (va.toNat / 2 ^ 16 * 2 ^ 16)))

/-! ## The host (R343, R344) -/

/-- RMA_WRITE R344: performed at the homes, or refused and nothing changes. -/
def execRmaWrite (window off : Nat) (bytes : List Byte) (via : Via) (s : State) : Host.Outcome State Fault Refusal :=
  if !s.viaOk via then .next (s.answer false []) else .next (s.serveRma ⟨via.vf, window, off, bytes.length, true, bytes⟩)

/-- RMA_READ R344: it waits for lines that must be read first. -/
def execRmaRead (window off len : Nat) (via : Via) (s : State) : Host.Outcome State Fault Refusal :=
  if !s.viaOk via then .next (s.answer false []) else .next (s.serveRma ⟨via.vf, window, off, len, false, []⟩)

/-- UNSUPPORTED_OPERATION R343: a negative acknowledgement. -/
def execUnsupportedOperation (_via : Via) (s : State) : Host.Outcome State Fault Refusal := .next (s.answer false [])

/-- The host has taken entries up to a head; held notices follow while there is room (R344). -/
def Ring.takeTo (r : Ring) (head : Nat) : Ring :=
  let room := 2 ^ r.log - (r.tail - head)
  let k := min room r.held.length
  { r with
    head := head, tail := r.tail + k, held := r.held.drop k
    written := r.written.drop (head - r.head) ++ r.held.take k }

/-- The packet is for the management endpoint, which belongs to VF 0, and secured with that VF's key (R343). -/
def State.manages (s : State) (via : Via) : Bool := s.viaOk via && via.vf == 0

/-- NOTIFICATION_HEAD_WRITE R344: at the management endpoint. -/
def execNotificationHeadWrite (via : Via) (ring : RingHead) (s : State) : Host.Outcome State Fault Refusal :=
  if !s.manages via then .next (s.answer false [])
  else .next { s with host := { s.host with rings := s.host.rings.map fun (r : Ring) =>
    if r.vf == ring.vf && r.head ≤ ring.head && ring.head ≤ r.tail then r.takeTo ring.head else r } }

/-- REGISTER_WRITE R307, R328, R343, R344: the management registers and configuration without a row of their own, which name one of
64 VFs and 256 processes of each (R2); a packet of the host must be one for the management endpoint. -/
def execRegisterWrite (write : MgmtWrite) (s : State) : Host.Outcome State Fault Refusal :=
  if write.via.any fun v => !s.manages v then .next (s.answer false [])
  else match write.reg with
  | .clearFailed node =>
    .next { s with fabric := { s.fabric with failed := s.fabric.failed.filter (· != node) } }
  | .root vf proc pa =>
    .next (if vf < 64 && proc < 256 then s.setProc vf proc { s.proc vf proc with root := pa % 2 ^ 56 } else s)
  | .window vf index proc base len r w =>
    let w : Window := ⟨vf, index, proc, base, len, r, w⟩
    let others := s.host.windows.filter fun x => !(x.vf == vf && x.index == index)
    .next (if vf < 64 && proc < 256 && index < 64 then { s with host := { s.host with windows := others ++ [w] } } else s)
  | .ring vf addr log =>
    let held := ((s.host.rings.find? (·.vf == vf)).map (·.held)).getD []
    let r : Ring := Ring.takeTo ⟨vf, addr, log, 0, 0, [], held⟩ 0
    .next (if vf < 64 && 4 ≤ log && log ≤ 16 then
      { s with host := { s.host with rings := (s.host.rings.filter (·.vf != vf)) ++ [r] } } else s)
  | .route node ports =>
    .next (if node < 2 ^ 13 && ports.length ≤ 8 && ports.all (· < 64) then
      { s with fabric := { s.fabric with routes := kset s.fabric.routes node ports } } else s)
  | .replicas page nodes =>
    .next (if nodes.all (· < 2 ^ 13) then
      { s with fabric := { s.fabric with replicas := kset s.fabric.replicas page nodes } } else s)
  | .tier present => .next { s with fabric := { s.fabric with tier := present } }
  | .dmin port value => .next (s.modPort port fun p => { p with dmin := value })
  | .firmware node mulim mwin mret ref uref =>
    .next (if node < 2 ^ 13 && 16 ≤ mulim && mulim ≤ 1000000 && 1000 ≤ mwin && mwin ≤ 1048576 && 16000 ≤ mret &&
        mret ≤ 16777216 then { s with svc := { s.svc with firmware := ⟨node, mulim, mwin, mret, ref, uref⟩ } } else s)
  | .security vf key =>
    .next (if vf < 64 then { s with host := { s.host with keys := kset s.host.keys vf key } } else s)
  | .linkstat port => .next (match s.fabric.ports[port]? with
    | some p => s.answer true (leBytes 8 p.linkstat)
    | none => s.answer false [])
  | .meridian reg => .next (match s.mer.register reg with
    | some v => s.answer true (leBytes 8 v)
    | none => s.answer false [])
  | .keySwitch port => .next (s.modPort port fun p => if p.staged then { p with ordered := true } else p)

end Sys2Proof.Machine
end

