-- ==== Sys2Proof/Machine/Sched.lean ====
section
/-! DEFINITION. The steps that schedule the contexts of a core (06 R120, R122, R125, R131, R136, R137), and the
completion of asynchronous operations (02 R39). Cores are numbered 8 × cluster + core over the package. -/

namespace Sys2Proof.Machine

/-- The contexts of a core, resident or spilled. -/
def State.coreCtxs (s : State) (core : Nat) : List Ctx :=
  s.ctxs.filter fun c =>
    c.kind != .control && (s.range c.range).any (fun r => r.cluster == some (core / 8)) &&
    s.physCore c.range c.core == core % 8

/-- Its launch goes on: the VF runs, nothing drains it, and it is not ending (R283, R287). -/
def State.mayRun (s : State) (c : Ctx) : Bool :=
  match s.launchOf c with
  | some l => l.status.isNone && s.working l
  | none => false

/-! ## The trap slot (R137) -/

/-- TRAP_SLOT_GRANT R137: in the order of their traps. -/
def execTrapSlotGrant (core : Nat) (s : State) : Host.Outcome State Fault Refusal :=
  let cs := s.coreCtxs core
  if cs.any fun c => c.trap == .slot then .next s
  else
    match leastBy (fun (c : Ctx) => (c.turn).getD 0) (cs.filter fun c => c.turn.isSome && s.mayRun c) with
    | none => .next s
    | some c =>
      match (s.launchOf c).bind (·.trapEntry) with
      | none => .next s
      | some entry => .next (s.setCtx (c.enterSlot entry))

/-! ## The active set (R136) -/

/-- Resident, not active, and ready: what it waited for, if anything, has come. -/
def State.readyIdle (s : State) (c : Ctx) : Bool :=
  c.resident && !c.active && c.trap == .none && !s.blocked c && c.nextIssue.isSome && !c.items.isEmpty && s.mayRun c

/-- A context takes an active slot. -/
def State.promote (s : State) (id : Nat) : State :=
  let (n, s) := s.newId
  s.modCtx id fun c => { c with active := true, slotAt := n }

/-- ACTIVE_SET_PROMOTE R136: the oldest ready context takes a free slot of the eight. -/
def execActiveSetPromote (core : Nat) (s : State) : Host.Outcome State Fault Refusal :=
  let cs := s.coreCtxs core
  if 8 ≤ (cs.filter (·.active)).length then .next s
  else
    match leastBy Ctx.seniority (cs.filter s.readyIdle) with
    | none => .next s
    | some c => .next (s.promote c.id)

/-- OVERDUE_REPLACE R136: which ready context is overdue is a matter of time, which is not in the model, so it is a
free choice; it replaces the context that has held its slot longest. -/
def execOverdueReplace (core : Nat) (s : State) : Host.Outcome State Fault Refusal :=
  let cs := s.coreCtxs core
  let ready := cs.filter s.readyIdle
  let (k, s) := s.newFree
  match leastBy (·.slotAt) (cs.filter fun c => c.active), ready[Config.freeCycles k % max 1 ready.length]? with
  | some old, some c => .next ((s.modCtx old.id fun c => { c with active := false }).promote c.id)
  | _, _ => .next s

/-- TOKEN_OUTSTANDING_BEYOND_64_CYCLES R136: the context leaves the active set. -/
def execTokenOutstandingBeyond64Cycles (ctx : Nat) (s : State) : Host.Outcome State Fault Refusal :=
  .next (s.modCtx ctx fun c =>
    match c.wait with
    | .tokens _ _ => { c with active := false }
    | .op _ => { c with active := false }
    | _ => c)

/-- JOIN_TIMEOUT R131: the span continues at the next word. -/
def execJoinTimeout (ctx : Nat) (s : State) : Host.Outcome State Fault Refusal :=
  match s.ctx ctx with
  | none => .next s
  | some c =>
    match c.wait with
    | .join _ => .next (if s.mayRun c then s.leaveJoin ctx else s)
    | _ => .next s

/-! ## Space (R120, R122, R125) -/

def Ctx.waitsForSpace (c : Ctx) : Bool :=
  match c.wait with
  | .space _ => true
  | .remainder => true
  | _ => false

/-- Room in the die save area or the pool for the window of a context. -/
def State.roomFor (s : State) (c : Ctx) (l : Launch) : Bool :=
  let n := 256 * c.blocks l
  s.spilled l c.range c.core + n ≤ 2 ^ 20 || s.poolRoom l.vf n

/-- The one space waiter of a core is its youngest and its oldest: its own window goes to its next strand, and what is
left of it stays spilled (R120, R125). -/
def State.spillSelf (s : State) (c : Ctx) (l : Launch) : State :=
  match c.kind with
  | .span lo hi =>
    if c.wait != .remainder || ((divisions l.w (hi - lo) lo hi).length != 1 && !s.roomFor c l) then s
    else
      let t := (s.setCtx c.spill).formStrands { c with reserve := 0 } l 1
      if t.nextId == s.nextId then s else ((t.modCtx s.nextId Ctx.spill).chargeSpill s c).refresh c
  | _ => s

/-- SPACE_WAITER_SPILL R120: the youngest space waiter gives its window up, and what is freed is granted to the oldest until
its request is met. -/
def execSpaceWaiterSpill (core : Nat) (s : State) : Host.Outcome State Fault Refusal :=
  let cs := (s.coreCtxs core).filter (·.resident)
  let waiters := cs.filter fun c => c.waitsForSpace && s.blocked c
  if cs.any (fun c => c.turn.isNone && c.nextIssue.isSome && !c.items.isEmpty && !s.blocked c) then .next s
  else
    match leastBy (fun c => 2 ^ 200 - c.seniority) waiters with
    | none => .next s
    | some c =>
      match s.launchOf c with
      | none => .next s
      | some l =>
        if waiters.length == 1 then .next (s.spillSelf c l)
        else if s.roomFor c l then
          let t := ((s.setCtx c.spill).chargeSpill s c).refresh c
          .next (match leastBy Ctx.seniority waiters with
            | some d => t.modCtx d.id fun d => { d with first := true }
            | none => t)
        else .next s

/-- SPILLED_CONTEXT_RETURN R122: the oldest, once a slot and its window's store are free and not granted to a space waiter;
ISSUED starts again (R157), and its offers stand again (R335). -/
def execSpilledContextReturn (core : Nat) (s : State) : Host.Outcome State Fault Refusal :=
  match leastBy Ctx.seniority ((s.coreCtxs core).filter fun c => !c.resident && s.mayRun c) with
  | none => .next s
  | some c =>
    match s.launchOf c with
    | none => .next s
    | some l =>
      if s.freeSlots c.range c.core == 0 || s.freeFor c l < c.blocks l then .next s
      else .next ((s.setCtx { c with resident := true, issued := 0 }).seatAll.refresh c)

/-- REMAINDER_STRAND_FORM R125: the next strand of a remainder. -/
def execRemainderStrandForm (ctx : Nat) (s : State) : Host.Outcome State Fault Refusal :=
  match s.ctx ctx with
  | none => .next s
  | some c =>
    match s.launchOf c with
    | none => .next s
    | some l =>
      if c.wait == .remainder && c.resident && s.mayRun c && (s.range c.range).any (·.cluster.isSome) then
        .next (s.formStrands c l 1)
      else .next s

/-! ## Completion (R39, R177) -/

/-- What a fabric fence still waits for is acknowledged or discarded, and whether something was discarded. -/
def State.fenceDone (s : State) (set : List Nat) : Option Bool :=
  let left := s.ops.filter fun o => set.contains o.id
  let gone (o : Op) : Bool := match o.what with
    | .remote _ f _ => f
    | _ => true
  if left.all gone then some (!left.isEmpty) else none

/-- An operation that no token or destination follows is over. -/
def State.dropOp (s : State) (op : Nat) : State := { s with ops := s.ops.filter (·.id != op) }

/-- A status for a scalar destination. -/
def scalResult (dst : Option Nat) (v : Nat) : List (LDst × W64) :=
  match dst with
  | some r => [(.scal r, BitVec.ofNat 64 v)]
  | none => []

/-- TOKEN_OPERATION_COMPLETE R39: an operation that is done completes; a store's home acknowledges it; a request of another
node whose invalidations are acknowledged is answered (R331); a fabric fence completes when its whole wait set has; the answer to
a read of a line brings it into the L2 slice, that to a load or atomic at another node lets its word be taken up (R330); a host's
access that waited is tried again (R344). Other operations complete by events of their own. -/
def execTokenOperationComplete (op : Nat) (s : State) : Host.Outcome State Fault Refusal :=
  match s.op op with
  | none => .next s
  | some o =>
    match o.what with
    | .ready => .next (s.completeOp op [])
    | .fence set failed acq dst =>
      (match s.fenceDone set with
      | none => .next s
      | some lost =>
        let s := if acq then o.ctxs.foldl (fun (s : State) x =>
            match s.ctx x with
            | some c => s.dropClean (s.cluOf c)
            | none => s) s
          else s
        let s := { s with ops := s.ops.filter fun p => !set.contains p.id }
        .next (s.completeOp op (scalResult dst (failed || lost).toNat)))
    | .remote _ false _ =>
      if s.svc.cxlReqs.any (·.op == op) || s.txUnsent op then .next s
      else .next ((s.closeTx op).completeOp op [])
    | .serve r answer => .next ((s.dropOp op).keep r answer)
    | .fetch line =>
      if s.txUnsent op then .next s
      else
        let s := (s.dropOp op).closeTx op
        .next ((linePas line).foldl (fun (s : State) pa => s.fillL2 pa (s.homeRead pa)) s)
    | .visit line =>
      if s.txUnsent op then .next s
      else .next (o.ctxs.foldl (fun (s : State) x => s.modCtx x fun c => { c with visited := c.visited ++ [line] })
        ((s.dropOp op).closeTx op))
    | .rma r => .next ((s.dropOp op).serveRma r)
    | _ => .next s

end Sys2Proof.Machine
end

