-- ==== Sys2Proof/Machine/Dispatch.lean ====
section
/-! DEFINITION. One arm for every constructor of Instr: a direct call of its meaning. -/

namespace Sys2Proof.Machine

def exec (i : Instr) (s : State) : Host.Outcome State Fault Refusal :=
  match i with
  | .nop f => Sys2Proof.Machine.execNop f s
  | .bra f => Sys2Proof.Machine.execBra f s
  | .brx f => Sys2Proof.Machine.execBrx f s
  | .call f => Sys2Proof.Machine.execCall f s
  | .ret f => Sys2Proof.Machine.execRet f s
  | .exit f => Sys2Proof.Machine.execExit f s
  | .yield f => Sys2Proof.Machine.execYield f s
  | .rep f => Sys2Proof.Machine.execRep f s
  | .trap f => Sys2Proof.Machine.execTrap f s
  | .brk f => Sys2Proof.Machine.execBrk f s
  | .rte f => Sys2Proof.Machine.execRte f s
  | .mfsr f => Sys2Proof.Machine.execMfsr f s
  | .mtsr f => Sys2Proof.Machine.execMtsr f s
  | .waitk f => Sys2Proof.Machine.execWaitk f s
  | .split f => Sys2Proof.Machine.execSplit f s
  | .join f => Sys2Proof.Machine.execJoin f s
  | .refill f => Sys2Proof.Machine.execRefill f s
  | .bmark f => Sys2Proof.Machine.execBmark f s
  | .rjoin f => Sys2Proof.Machine.execRjoin f s
  | .spanq f => Sys2Proof.Machine.execSpanq f s
  | .rgrow f => Sys2Proof.Machine.execRgrow f s
  | .form f => Sys2Proof.Machine.execForm f s
  | .iadd f => Sys2Proof.Machine.execIadd f s
  | .isub f => Sys2Proof.Machine.execIsub f s
  | .imul f => Sys2Proof.Machine.execImul f s
  | .imad f => Sys2Proof.Machine.execImad f s
  | .idiv f => Sys2Proof.Machine.execIdiv f s
  | .irem f => Sys2Proof.Machine.execIrem f s
  | .imin f => Sys2Proof.Machine.execImin f s
  | .imax f => Sys2Proof.Machine.execImax f s
  | .iabs f => Sys2Proof.Machine.execIabs f s
  | .ineg f => Sys2Proof.Machine.execIneg f s
  | .iaddx f => Sys2Proof.Machine.execIaddx f s
  | .and f => Sys2Proof.Machine.execAnd f s
  | .or f => Sys2Proof.Machine.execOr f s
  | .xor f => Sys2Proof.Machine.execXor f s
  | .not f => Sys2Proof.Machine.execNot f s
  | .andn f => Sys2Proof.Machine.execAndn f s
  | .shl f => Sys2Proof.Machine.execShl f s
  | .shr f => Sys2Proof.Machine.execShr f s
  | .rot f => Sys2Proof.Machine.execRot f s
  | .bfx f => Sys2Proof.Machine.execBfx f s
  | .bfi f => Sys2Proof.Machine.execBfi f s
  | .popc f => Sys2Proof.Machine.execPopc f s
  | .clz f => Sys2Proof.Machine.execClz f s
  | .brev f => Sys2Proof.Machine.execBrev f s
  | .prm f => Sys2Proof.Machine.execPrm f s
  | .icmp f => Sys2Proof.Machine.execIcmp f s
  | .fcmp f => Sys2Proof.Machine.execFcmp f s
  | .sel f => Sys2Proof.Machine.execSel f s
  | .mov f => Sys2Proof.Machine.execMov f s
  | .plog f => Sys2Proof.Machine.execPlog f s
  | .pmov f => Sys2Proof.Machine.execPmov f s
  | .fadd f => Sys2Proof.Machine.execFadd f s
  | .fsub f => Sys2Proof.Machine.execFsub f s
  | .fmul f => Sys2Proof.Machine.execFmul f s
  | .ffma f => Sys2Proof.Machine.execFfma f s
  | .fmin f => Sys2Proof.Machine.execFmin f s
  | .fmax f => Sys2Proof.Machine.execFmax f s
  | .fsgn f => Sys2Proof.Machine.execFsgn f s
  | .fclass f => Sys2Proof.Machine.execFclass f s
  | .frnd f => Sys2Proof.Machine.execFrnd f s
  | .frcp f => Sys2Proof.Machine.execFrcp f s
  | .frsq f => Sys2Proof.Machine.execFrsq f s
  | .fsqrt f => Sys2Proof.Machine.execFsqrt f s
  | .fdiv f => Sys2Proof.Machine.execFdiv f s
  | .fexp2 f => Sys2Proof.Machine.execFexp2 f s
  | .flog2 f => Sys2Proof.Machine.execFlog2 f s
  | .fsin f => Sys2Proof.Machine.execFsin f s
  | .fcos f => Sys2Proof.Machine.execFcos f s
  | .cvt f => Sys2Proof.Machine.execCvt f s
  | .pack f => Sys2Proof.Machine.execPack f s
  | .unpk f => Sys2Proof.Machine.execUnpk f s
  | .sclb f => Sys2Proof.Machine.execSclb f s
  | .shfl f => Sys2Proof.Machine.execShfl f s
  | .vote f => Sys2Proof.Machine.execVote f s
  | .rdx f => Sys2Proof.Machine.execRdx f s
  | .scan f => Sys2Proof.Machine.execScan f s
  | .elect f => Sys2Proof.Machine.execElect f s
  | .rndx f => Sys2Proof.Machine.execRndx f s
  | .ld f => Sys2Proof.Machine.execLd f s
  | .st f => Sys2Proof.Machine.execSt f s
  | .pref f => Sys2Proof.Machine.execPref f s
  | .crng f => Sys2Proof.Machine.execCrng f s
  | .fence f => Sys2Proof.Machine.execFence f s
  | .atom f => Sys2Proof.Machine.execAtom f s
  | .cas f => Sys2Proof.Machine.execCas f s
  | .red f => Sys2Proof.Machine.execRed f s
  | .lkrd f => Sys2Proof.Machine.execLkrd f s
  | .lkwr f => Sys2Proof.Machine.execLkwr f s
  | .ulrd f => Sys2Proof.Machine.execUlrd f s
  | .ulwr f => Sys2Proof.Machine.execUlwr f s
  | .cpy f => Sys2Proof.Machine.execCpy f s
  | .chain f => Sys2Proof.Machine.execChain f s
  | .chq f => Sys2Proof.Machine.execChq f s
  | .mcst f => Sys2Proof.Machine.execMcst f s
  | .ainit f => Sys2Proof.Machine.execAinit f s
  | .arv f => Sys2Proof.Machine.execArv f s
  | .await f => Sys2Proof.Machine.execAwait f s
  | .mma f => Sys2Proof.Machine.execMma f s
  | .mmas f => Sys2Proof.Machine.execMmas f s
  | .mzero f => Sys2Proof.Machine.execMzero f s
  | .mldc f => Sys2Proof.Machine.execMldc f s
  | .msto f => Sys2Proof.Machine.execMsto f s
  | .mfen f => Sys2Proof.Machine.execMfen f s
  | .mprg f => Sys2Proof.Machine.execMprg f s
  | .barg f => Sys2Proof.Machine.execBarg f s
  | .grpq f => Sys2Proof.Machine.execGrpq f s
  | .sendg f => Sys2Proof.Machine.execSendg f s
  | .offer f => Sys2Proof.Machine.execOffer f s
  | .wdraw f => Sys2Proof.Machine.execWdraw f s
  | .recv f => Sys2Proof.Machine.execRecv f s
  | .qstat f => Sys2Proof.Machine.execQstat f s
  | .time f => Sys2Proof.Machine.execTime f s
  | .tunc f => Sys2Proof.Machine.execTunc f s
  | .sts f => Sys2Proof.Machine.execSts f s
  | .ldat f => Sys2Proof.Machine.execLdat f s
  | .twait f => Sys2Proof.Machine.execTwait f s
  | .enrg f => Sys2Proof.Machine.execEnrg f s
  | .emark f => Sys2Proof.Machine.execEmark f s
  | .spawn f => Sys2Proof.Machine.execSpawn f s
  | .grow f => Sys2Proof.Machine.execGrow f s
  | .lnq f => Sys2Proof.Machine.execLnq f s
  | .pstat f => Sys2Proof.Machine.execPstat f s
  | .illegalWord => Sys2Proof.Machine.execIllegalWord s
  | .trapSlotGrant x1 => Sys2Proof.Machine.execTrapSlotGrant x1 s
  | .tokenOperationComplete x1 => Sys2Proof.Machine.execTokenOperationComplete x1 s
  | .activeSetPromote x1 => Sys2Proof.Machine.execActiveSetPromote x1 s
  | .overdueReplace x1 => Sys2Proof.Machine.execOverdueReplace x1 s
  | .joinTimeout x1 => Sys2Proof.Machine.execJoinTimeout x1 s
  | .spaceWaiterSpill x1 => Sys2Proof.Machine.execSpaceWaiterSpill x1 s
  | .spilledContextReturn x1 => Sys2Proof.Machine.execSpilledContextReturn x1 s
  | .remainderStrandForm x1 => Sys2Proof.Machine.execRemainderStrandForm x1 s
  | .matrixEngineExecute x1 => Sys2Proof.Machine.execMatrixEngineExecute x1 s
  | .matrixRowGroup x1 => Sys2Proof.Machine.execMatrixRowGroup x1 s
  | .matrixInstructionComplete x1 => Sys2Proof.Machine.execMatrixInstructionComplete x1 s
  | .multicastComplete x1 => Sys2Proof.Machine.execMulticastComplete x1 s
  | .copySegment x1 => Sys2Proof.Machine.execCopySegment x1 s
  | .transferComplete x1 => Sys2Proof.Machine.execTransferComplete x1 s
  | .chainRecord x1 x2 => Sys2Proof.Machine.execChainRecord x1 x2 s
  | .translationWalk x1 x2 x3 x4 x5 => Sys2Proof.Machine.execTranslationWalk x1 x2 x3 x4 x5 s
  | .shootdown x1 x2 x3 => Sys2Proof.Machine.execShootdown x1 x2 x3 s
  | .l1Eviction x1 x2 => Sys2Proof.Machine.execL1Eviction x1 x2 s
  | .l2Eviction x1 x2 => Sys2Proof.Machine.execL2Eviction x1 x2 s
  | .deltaFlush x1 x2 => Sys2Proof.Machine.execDeltaFlush x1 x2 s
  | .commandTake x1 => Sys2Proof.Machine.execCommandTake x1 s
  | .dependenceRecheck => Sys2Proof.Machine.execDependenceRecheck s
  | .nopCommand x1 => Sys2Proof.Machine.execNopCommand x1 s
  | .launch x1 => Sys2Proof.Machine.execLaunch x1 s
  | .mark x1 => Sys2Proof.Machine.execMark x1 s
  | .kill x1 => Sys2Proof.Machine.execKill x1 s
  | .checkpoint x1 => Sys2Proof.Machine.execCheckpoint x1 s
  | .restore x1 => Sys2Proof.Machine.execRestore x1 s
  | .resolve x1 => Sys2Proof.Machine.execResolve x1 s
  | .refuse x1 => Sys2Proof.Machine.execRefuse x1 s
  | .vfacct x1 => Sys2Proof.Machine.execVfacct x1 s
  | .partition x1 => Sys2Proof.Machine.execPartition x1 s
  | .preemptvf x1 => Sys2Proof.Machine.execPreemptvf x1 s
  | .procwt x1 => Sys2Proof.Machine.execProcwt x1 s
  | .queueTailWrite x1 x2 x3 => Sys2Proof.Machine.execQueueTailWrite x1 x2 x3 s
  | .queueDescriptorWrite x1 x2 => Sys2Proof.Machine.execQueueDescriptorWrite x1 x2 s
  | .rangePlace x1 => Sys2Proof.Machine.execRangePlace x1 s
  | .rangeRetire x1 => Sys2Proof.Machine.execRangeRetire x1 s
  | .launchEnd x1 => Sys2Proof.Machine.execLaunchEnd x1 s
  | .barrierArrivalMessage x1 => Sys2Proof.Machine.execBarrierArrivalMessage x1 s
  | .barrierRelease x1 x2 => Sys2Proof.Machine.execBarrierRelease x1 x2 s
  | .barrierRangeSave x1 => Sys2Proof.Machine.execBarrierRangeSave x1 s
  | .rangeRestore x1 => Sys2Proof.Machine.execRangeRestore x1 s
  | .chargePost x1 => Sys2Proof.Machine.execChargePost x1 s
  | .vfStopped x1 => Sys2Proof.Machine.execVfStopped x1 s
  | .accountingWindowEnd x1 x2 => Sys2Proof.Machine.execAccountingWindowEnd x1 x2 s
  | .sliceEnd x1 => Sys2Proof.Machine.execSliceEnd x1 s
  | .blockError x1 x2 => Sys2Proof.Machine.execBlockError x1 x2 s
  | .selfTest x1 x2 x3 => Sys2Proof.Machine.execSelfTest x1 x2 x3 s
  | .machineCheck x1 x2 => Sys2Proof.Machine.execMachineCheck x1 x2 s
  | .calibrationLoad x1 x2 => Sys2Proof.Machine.execCalibrationLoad x1 x2 s
  | .freeze => Sys2Proof.Machine.execFreeze s
  | .packageReset x1 => Sys2Proof.Machine.execPackageReset x1 s
  | .recoveryImage x1 x2 => Sys2Proof.Machine.execRecoveryImage x1 x2 s
  | .attestationRequest x1 => Sys2Proof.Machine.execAttestationRequest x1 s
  | .meridianTick => Sys2Proof.Machine.execMeridianTick s
  | .timingFlitSend x1 => Sys2Proof.Machine.execTimingFlitSend x1 s
  | .timingFlit x1 x2 x3 => Sys2Proof.Machine.execTimingFlit x1 x2 x3 s
  | .referenceInput x1 x2 => Sys2Proof.Machine.execReferenceInput x1 x2 s
  | .oscillatorDisagreement => Sys2Proof.Machine.execOscillatorDisagreement s
  | .standbyTakeover x1 => Sys2Proof.Machine.execStandbyTakeover x1 s
  | .stsCommit x1 => Sys2Proof.Machine.execStsCommit x1 s
  | .stsRecordArrival x1 => Sys2Proof.Machine.execStsRecordArrival x1 s
  | .stsStatusReturn x1 x2 => Sys2Proof.Machine.execStsStatusReturn x1 x2 s
  | .recordFold x1 => Sys2Proof.Machine.execRecordFold x1 s
  | .ldatAnswer x1 x2 => Sys2Proof.Machine.execLdatAnswer x1 x2 s
  | .twaitWake x1 => Sys2Proof.Machine.execTwaitWake x1 s
  | .flitReceive x1 x2 => Sys2Proof.Machine.execFlitReceive x1 x2 s
  | .resendRequest x1 x2 => Sys2Proof.Machine.execResendRequest x1 x2 s
  | .laneErasure x1 x2 => Sys2Proof.Machine.execLaneErasure x1 x2 s
  | .portDown x1 => Sys2Proof.Machine.execPortDown x1 s
  | .linkTraining x1 x2 => Sys2Proof.Machine.execLinkTraining x1 x2 s
  | .pauseUpdate x1 x2 => Sys2Proof.Machine.execPauseUpdate x1 x2 s
  | .keyStage x1 => Sys2Proof.Machine.execKeyStage x1 s
  | .keyExhausted x1 => Sys2Proof.Machine.execKeyExhausted x1 s
  | .keyTimeout x1 => Sys2Proof.Machine.execKeyTimeout x1 s
  | .remoteRequest x1 => Sys2Proof.Machine.execRemoteRequest x1 s
  | .transactionResend x1 => Sys2Proof.Machine.execTransactionResend x1 s
  | .nodeFailed x1 => Sys2Proof.Machine.execNodeFailed x1 s
  | .writeBackMerge x1 x2 x3 x4 => Sys2Proof.Machine.execWriteBackMerge x1 x2 x3 x4 s
  | .invalidation x1 => Sys2Proof.Machine.execInvalidation x1 s
  | .collapse x1 x2 x3 x4 => Sys2Proof.Machine.execCollapse x1 x2 x3 x4 s
  | .ownershipRequest x1 x2 x3 => Sys2Proof.Machine.execOwnershipRequest x1 x2 x3 s
  | .readinessReport x1 x2 x3 x4 x5 => Sys2Proof.Machine.execReadinessReport x1 x2 x3 x4 x5 s
  | .messageSteer x1 x2 => Sys2Proof.Machine.execMessageSteer x1 x2 s
  | .messageTake x1 => Sys2Proof.Machine.execMessageTake x1 s
  | .parkedWake x1 => Sys2Proof.Machine.execParkedWake x1 s
  | .sendStatusReturn x1 x2 => Sys2Proof.Machine.execSendStatusReturn x1 x2 s
  | .cxlResponse x1 x2 x3 => Sys2Proof.Machine.execCxlResponse x1 x2 x3 s
  | .cxlTimeout x1 => Sys2Proof.Machine.execCxlTimeout x1 s
  | .rmaWrite x1 x2 x3 x4 => Sys2Proof.Machine.execRmaWrite x1 x2 x3 x4 s
  | .rmaRead x1 x2 x3 x4 => Sys2Proof.Machine.execRmaRead x1 x2 x3 x4 s
  | .unsupportedOperation x1 => Sys2Proof.Machine.execUnsupportedOperation x1 s
  | .notificationHeadWrite x1 x2 => Sys2Proof.Machine.execNotificationHeadWrite x1 x2 s
  | .registerWrite x1 => Sys2Proof.Machine.execRegisterWrite x1 s
  | .periodStart x1 => Sys2Proof.Machine.execPeriodStart x1 s
  | .tokenOutstandingBeyond64Cycles x1 => Sys2Proof.Machine.execTokenOutstandingBeyond64Cycles x1 s
  | .serviceCoreFailure => Sys2Proof.Machine.execServiceCoreFailure s
  | .cxlRangeConfiguration x1 => Sys2Proof.Machine.execCxlRangeConfiguration x1 s

end Sys2Proof.Machine
end

