-- ==== Sys2Proof/Machine/Step.lean ====
section
/-! DEFINITION. One step: who moves next is data of the state (notes/assumptions/1.md). -/

namespace Sys2Proof.Machine

/-- A turn of a context: it fetches, decodes and executes its next word. A context that cannot issue now lets its
turn pass. -/
def stepCtx (id : Nat) (s : State) : Host.Outcome State Fault Refusal :=
  match s.ctx id with
  | none => .next s
  | some c =>
    match c.nextIssue with
    | none => .next s
    | some (pc, issuing) =>
      if s.canIssue c then
        match s.fetchInstr c pc with
        | .instr i => exec i { s.fetchFill c pc with cur := id }
        | .illegal => exec .illegalWord { s.fetchFill c pc with cur := id }
        | .miss va m => .next (s.fetchMiss c issuing pc va m)
      else .next s

/-- With no turn listed: the current context issues, or takes its place in the active set, or time passes. -/
def stepIdle (s : State) : Host.Outcome State Fault Refusal :=
  match s.ctx s.cur with
  | none => exec .meridianTick s
  | some c =>
    if s.canIssue c then stepCtx s.cur s
    else if c.resident && !c.active && c.kind != .control && c.trap == .none && !s.blocked c then
      exec (.activeSetPromote (s.coreNumber c)) s
    else exec .meridianTick s

/-- What still happens in a package that stands: a reset, and, once the service core has failed, the ends of the launches, with
the acknowledgements that they await (R231), and a freeze (R294, R297, notes/assumptions/103.md). -/
def State.happens (s : State) (e : Instr) : Bool :=
  match e with
  | .packageReset _ => true
  | .launchEnd _ | .freeze | .tokenOperationComplete _ | .cxlResponse _ _ _ | .cxlTimeout _ | .transactionResend _
  | .nodeFailed _ => !s.svc.frozen
  | _ => !s.svc.frozen && !s.svc.dead

/-- One turn of the tape, or, with none listed, of the current context or of time. A frozen or stopped package does nothing
until a full reset (R294, R297). -/
def turn (s : State) : Host.Outcome State Fault Refusal :=
  match s.tape with
  | .event e :: rest => if s.happens e then exec e { s with tape := rest } else .next { s with tape := rest }
  | .issue id :: rest => stepCtx id { s with tape := rest }
  | .peer pa bytes :: rest => .next (({ s with tape := rest } : State).peerStore pa bytes)
  | .peerLock pa word :: rest =>
    let s := { s with tape := rest }
    .next (if s.svc.frozen || s.svc.dead then s.peerStore pa (leBytes 4 word.toNat) else s.peerGrant pa word)
  | .peerImage image :: rest => .next (({ s with tape := rest } : State).learnImage image)
  | [] => if s.svc.frozen || s.svc.dead then .next s else stepIdle s

/-- The outcome of a turn, with the writes to operands of matrix instructions noted in its next state (R208 item 2). -/
def noting (s : State) : Host.Outcome State Fault Refusal → Host.Outcome State Fault Refusal
  | .next t => .next (t.noteWrites s)
  | o => o

/-- One step of the machine. -/
def step (s : State) : Host.Outcome State Fault Refusal := noting s (turn s)

/-! ## Placing one instruction (the host's use) -/

/-- A command with every register a program may name: 256 item registers, 64 scalars, strands of 8 lanes,
cluster ranges of 64 items. -/
def placeCmd (control : Bool) : Cmd :=
  { kind := 1, repro := false, guarded := false, serial := false, wlog := 3, vregs := 255, scal := 64, clog := 6
    n := 64, job := 0, codebase := 0, entry := 0, trapidx := 0xFFFFFFFF
    centry := if control then 0 else 0xFFFFFFFF, scratch := 4096, cscratch := 4096, groups := 0, depaddr := 0
    depval := 0, cmpaddr := 0, cmpval := 0, recaddr := 0, estimate := 0, guardbase := 0, guardlen := 0
    reserved := false }

def placeLaunch (id : Nat) (control : Bool) : Launch :=
  { id := id, vf := 0, proc := 0, taken := 0, cmd := placeCmd control, n := 64, status := none, drain := false, tend := none, tstart := some 0
    drops := 0, frame := [], frec := none, energy := 0, retired := 0, groups := [], gens := [], reds := []
    tags := [], todo := [], failedIn := none }

def placeRange (id : Nat) : Range :=
  { id := id, launchId := id, lo := 0, hi := 64, cluster := some 0, m := 8, saved := false, order := 0, atBarrier := false
    store := 0, clock := 0, scratch := [], cscratch := [], tiles := [], prog := List.replicate 16 0, mq := []
    chans := List.replicate 4 ⟨.idle, 0, 0⟩, joins := [], elects := [], late := [], etlb := [], failedIn := none }

def placeCtx (id : Nat) (control : Bool) : Ctx :=
  { id := id, range := id, core := 0, kind := if control then .control else .span 0 64, pc := 0, lanes := []
    regs := List.replicate (if control then 0 else 256) (.u 0), preds := List.replicate 7 (.u false)
    scal := List.replicate 64 0, bars := List.replicate 4 .clear, rets := [], rep := none, tag := 0, issued := 0
    refilled := false, reserve := 0, floorLo := 0, floorHi := 0, subs := List.replicate 4 ⟨0, false⟩, priv := []
    chans := List.replicate 4 Chan.reset, save := none, trap := .none, wait := .none, landing := []
    landed := [], part := 0, copied := 0, seat := if control then none else some 0, first := false
    active := true, slotAt := 0, age := 0, resident := true, heldTill := 0, billed := false, visited := [] }

/-- The TLB entry that maps the placed code: one 64 KiB page with every right. -/
def placeTlb : Tlb := ⟨0, false, 0, 0, 0, ⟨0, 2 ^ 16, true, true, true, true, false, false, false, 0⟩⟩

/-- The state with one launch of 64 items placed on cluster 0, whose code at address 0 is the instruction with
bits `w`; its context, a control program for the opcodes that only one may issue, moves next. -/
def State.withFetchWord (s : State) (nbits w : Nat) : State :=
  let x := w % 2 ^ nbits
  let id := s.nextId
  let control := onlyControl (x % 256)
  { s with
    tape := [], cur := id, nextId := id + 1
    ctxs := [placeCtx id control], ranges := [placeRange id], launches := [placeLaunch id control]
    mem := { s.mem with home := Memory.writeN s.mem.home 0 (leBytes 24 x), tlb := placeTlb :: s.mem.tlb, l1 := [] } }

end Sys2Proof.Machine
end

