-- ==== Sys2Proof/Safety.lean ====
section
/-! DEFINITION. The terms the statements use: the issue that a word comes to when nothing stops it, its completion, and
the memory invariant. -/

namespace Sys2Proof.Machine

/-- The issue that a word of the current context comes to (R36 to R38): `none` when the context cannot issue, the word
is not legal or not available, a token it waits on is busy, its guard is false or cuts a span, or REPRO stops it. -/
def issueOn (words : Nat) (odds : List Nat) (g : Guard) (h : Hints) (legal : Ctx → Launch → Bool) (avail : Ctx → Option Nat)
    (repro : Ctx → Bool) (s : State) : Option Iss :=
  match s.ctx s.cur with
  | none => none
  | some c =>
    match s.range c.range, s.launchOf c, c.nextIssue with
    | some r, some l, some (pc, issuing) =>
      match (issOf s c l r words pc issuing [] h).c.guard g issuing with
      | .on lanes =>
        if s.canIssue c && legal c l && (avail c).isNone && !(waitedOf h).any (s.tokBusy c.id) &&
            !(l.cmd.repro && repro ((issOf s c l r words pc issuing lanes h).reading odds).c) then
          some ((issOf s c l r words pc issuing lanes h).reading odds)
        else none
      | _ => none
    | _, _, _ => none

/-- A word and its literal word (R26). -/
def codeWords (f : Fields) : Nat :=
  match f.b with
  | .lit _ => 2
  | _ => 1

/-- The issue of a word with operand codes. -/
def issueOf (op : Nat) (f : Fields) (s : State) : Option Iss :=
  issueOn (codeWords f) (f.odds op) f.g f.h (fun c l => (sig op f).ok && legalF op f c l) (fun c => availability op f.space c)
    (fun c => reproWord op f c) s

/-- The issue of a word with a word offset. -/
def issueOffOf (op : Nat) (f : OffFields) (s : State) : Option Iss :=
  issueOn 1 [] f.g f.h (fun c _ => offSig op f && legalO op f c) (fun c => availability op 0 c) (fun _ => op == 0x15) s

/-- The issue ends with the effect `s'` made, and the PC of the context moves to the next word. -/
def Iss.ends (i : Iss) (op : Nat) (f : Fields) (s' : State) : Host.Outcome State Fault Refusal :=
  .next (finish i op (i.cycles op f) (.done s'))

/-- The issue ends with the effect `s'` made, which has placed the PCs. -/
def Iss.movesTo (i : Iss) (op : Nat) (cycles : Nat) (s' : State) : Host.Outcome State Fault Refusal :=
  .next (finish i op cycles (.moved s'))

/-- The issue ends with a trap: class, DETAIL and LANEMASK (R137). -/
def Iss.traps (i : Iss) (op cycles : Nat) (s' : State) (cls detail mask : Nat) : Host.Outcome State Fault Refusal :=
  .next (finish i op cycles (.trap s' cls detail mask 0))

/-- The word begins to wait, in the state `s'`; the issue is charged then (R36, R366). -/
def Iss.waits (i : Iss) (op cycles : Nat) (s' : State) (w : Wait) : Host.Outcome State Fault Refusal :=
  .next (finish i op cycles (.wait s' w))

/-- A span needs lanes for the word: it materialises (R78, R124), but in the trap slot that is ILLEGAL with DETAIL 0x08 (R137). -/
def Iss.materialises (i : Iss) (op : Nat) (f : Fields) : Host.Outcome State Fault Refusal :=
  if i.c.trap = .slot then i.traps op (i.cycles op f) i.s 1 8 0 else .next (i.s.materialise i.c i.l)

/-- A span needs to be cut at points inside it (R124): in the trap slot that is ILLEGAL with DETAIL 0x08 (R137), and without room
for the pieces it waits (R239). -/
def Iss.cutsAt (i : Iss) (op : Nat) (f : Fields) (points : List Nat) : Host.Outcome State Fault Refusal :=
  if i.c.trap = .slot then i.traps op (i.cycles op f) i.s 1 8 0
  else if i.s.roomToCut i.c i.l points then .next (i.s.cutSpan i.c points)
  else i.waits op (i.cycles op f) i.s (.cut points)

/-- The effect of a word on its own context alone. -/
def Iss.onCtx (i : Iss) (f : Ctx → Ctx) : State := i.s.modCtx i.c.id f

/-- Each lane whose guard is true writes its value to item register D, which is then held in a form (R71, R78). -/
def Iss.setLanes (i : Iss) (d : Opnd) (wide : Bool) (val : Nat → W64) (fm : Form) : State :=
  i.onCtx fun c => i.putLanes c (destReg d) wide (i.lanes.map fun l => (l, val l)) fm

/-- Each lane whose guard is true writes its value to predicate `p`. -/
def Iss.setLanePreds (i : Iss) (p : Nat) (val : Nat → Bool) (fm : PForm) : State :=
  i.onCtx fun c => i.putLanePreds c p (i.lanes.map fun l => (l, val l)) fm

/-- The form of a source of the instruction, and U where it does not read it. -/
def Iss.formIf (i : Iss) (used : Bool) (slot : Nat) (wide : Bool) (o : Opnd) : Form :=
  if used then i.form slot wide o else .u 0

/-- The outcome is a next state. -/
def Completes (o : Host.Outcome State Fault Refusal) : Prop := ∃ t, o = .next t

/-- An instruction that computes a value per item: its opcode and constructor, the widths its sources A and B are read at,
the type of its result, whether it reads B, the register X names and the old D, and the value. -/
structure ValRow where
  op : Nat
  con : Fields → Instr
  wa : Fields → Bool
  wb : Fields → Bool
  rt : Fields → Ty
  usesB : Bool
  usesX : Bool
  usesD : Bool
  val : Fields → W64 → W64 → W64 → W64 → Nat

/-- Both sources and the result have the type of the word. -/
def ValRow.same (op : Nat) (con : Fields → Instr) (val : Fields → W64 → W64 → W64 → W64 → Nat) : ValRow :=
  ⟨op, con, fun f => f.ty.is64, fun f => f.ty.is64, fun f => f.ty, true, false, false, val⟩

/-- The same of an instruction that does not read B: the form of the register there counts for nothing (R78). -/
def ValRow.unary (e : ValRow) : ValRow := { e with usesB := false }

/-- The low w bits of a value, w the width of the type (R45). -/
def lowBits (f : Fields) (x : W64) : Nat := x.toNat % 2 ^ f.ty.width

/-- The number whose bit k, below `w`, is `g k`. -/
def bitSum (w : Nat) (g : Nat → Bool) : Nat := ((List.range w).map fun k => if g k then 2 ^ k else 0).sum

/-- The count or position of a bit operation: the low 32 bits of B, modulo w (R87, R89, R90). -/
def countOf (f : Fields) (b : W64) : Nat := b.toNat % 2 ^ 32 % f.ty.width

/-- A bit operation whose B is a value of the type. -/
def ValRow.bits (op : Nat) (con : Fields → Instr) (g : W64 → W64 → Nat → Bool) : ValRow :=
  ValRow.same op con fun f a b _ _ => bitSum f.ty.width (g a b)

/-- A bit operation whose B is a 32-bit count or position. -/
def ValRow.count (op : Nat) (con : Fields → Instr) (usesD : Bool) (val : Fields → W64 → W64 → W64 → W64 → Nat) : ValRow :=
  ⟨op, con, fun f => f.ty.is64, fun _ => false, fun f => f.ty, true, false, usesD, val⟩

/-- A floating instruction: its operands under .ftz, and its exact result, rounded once in the mode and flushed under .ftz
(R47 to R50, R101). -/
def ValRow.flt (op : Nat) (con : Fields → Instr) (usesX : Bool)
    (exact : Rnd → Exact → Exact → Exact → Exact) : ValRow :=
  ⟨op, con, fun f => f.ty.is64, fun f => f.ty.is64, fun f => f.ty, true, usesX, false, fun f a b x _ =>
    let ftz := bitOf f.mod.toNat 2
    let r := Rnd.ofCode f.mod.toNat
    f.ty.result false ftz r (exact r (f.ty.num ftz a) (f.ty.num ftz b) (f.ty.num ftz x))⟩

/-- The rule of a value instruction (R71, R76 to R78): each lane whose guard is true, a scalar destination, and a span of
uniform sources receive the value, which uniform sources leave held in U form; a span with a source in M form materialises; and the issue always
answers a next state. -/
def ValRow.Rule (e : ValRow) : Prop :=
  ∀ f s i, issueOf e.op f s = some i →
    let wd := (e.rt f).is64
    let uniform (a b x d : W64) : Prop :=
      i.form 0 (e.wa f) f.a = .u a ∧ i.formIf e.usesB 1 (e.wb f) f.b = .u b ∧ i.formIf e.usesX 2 wd (.v f.x) = .u x ∧
        i.formIf e.usesD 3 wd f.d = .u d
    (∀ r, destScal f.d = some r →
      exec (e.con f) s = i.ends e.op f (i.onCtx fun c =>
        c.writeScal r (scalBits (e.rt f) (e.val f (i.uni 0 f.a) (i.uni 1 f.b) 0 (i.uni 3 f.d))))) ∧
    (destScal f.d = none → i.c.kind = .strand →
      ∃ fm, (∀ a b x d, uniform a b x d → fm = .u (regBits (e.rt f) (e.val f a b x d))) ∧
        exec (e.con f) s = i.ends e.op f (i.setLanes f.d wd (fun l =>
          regBits (e.rt f) (e.val f (i.lane 0 l (e.wa f) f.a) (i.lane 1 l (e.wb f) f.b) (i.lane 2 l wd (.v f.x))
            (i.lane 3 l wd f.d))) fm)) ∧
    (∀ lo hi a b x d, destScal f.d = none → i.c.kind = .span lo hi → uniform a b x d →
      i.c.splitsPair (destReg f.d) wd = false →
      exec (e.con f) s = i.ends e.op f (i.onCtx fun c =>
        c.writeForm (destReg f.d) wd (.u (regBits (e.rt f) (e.val f a b x d))))) ∧
    (∀ lo hi, destScal f.d = none → i.c.kind = .span lo hi →
      (i.form 0 (e.wa f) f.a = .m ∨ i.formIf e.usesB 1 (e.wb f) f.b = .m ∨ i.formIf e.usesX 2 wd (.v f.x) = .m ∨
        i.formIf e.usesD 3 wd f.d = .m) →
      exec (e.con f) s = i.materialises e.op f) ∧
    Completes (exec (e.con f) s)

/-- A register of a lane of a context. -/
def State.laneReg (s : State) (ctx l r : Nat) : Option W32 :=
  ((s.ctx ctx).bind fun c => c.lanes[l]?).bind fun x => x.regs[r]?

/-- The cluster that issues. -/
def Iss.clu (i : Iss) : Nat := i.r.cluster.getD 0

/-- The L2 slices have room for the lines of `n` accesses, so that none leaves (R2, R183). -/
def State.l2Room (s : State) (n : Nat) : Prop := s.mem.l2.length + 128 * (n + 1) < 2 ^ 26

/-- Nothing keeps the `n` bytes at a physical address from an access at a level at once: no block under test, no failed node, no
poisoned byte, no line that must be fetched, no answer of another node that has not come, no tile that an MSTO has open. -/
def Iss.reaches (i : Iss) (n lvl : Nat) (w : Want) (pa : Nat) : Prop :=
  i.s.lost pa = false ∧ ∀ k < n, i.s.underTest (pa + k) = false ∧
    (w.read = true → i.s.poisoned (pa + k) = false ∧ i.s.cxlMiss i.clu lvl (pa + k) = none ∧
      i.s.openAt i.r.id (.g (pa + k) false) = false ∧ i.s.answered i.c lvl (pa + k) = true)

/-- What each lane of an access of a strand to .g needs for it to be made at once, without a demand page or a guarded page: `pa`
gives the physical address of a lane's `n` bytes. -/
def Iss.ready (i : Iss) (f : Fields) (n lvl : Nat) (w : Want) (pa : Nat → Nat) : Prop :=
  i.c.kind = .strand ∧ i.s.mem.deltas = [] ∧ i.s.l2Room i.lanes.length ∧ ∀ l ∈ i.lanes,
    (∃ st, i.s.locate i.c f.space (i.strandAddr f n l) n true w = .ok (.g (pa l) st)) ∧
    i.l.guardLine (i.strandAddr f n l) = none ∧ i.reaches n lvl w (pa l)

/-- The same for the one access of a span whose address is U, or of a control program, to .g or to a space of its own (R173). -/
def Iss.readyOne (i : Iss) (f : Fields) (n lvl : Nat) (w : Want) (loc : Loc) : Prop :=
  i.c.kind ≠ .strand ∧ i.s.mem.deltas = [] ∧ i.s.l2Room 1 ∧ ∃ a, i.accs f n true = some [a] ∧
    i.s.locate i.c f.space a.va n true w = .ok loc ∧ i.l.guardLine a.va = none ∧
    match loc with
    | .g pa _ => i.reaches n lvl w pa
    | .scratch core off => ∀ k < n, i.s.openAt i.r.id (.scratch core (off + k)) = false
    | _ => True

/-- Each lane of an access of a strand to a scratch area, to its private block or to its window: `loc` gives the place of a lane
(R172). In a reproducible launch a refilled strand stays within its own lanes' slots (R134). -/
def Iss.readyNear (i : Iss) (f : Fields) (n : Nat) (w : Want) (loc : Nat → Loc) : Prop :=
  i.c.kind = .strand ∧ i.l.cmd.repro = false ∧ ∀ l ∈ i.lanes,
    i.s.locate i.c f.space (i.strandAddr f n l) n true w = .ok (loc l) ∧
    (∀ pa st, loc l ≠ .g pa st) ∧
    ∀ core off, loc l = .scratch core off → ∀ k < n, i.s.openAt i.r.id (.scratch core (off + k)) = false

/-- A byte of a place: of .g as the cluster has it, else of the range, the context or the register window. -/
def State.placeByte (s : State) (i : Iss) (loc : Loc) (k : Nat) : Byte :=
  match loc with
  | .g pa _ => s.l1Read i.clu (pa + k)
  | .scratch core off => Memory.read ((s.range i.r.id).getD i.r).scratch (core * 2 ^ 20 + off + k)
  | .control off => Memory.read ((s.range i.r.id).getD i.r).cscratch (off + k)
  | .priv off => Memory.read ((s.ctx i.c.id).getD i.c).priv (off + k)
  | .window off => ((s.ctx i.c.id).getD i.c).windowByte i.s.fresh i.l.w (off + k)

/-- The `n` bytes of a place. -/
def State.placeBytes (s : State) (i : Iss) (loc : Loc) (n : Nat) : List Byte := (List.range n).map (s.placeByte i loc)

/-- Which byte of which memory a place's byte `k` is. -/
def Loc.byteKey (loc : Loc) (k : Nat) : Nat × Nat :=
  match loc with
  | .g pa _ => (0, pa + k)
  | .scratch core off => (1, core * 2 ^ 20 + off + k)
  | .control off => (2, off + k)
  | .priv off => (3, off + k)
  | .window off => (4, off + k)

/-- The register window of the context is the one its launch declares, and no result is outstanding on it (R72). -/
def Iss.windowWhole (i : Iss) : Prop :=
  i.c.landing = [] ∧ i.c.lanes.length = i.l.w ∧ ∀ x ∈ i.c.lanes, x.regs.length = i.l.v

/-- The 32 bits of a value that register `k` of its destination holds. -/
def regHalf (v : W64) (k : Nat) : W32 := (v.ushiftRight (32 * k)).setWidth 32

/-- The registers of a value: two for a pair. -/
def halvesOf (f : Fields) : List Nat := if f.ty.is64 then [0, 1] else [0]

/-- Each lane whose guard is true has its value in register `r`, or the pair there. -/
def Iss.laneGets (i : Iss) (t : State) (f : Fields) (r : Nat) (val : Nat → W64) : Prop :=
  ∀ l ∈ i.lanes, ∀ k ∈ halvesOf f, ∀ x, t.laneReg i.c.id l (r + k) = some x → x = regHalf (val l) k

/-- A byte as a cluster has it: its own dirty byte, or what the home slice holds. -/
def State.seenBy (s : State) (clu p : Nat) : Byte :=
  match kget s.mem.l1 (l1Key clu p) with
  | some c => if c.dirty then c.val else s.sliceRead p
  | none => s.sliceRead p

/-- The value of `n` bytes as a cluster has them. -/
def State.seenVal (s : State) (clu p n : Nat) : Nat := leVal ((List.range n).map fun k => s.seenBy clu (p + k))

/-- A lock word that its instruction reaches at once: `pa` is its home, and `w` what it holds (R245, R268). -/
def Iss.lockWord (i : Iss) (f : Fields) (pa : Nat) (w : LockWord) : Prop :=
  i.s.mem.deltas = [] ∧ f.scope < 4 ∧ i.s.mem.l2.length + i.s.mem.l1.length + 128 < 2 ^ 26 ∧
    (∃ st, i.s.locate i.c 0 (i.uniAddr f 4) 4 true wantRmw = .ok (.g pa st)) ∧ i.reaches 4 2 wantRmw pa ∧
    w = LockWord.ofNat (i.s.seenVal i.clu pa 4)

/-- The home bytes of a lock word. -/
def State.lockHolds (s : State) (pa : Nat) (w : LockWord) : Prop :=
  ∀ k < 4, s.sliceRead (pa + k) = BitVec.ofNat 8 (w.toNat / 2 ^ (8 * k))

/-- The scalar D of a context holds a status. -/
def State.statusIs (s : State) (ctx : Nat) (d : Opnd) (v : W64) : Prop :=
  ∀ c r x, s.ctx ctx = some c → d = .s r → c.scal[r.toNat]? = some x → x = v

/-- The item in a lane of the issue. -/
def Iss.itemOf (i : Iss) (l : Nat) : Nat := ((i.c.lanes[l]?).bind (·.item)).getD 0

/-- A host command that nothing stops: it is taken and of its kind, not performed yet, names a record, and its argument block reads as
`bs`, which leaves `s1` (R291). -/
def State.hostArgs (s : State) (cmd kind : Nat) (t : Taken) (s1 : State) (bs : List Byte) : Prop :=
  s.taken cmd = some t ∧ t.cmd.kind = kind ∧ t.started = false ∧ t.result = none ∧ t.cmd.recaddr ≠ 0 ∧
    s.dispRead t.vf t.proc t.cmd.recaddr 64 = .ok (s1, bs)

/-- The command completes with a result; once its completion is written its VF has a notice of kind 2 (R291, R344). -/
def State.answers (s : State) (t : Taken) (result : Nat) : Host.Outcome State Fault Refusal :=
  .next (s.finishCmd t result)

/-- The home bytes are in the canonical form. -/
def State.memWf (s : State) : Prop := Memory.wf s.mem.home

end Sys2Proof.Machine
end

