-- ==== Sys2Proof/Certificates/Slice0/Obligations.lean ====
section
/-! DEFINITION. The statements for the provers. An instruction of the manual acts through the issue `issueOf` of its word:
the hypothesis `issueOf op f s = some i` says that the current context of `s` can issue the word and that no check, token,
guard or REPRO rule of R36 to R38 stops it. -/

open Sys2Proof Sys2Proof.Machine

/-! ## Instructions that place PCs -/

/-- BRA (R34, R149): the lanes whose guard is true, or the whole context, go to code base + 12 × (index + OFF mod 2^24);
the other issuing lanes to the next word. -/
def Rules.BraTarget : Prop :=
  ∀ f s i, issueOffOf 0x01 f s = some i →
    let idx := (i.pc - i.l.cmd.codebase).toNat / 12
    let target := i.l.cmd.codebase + 12 * BitVec.ofNat 64 ((idx + f.off.toNat) % 2 ^ 24)
    exec (.bra f) s = i.movesTo 0x01 1 (i.onCtx fun c =>
      if c.kind == .strand then (c.setPcs i.issuing i.next).setPcs i.lanes target else { c with pc := target })

/-- BRX (R150): each active item goes to code base + 12 × its value of A. -/
def Rules.BrxTarget : Prop :=
  ∀ f s i, issueOf 0x02 f s = some i →
    (i.c.kind = .control → exec (.brx f) s = i.movesTo 0x02 (i.cycles 0x02 f)
      (i.branch i.s (i.l.cmd.codebase + 12 * i.uni 0 f.a))) ∧
    (∀ x lo hi, i.c.kind = .span lo hi → i.form 0 true f.a = .u x →
      exec (.brx f) s = i.movesTo 0x02 (i.cycles 0x02 f) (i.branch i.s (i.l.cmd.codebase + 12 * x))) ∧
    (i.c.kind = .strand → exec (.brx f) s = i.movesTo 0x02 (i.cycles 0x02 f) (i.onCtx fun c =>
      i.lanes.foldl (fun (c : Ctx) l => c.setPcs [l] (i.l.cmd.codebase + 12 * i.lane 0 l true f.a))
        (c.setPcs i.issuing i.next))) ∧
    Completes (exec (.brx f) s)

/-- CALL and RET (R151): a call pushes the return PC and the mask of the calling lanes; a full stack is ILLEGAL with
DETAIL 0x02. A return of a span or control program goes to the topmost entry and pops it; an empty one is ILLEGAL with
DETAIL 0x03, as is a lane of a strand without an entry. -/
def Rules.CallReturn : Prop :=
  (∀ f s i, issueOffOf 0x03 f s = some i →
    (i.c.rets.length < 8 → exec (.call f) s = i.movesTo 0x03 1
      (i.branch (i.onCtx fun c =>
        { c with rets := ⟨i.pc + 12, if i.c.kind == .strand then maskOf i.lanes else 2 ^ 64 - 1⟩ :: c.rets })
        (i.target f.off))) ∧
    (8 ≤ i.c.rets.length → exec (.call f) s = i.traps 0x03 1 i.s 1 2 (maskOf i.lanes))) ∧
  (∀ f s i, issueOf 0x04 f s = some i →
    (∀ r rs, i.c.kind ≠ .strand → i.c.rets = r :: rs → exec (.ret f) s =
      i.movesTo 0x04 (i.cycles 0x04 f) (i.onCtx fun c => { c with pc := r.pc, rets := rs })) ∧
    (i.c.kind ≠ .strand → i.c.rets = [] →
      exec (.ret f) s = i.traps 0x04 (i.cycles 0x04 f) i.s 1 3 (maskOf i.lanes)) ∧
    (i.c.kind = .strand → (∃ l ∈ i.lanes, ∀ r ∈ i.c.rets, bitOf r.mask l = false) →
      exec (.ret f) s = i.traps 0x04 (i.cycles 0x04 f) i.s 1 3 (maskOf i.lanes)) ∧
    (i.c.kind = .strand → (∀ l ∈ i.lanes, ∃ r ∈ i.c.rets, bitOf r.mask l = true) →
      exec (.ret f) s = i.movesTo 0x04 (i.cycles 0x04 f) (i.onCtx fun c =>
        let d := i.lanes.foldl (fun (d : Ctx) l => d.setPcs [l] (((topEntry c.rets l).map (·.pc)).getD 0))
          (c.setPcs i.issuing i.next)
        { d with rets := popEmpty (i.lanes.foldl (fun rs l => clearTop l rs) c.rets) })))

/-- REP (R154): a count of 0 skips the body; any other starts pass 0 at its first word, with %lc = 0. -/
def Rules.RepStarts : Prop :=
  ∀ f s i, issueOf 0x07 f s = some i →
    let n := (i.uni 1 f.b).toNat % 2 ^ 32
    let after := i.s.skipBody i.c (f.x.toNat % 16 + 1) i.next
    let r : Rep :=
      { len := f.x.toNat % 16 + 1, pos := 0, pass := 0, total := n, base := f.mod.toNat % 16
        ring := f.x.toNat / 16 + 1, start := i.next, after := after, mask := maskOf i.lanes, replay := 0 }
    (n = 0 → exec (.rep f) s = i.movesTo 0x07 (i.cycles 0x07 f) (i.onCtx fun c =>
      if c.kind == .strand then c.setPcs i.issuing after else { c with pc := after })) ∧
    (n ≠ 0 → exec (.rep f) s = i.movesTo 0x07 (i.cycles 0x07 f) (i.onCtx fun c =>
      if c.kind == .strand then { ((c.setPcs i.issuing after).setPcs i.lanes i.next) with rep := some r }
      else { c with pc := i.next, rep := some r }))

/-- BRA, BRX, CALL, RET and REP: where the PCs go. -/
def Obligations.ControlTransfers : Prop :=
  Rules.BraTarget ∧ Rules.BrxTarget ∧ Rules.CallReturn ∧ Rules.RepStarts

/-- EXIT (R152, R123): a control program ends; the lanes of a strand, or all the items of a span, end, and none of them
holds an item afterwards. -/
def Rules.ExitEndsItems : Prop :=
  ∀ f s i, issueOf 0x05 f s = some i →
    (∃ t, exec (.exit f) s = .next t) ∧
    (∀ lo hi, i.c.kind = .span lo hi →
      exec (.exit f) s = i.movesTo 0x05 (i.cycles 0x05 f) (i.s.endSpanItems i.c.id (hi - lo))) ∧
    (i.c.kind = .control → exec (.exit f) s = i.movesTo 0x05 (i.cycles 0x05 f)
      ((i.onCtx fun c => { c with wait := .ended, active := false }).retireCtx i.c.id)) ∧
    (i.c.kind = .strand → exec (.exit f) s = i.movesTo 0x05 (i.cycles 0x05 f)
      (((i.onCtx fun c => c.advance i.issuing i.next).endLanes i.c.id i.lanes).checkStuck i.c.id))

/-- TRAP and BRK (R155) raise class BRK with the code X, or 0, in DETAIL and the active lanes in LANEMASK. -/
def Rules.BreakTraps : Prop :=
  (∀ f s i, issueOf 0x08 f s = some i →
    exec (.trap f) s = i.traps 0x08 (i.cycles 0x08 f) i.s 7 f.x.toNat (maskOf i.lanes)) ∧
  (∀ f s i, issueOf 0x09 f s = some i →
    exec (.brk f) s = i.traps 0x09 (i.cycles 0x09 f) i.s 7 0 (maskOf i.lanes))

/-- RTE (R156): outside the trap slot it is ILLEGAL with DETAIL 0x04. A span in the slot returns whole to its saved PC when
bit 0 of REPLAY is set, else to the saved next PC; bit 1 of KILL ends all its items and bit 0 the lowest. A strand's lanes
of KILL end, and those of LANEMASK that are left resume by their bits of REPLAY. The record of an access that is tried again
returns to NONE (R69). -/
def Rules.RteReturns : Prop :=
  ∀ f s i, issueOf 0x0A f s = some i →
    let replay := (i.uni 0 f.a).toNat
    let kill := (i.uni 1 f.b).toNat
    (i.c.trap ≠ .slot →
      exec (.rte f) s = i.traps 0x0A (i.cycles 0x0A f) i.s 1 4 (maskOf i.lanes)) ∧
    (∀ v lo hi, i.c.trap = .slot → i.c.save = some v → i.c.kind = .span lo hi →
      let back := i.onCtx fun c =>
        let c := (if bitOf replay 0 then c.clearKinds [0] else c).restore v
        ({ c with pc := if bitOf replay 0 then v.pc else v.next } : Ctx).resumeRep v replay
      (kill % 4 = 0 → exec (.rte f) s = i.movesTo 0x0A (i.cycles 0x0A f) back) ∧
      (bitOf kill 1 = true →
        exec (.rte f) s = i.movesTo 0x0A (i.cycles 0x0A f) (back.endSpanItems i.c.id (hi - lo))) ∧
      (kill % 4 = 1 → exec (.rte f) s = i.movesTo 0x0A (i.cycles 0x0A f) (back.endSpanItems i.c.id 1))) ∧
    (∀ v, i.c.trap = .slot → i.c.save = some v → i.c.kind = .strand →
      exec (.rte f) s = i.movesTo 0x0A (i.cycles 0x0A f)
        ((((i.s.endLanes i.c.id (i.c.live.filter (bitOf kill))).modCtx i.c.id fun c => c.rteLanes replay)).checkStuck
          i.c.id)) ∧
    Completes (exec (.rte f) s)

/-- MFSR, MTSR and WAITK (R157 to R159): a context register reaches its scalar, CTXTAG takes its value, and a wait on
tokens ends once all of them, or with .any one, are idle, their results landed. -/
def Rules.ContextRegisters : Prop :=
  (∀ f s i, issueOf 0x0B f s = some i →
    exec (.mfsr f) s = i.ends 0x0B f (i.onCtx fun c => c.writeScalD f.d (i.ctxReg f.x.toNat))) ∧
  (∀ f s i, issueOf 0x0C f s = some i →
    exec (.mtsr f) s = i.ends 0x0C f (i.onCtx fun c => { c with tag := i.uni 1 f.b })) ∧
  (∀ f s i, issueOf 0x0D f s = some i →
    let named := (List.range 8).filter (bitOf f.x.toNat)
    let idle := named.filter fun t => !i.s.tokBusy i.c.id t
    ((∀ t ∈ named, i.s.tokBusy i.c.id t = false) ∨ bitOf f.mod.toNat 0 = true ∧ idle ≠ [] →
      exec (.waitk f) s = i.ends 0x0D f ((i.s.matrixWaited i.c idle).modCtx i.c.id fun c =>
        idle.foldl (fun (c : Ctx) t => c.landTok t) c)) ∧
    ((∃ t ∈ named, i.s.tokBusy i.c.id t = true) → (bitOf f.mod.toNat 0 = false ∨ idle = []) →
      exec (.waitk f) s = i.waits 0x0D (i.cycles 0x0D f) i.s (.tokens f.x.toNat (bitOf f.mod.toNat 0))))

/-- EXIT, TRAP, BRK, RTE, MFSR, MTSR and WAITK. Where the manual is open, by the choices of log entries 17, 21. -/
def Obligations.EndsTrapsAndContextRegisters : Prop :=
  Rules.ExitEndsItems ∧ Rules.BreakTraps ∧ Rules.RteReturns ∧ Rules.ContextRegisters

/-! ## Spans, strands and barriers -/

/-- SPLIT and FORM (R160, R166): a uniform predicate and a strand change nothing at a SPLIT; an interval cuts a span at its
bounds, and FORM.m materialises one (in the trap slot both are ILLEGAL, R137). FORM.c changes nothing in a span; in a strand D is held in M form, or in the form that its values allow, and no value changes. -/
def Rules.SplitForm : Prop :=
  (∀ f s i, issueOf 0x10 f s = some i →
    (∀ lo hi x, i.c.kind = .span lo hi → (i.c.spanPred (predNum f.a)).within lo hi = .u x →
      exec (.split f) s = i.ends 0x10 f i.s) ∧
    (∀ lo hi a b, i.c.kind = .span lo hi → (i.c.spanPred (predNum f.a)).within lo hi = .i a b →
      exec (.split f) s = i.cutsAt 0x10 f (inside lo hi [a, b])) ∧
    ((∀ lo hi, i.c.kind ≠ .span lo hi) → exec (.split f) s = i.ends 0x10 f i.s)) ∧
  (∀ f s i, issueOf 0x17 f s = some i →
    (∀ lo hi, f.mod ≠ 0 → i.c.kind = .span lo hi → exec (.form f) s = i.ends 0x17 f i.s) ∧
    (f.mod ≠ 0 → i.c.kind = .strand →
      exec (.form f) s = i.ends 0x17 f (i.onCtx fun c => c.compactForm f.d f.ty.is64)) ∧
    (f.mod = 0 → i.c.kind = .strand → exec (.form f) s = i.ends 0x17 f (i.onCtx fun c =>
      match f.d with
      | .p p => c.writePForm p.toNat .m
      | d => c.blur (destReg d) f.ty.is64)) ∧
    (∀ lo hi, f.mod = 0 → i.c.kind = .span lo hi → exec (.form f) s = i.materialises 0x17 f)) ∧
  ∀ (c : Ctx) (d : Opnd) (r : Nat) (wide : Bool), (c.compactForm d wide).lanes = c.lanes ∧ (c.blur r wide).lanes = c.lanes

/-- A cut of a span at one point or two inside it (R124) leaves a context for every piece: each item of the span is held by
exactly the pieces' intervals, in order, and the piece with the lowest index keeps the number, the scalars and the
private block, which the cut leaves alone while no offer stands. Where the manual is open, by the choices of log entry 25. -/
def Obligations.CutPieces : Prop :=
  (∀ (s : State) (c : Ctx) (lo hi p q : Nat), c.kind = .span lo hi → lo < p → p < q → q < hi → s.ctx c.id = some c →
    (∃ d, (s.cutSpan c [p, q]).ctx c.id = some d ∧ d.kind = .span lo p ∧ d.scal = c.scal ∧ d.pc = c.pc ∧
      ((∀ h ∈ c.chans, h.offered = 0) → d.priv = c.priv) ∧ d.bars = c.bars ∧ d.rets = c.rets ∧ d.regs = c.regs) ∧
    (s.nextId ∉ s.ctxs.map (·.id) → s.nextId + 1 ∉ s.ctxs.map (·.id) → ∀ k ∈ [0, 1],
      ∃ d, (s.cutSpan c [p, q]).ctx (s.nextId + k) = some d ∧ d.kind = (if k = 0 then .span p q else .span q hi) ∧
        d.scal = c.scal ∧ d.pc = c.pc ∧ d.bars = c.bars ∧ d.rets = c.rets ∧ d.regs = c.regs ∧ d.reserve = 0 ∧
        ∀ h ∈ d.chans, h = Chan.reset)) ∧
  ∀ (s : State) (c : Ctx) (lo hi p : Nat), c.kind = .span lo hi → lo < p → p < hi → s.ctx c.id = some c →
    (∃ d, (s.cutSpan c [p]).ctx c.id = some d ∧ d.kind = .span lo p ∧ d.scal = c.scal ∧ d.pc = c.pc ∧
      ((∀ h ∈ c.chans, h.offered = 0) → d.priv = c.priv) ∧
      d.bars = c.bars ∧ d.rets = c.rets ∧ d.regs = c.regs) ∧
    (s.nextId ∉ s.ctxs.map (·.id) →
      ∃ d, (s.cutSpan c [p]).ctx s.nextId = some d ∧ d.kind = .span p hi ∧ d.scal = c.scal ∧ d.pc = c.pc ∧
        d.bars = c.bars ∧ d.rets = c.rets ∧ d.regs = c.regs ∧ d.reserve = 0 ∧ (∀ h ∈ d.chans, h = Chan.reset))

/-- JOIN (R131, R161), of a span that is alone on its core but for at most one other span, which is adjacent: with one that waits
at this JOIN and meets the conditions of R131 it merges and goes on; for one that has not arrived it waits; with none it goes
on. Elsewhere JOIN does nothing. -/
def Rules.JoinMerges : Prop :=
  ∀ f s i, issueOf 0x11 f s = some i →
    let now := (kget i.s.cycles (i.s.coreNumber i.c)).getD 0
    let c : Ctx := { i.c with wait := .join (now + 512) }
    let s1 := i.s.setCtx c
    let others (ids : List Nat) (lo : Nat) : Prop :=
      ∀ e ∈ i.s.ctxs, e.id ∈ ids ∨ (∀ x y, e.kind ≠ .span x y) ∧ e.holds lo = false
    ((∀ lo hi, i.c.kind ≠ .span lo hi) → exec (.join f) s = i.ends 0x11 f i.s) ∧
    ((i.s.ctxs.map (·.id)).Nodup → i.s.ctxs.any (·.id == i.c.id) = true → ∀ lo hi, i.c.kind = .span lo hi → lo < hi →
      (∀ d m x y, others [i.c.id, d.id] lo → i.s.ctx d.id = some d → d.id ≠ i.c.id → atJoin i.pc d = true → c.pc = i.pc →
        mergeSpans s1 c d = some m ∨ mergeSpans s1 d c = some m → m.kind = .span x y → x ≤ lo → hi ≤ y →
        ∃ t, exec (.join f) s = i.movesTo 0x11 (i.cycles 0x11 f) t ∧ t.ctx d.id = none ∧
          ∃ e, t.ctx i.c.id = some e ∧ e.kind = .span x y ∧ e.wait = .none ∧ e.scal = i.c.scal ∧ e.regs = i.c.regs ∧
            (m.rep = none → e.pc = i.pc + 12)) ∧
      (∀ d, others [i.c.id, d.id] lo → i.s.ctx d.id = some d → adjacent i.c d = true → atJoin i.pc d = false →
        ∃ t, exec (.join f) s = i.waits 0x11 (i.cycles 0x11 f) t (.join (now + 512)) ∧
          ∃ e, t.ctx i.c.id = some e ∧ e.kind = .span lo hi ∧ e.pc = i.c.pc) ∧
      (others [i.c.id] lo → ∃ t, exec (.join f) s = i.movesTo 0x11 (i.cycles 0x11 f) t ∧
        ∃ e, t.ctx i.c.id = some e ∧ e.kind = .span lo hi ∧ e.wait = .none ∧
          (i.c.rep = none → e.pc = i.c.pc + 12))) ∧
    Completes (exec (.join f) s)

/-- SPANQ and RGROW (R164, R165). -/
def Rules.SpanqRgrow : Prop :=
  (∀ f s i, issueOffOf 0x15 f s = some i →
    exec (.spanq f) s = .next (finish i 0x15 1 (.done (i.onCtx fun c => c.writeScalD f.d
      (BitVec.ofNat 64 ((i.s.ctxs.filter (eligible i.c (i.target f.off))).map spanLen).sum))))) ∧
  (∀ f s i, issueOf 0x16 f s = some i →
    let n := (i.uni 1 f.b).toNat % 2 ^ 32
    let win := i.l.window true
    let big := 917504 < n * win + i.l.window false + round256 i.l.s
    let free := i.s.freeFor i.c i.l + i.c.reserve * (win / 256)
    ((∀ lo hi, i.c.kind ≠ .span lo hi) → exec (.rgrow f) s = i.ends 0x16 f (i.onCtx fun c => c.writeScalD f.d 2)) ∧
    (∀ lo hi, i.c.kind = .span lo hi → big →
      exec (.rgrow f) s = i.ends 0x16 f (i.onCtx fun c => c.writeScalD f.d 1)) ∧
    (∀ lo hi, i.c.kind = .span lo hi → ¬ big → n * (win / 256) ≤ free →
      exec (.rgrow f) s = i.ends 0x16 f ((i.onCtx fun c => { c with reserve := n, first := false }).modCtx i.c.id fun c =>
        c.writeScalD f.d 0)) ∧
    (∀ lo hi, i.c.kind = .span lo hi → ¬ big → free < n * (win / 256) →
      exec (.rgrow f) s = i.waits 0x16 (i.cycles 0x16 f) i.s (.space (n * (win / 256)))))

/-- BMARK and RJOIN (R128, R129, R163): BMARK in a strand sets a local mask of the lanes whose guard is true, in a span a
join counter of its items, once there is room for one (R239); on a linked barrier not yet released it is ILLEGAL with DETAIL
0x05. RJOIN on a clear barrier
passes; a span that arrives at a linked one waits and subtracts its items from the counter. The issuing lanes of a strand that
the barrier's mask names wait at their RJOIN, the others go on, and a barrier that is complete releases its lanes; the arrivals at a
linked one are subtracted from its counter. -/
def Rules.Barriers : Prop :=
  (∀ f s i, issueOf 0x13 f s = some i →
    (i.linkedLive (barNum f.d) = true →
      exec (.bmark f) s = i.traps 0x13 (i.cycles 0x13 f) i.s 1 5 (maskOf i.lanes)) ∧
    (i.linkedLive (barNum f.d) = false → i.c.kind = .strand →
      exec (.bmark f) s = i.ends 0x13 f (i.onCtx fun c =>
        { c with bars := c.bars.set (barNum f.d) (.mask (maskOf i.lanes)) })) ∧
    (∀ lo hi room, i.linkedLive (barNum f.d) = false → i.c.kind = .span lo hi →
      i.s.joinRoom i.c i.l.vf = some room → ∃ t j, exec (.bmark f) s = .next t ∧
        (∀ d, t.ctx i.c.id = some d → ∀ b ∈ d.bars[barNum f.d]?, b = .linked j 0) ∧
        ∀ r, t.range i.c.range = some r → (⟨j, i.c.core, hi - lo, lo, hi, room⟩ : Join) ∈ r.joins) ∧
    (∀ lo hi, i.linkedLive (barNum f.d) = false → i.c.kind = .span lo hi → i.s.joinRoom i.c i.l.vf = none →
      exec (.bmark f) s = i.waits 0x13 (i.cycles 0x13 f) i.s (.stall .joinRoom))) ∧
  (∀ f s i, issueOf 0x14 f s = some i →
    Completes (exec (.rjoin f) s) ∧
    (∀ lo hi, i.c.kind = .span lo hi → i.c.bars[barNum f.d]? = some .clear → exec (.rjoin f) s = i.ends 0x14 f i.s) ∧
    (∀ bar, i.c.kind = .strand → i.c.bars[barNum f.d]? = some bar →
      let stay := i.lanes.filter (bitOf bar.frameMask)
      let t := i.onCtx fun c =>
        let c := c.advance i.issuing i.next
        ({ c with lanes := (List.range c.lanes.length).zipWith (fun l (x : Lane) =>
            if stay.contains l then { x with pc := i.pc, waiting := some (barNum f.d) } else x) c.lanes } : Ctx).checkLocal
      exec (.rjoin f) s = i.movesTo 0x14 (i.cycles 0x14 f) (State.checkStuck (match bar with
        | .linked j _ => t.joinSub i.c.range j stay.length
        | _ => t) i.c.id)) ∧
    (∀ m, i.c.kind = .strand → i.c.rep = none → i.c.bars.length = 4 → i.c.bars[barNum f.d]? = some (.mask m) → i.lanes ≠ [] →
      (∀ l ∈ i.c.live, bitOf m l = true → l ∈ i.lanes ∨ ((i.c.lanes[l]?).bind (·.waiting)) = some (barNum f.d)) →
      (∀ l ∈ i.lanes, bitOf m l = true) → i.s.ctx i.c.id ≠ none →
      ∃ t, exec (.rjoin f) s = .next t ∧ ∀ d, t.ctx i.c.id = some d → d.bars[barNum f.d]? = some .clear ∧
        ∀ l ∈ i.lanes, ∀ x, d.lanes[l]? = some x → x.waiting = none ∧ x.pc = i.pc + 12) ∧
    (∀ lo hi j m, i.c.kind = .span lo hi → i.c.bars[barNum f.d]? = some (.linked j m) →
      exec (.rjoin f) s = i.movesTo 0x14 (i.cycles 0x14 f)
        ((i.onCtx fun c => { c with wait := .rjoin (barNum f.d), active := false }).joinSub i.c.range j (hi - lo))))

/-- REFILL (R133, R162): a context that is no strand, or has no eligible feeder, goes on; otherwise the feeder with the
lowest index gives its lowest min(m, length) items to the strand's m idle lanes, unless the return stacks would hold more
than 8 entries together. -/
def Rules.RefillEffect : Prop :=
  ∀ f s i, issueOffOf 0x12 f s = some i →
    let x := i.target f.off
    let s1 := i.onCtx fun c => c.advance i.issuing i.next
    let fs := i.s.ctxs.filter (eligible i.c x)
    let idle := (List.range i.c.lanes.length).filter fun l => (i.c.lanes[l]?).any (·.item.isNone)
    Completes (exec (.refill f) s) ∧
    (i.c.kind ≠ .strand ∨ fs = [] → exec (.refill f) s = i.movesTo 0x12 1 s1) ∧
    ∀ g ∈ fs, i.c.kind = .strand → (∀ h ∈ fs, h = g ∨ spanLo g < spanLo h) → idle ≠ [] → spanLen g ≠ 0 →
      (8 < i.c.rets.length + g.rets.length → exec (.refill f) s = i.movesTo 0x12 1 s1) ∧
      (i.c.rets.length + g.rets.length ≤ 8 →
        let m := min idle.length (spanLen g)
        ∃ t, exec (.refill f) s = i.movesTo 0x12 1 t ∧
          (∀ d, t.ctx g.id = some d → d.kind = .span (spanLo g + m) (spanLo g + spanLen g)) ∧
          ∃ d, t.ctx i.c.id = some d ∧ d.refilled = true ∧ d.scal = i.c.scal ∧
            ∀ k l, k < m → idle[k]? = some l → ∃ y, d.lanes[l]? = some y ∧ y.item = some (spanLo g + k) ∧ y.pc = x ∧
              (g.landing = [] → y.preds = g.preds.map (·.at (spanLo g + k)) ∧
                y.regs = g.regs.map (·.at (spanLo g + k))))

/-- SPLIT, FORM, JOIN, SPANQ, RGROW, BMARK, RJOIN and REFILL. Where the manual is open, by the choices of log entries
20, 22, 25. -/
def Obligations.SpansAndStrands : Prop :=
  Rules.SplitForm ∧ Rules.JoinMerges ∧ Rules.SpanqRgrow ∧ Rules.Barriers ∧ Rules.RefillEffect

/-! ## Values of items (05) -/

/-- IADD, ISUB, IMUL, IMAD, IMIN, IMAX, IABS and INEG (R82, R83): wrapped to the width of the type; min, max and |a|
read it signed for s types, and .hi gives the upper bits of the exact product. -/
def Rules.IntegerResults : Prop :=
  ∀ e ∈ [ValRow.same 0x20 .iadd fun f a b _ _ => lowBits f (a + b),
    ValRow.same 0x21 .isub fun f a b _ _ => lowBits f (a - b),
    ValRow.same 0x22 .imul fun f a b _ _ =>
      if bitOf f.mod.toNat 0 then
        (f.ty.intVal a * f.ty.intVal b / 2 ^ f.ty.width % 2 ^ f.ty.width).toNat
      else lowBits f (a * b),
    { ValRow.same 0x23 .imad (fun f a b x _ => lowBits f (a * b + x)) with usesX := true },
    ValRow.same 0x26 .imin fun f a b _ _ => lowBits f (if f.ty.intVal a ≤ f.ty.intVal b then a else b),
    ValRow.same 0x27 .imax fun f a b _ _ => lowBits f (if f.ty.intVal a ≤ f.ty.intVal b then b else a),
    (ValRow.same 0x28 .iabs fun f a _ _ _ => lowBits f (if f.ty.intVal a < 0 then -a else a)).unary,
    (ValRow.same 0x29 .ineg fun f a _ _ _ => lowBits f (-a)).unary], e.Rule

/-- IDIV and IREM (R84): a zero divisor gives 2^w − 1 and the dividend, the least s value by −1 gives itself and 0, any
other the truncated quotient and its remainder. -/
def Rules.DivisionResults : Prop :=
  let least (f : Fields) (a b : W64) : Bool :=
    f.ty.signed && f.ty.intVal a == -2 ^ (f.ty.width - 1) && f.ty.intVal b == -1
  ∀ e ∈ [ValRow.same 0x24 .idiv fun f a b _ _ =>
      if lowBits f b = 0 then 2 ^ f.ty.width - 1
      else if least f a b then lowBits f a
      else ((f.ty.intVal a).tdiv (f.ty.intVal b) % 2 ^ f.ty.width).toNat,
    ValRow.same 0x25 .irem fun f a b _ _ =>
      if lowBits f b = 0 then lowBits f a
      else if least f a b then 0
      else ((f.ty.intVal a).tmod (f.ty.intVal b) % 2 ^ f.ty.width).toNat], e.Rule

/-- The affine results of R79: whenever the rule gives a form, item i of it holds what the instruction gives for item i of
the operands. -/
def Obligations.AffineResults : Prop :=
  (∀ (o : IntOp) (t : Ty) (fa fb fx : Form) (i : Nat), affInt o t.width fa fb fx ≠ .m →
    ((affInt o t.width fa fb fx).at i).toNat % 2 ^ t.width = intItem o t (fa.at i) (fb.at i) (fx.at i)) ∧
  ∀ (t : Ty) (len : Nat) (fa fb : Form) (d : W64) (i : Nat), affShl t.width fa fb ≠ .m →
    ((affShl t.width fa fb).at i).toNat % 2 ^ t.width = bitItem .shl t len (fa.at i) (fb.at i) d

/-- IADDX (R86): the sum with the carry-in modulo 2^w, and under .co the carry-out in predicate CP. -/
def Rules.AddWithCarry : Prop :=
  ∀ f s i, issueOf 0x2A f s = some i →
    let w := f.ty.width
    let cp := f.x.toNat % 8
    let sum (a b : W64) (cin : Bool) : Nat := a.toNat % 2 ^ w + b.toNat % 2 ^ w + (bitOf f.x.toNat 3 && cin).toNat
    (destScal f.d = none → i.c.kind = .strand →
      let t (l : Nat) : Nat := sum (i.lane 0 l f.ty.is64 f.a) (i.lane 1 l f.ty.is64 f.b) (i.c.lanePred l cp)
      ∃ fm out, exec (.iaddx f) s = i.ends 0x2A f (i.onCtx fun c =>
        let c := i.putLanes c (destReg f.d) f.ty.is64 (i.lanes.map fun l => (l, regBits f.ty (t l % 2 ^ w))) fm
        if bitOf f.x.toNat 4 then i.putLanePreds c cp (i.lanes.map fun l => (l, decide (2 ^ w ≤ t l))) out else c)) ∧
    (∀ lo hi a b p, destScal f.d = none → i.c.kind = .span lo hi → i.form 0 f.ty.is64 f.a = .u a →
      i.form 1 f.ty.is64 f.b = .u b → (i.c.spanPred cp).within lo hi = .u p →
      i.c.splitsPair (destReg f.d) f.ty.is64 = false →
      exec (.iaddx f) s = i.ends 0x2A f (i.onCtx fun c =>
        let c := c.writeForm (destReg f.d) f.ty.is64 (.u (regBits f.ty (sum a b p % 2 ^ w)))
        if bitOf f.x.toNat 4 then c.writePForm cp (.u (2 ^ w ≤ sum a b p)) else c)) ∧
    (∀ lo hi p q, destScal f.d = none → i.c.kind = .span lo hi → bitOf f.x.toNat 3 = false → bitOf f.x.toNat 4 = false →
      affInt .add w (i.form 0 f.ty.is64 f.a) (i.form 1 f.ty.is64 f.b) (.u 0) = .a p q →
      i.c.splitsPair (destReg f.d) f.ty.is64 = false →
      exec (.iaddx f) s = i.ends 0x2A f (i.onCtx fun c => c.writeForm (destReg f.d) f.ty.is64 (.a p q))) ∧
    (∀ r, destScal f.d = some r → i.c.kind = .control →
      let t := sum (i.uni 0 f.a) (i.uni 1 f.b) ((i.c.spanPred cp).at 0)
      exec (.iaddx f) s = i.ends 0x2A f (i.onCtx fun c =>
        let c := c.writeScal r (scalBits f.ty (t % 2 ^ w))
        if bitOf f.x.toNat 4 then c.writePForm cp (.u (2 ^ w ≤ t)) else c)) ∧
    Completes (exec (.iaddx f) s)

/-- IADD, ISUB, IMUL, IMAD, INEG and SHL of a span with a source in A form (R78, R79): D is held in the form that the rule gives;
where it gives none, the span materialises. Under .hi, and under 16-bit and 8-bit types, there is no affine result. -/
def Rules.AffineSpans : Prop :=
  (∀ e ∈ [((0x20 : Nat), Instr.iadd, IntOp.add, true), (0x21, .isub, .sub, true), (0x22, .imul, .mul, true),
      (0x23, .imad, .mad, true), (0x29, .ineg, .neg, false)],
    ∀ f s i lo hi, issueOf e.1 f s = some i → destScal f.d = none → i.c.kind = .span lo hi →
      let wd := f.ty.is64
      let fa := i.form 0 wd f.a
      let fb := i.formIf e.2.2.2 1 wd f.b
      let fx := i.formIf (e.1 == 0x23) 2 wd (.v f.x)
      let fm := if f.ty.isWide && !(e.1 == 0x22 && bitOf f.mod.toNat 0) then affInt e.2.2.1 f.ty.width fa fb fx else .m
      (∀ a b x, ¬ (fa = .u a ∧ fb = .u b ∧ fx = .u x)) →
      (fm ≠ .m → i.c.splitsPair (destReg f.d) wd = false →
        exec (e.2.1 f) s = i.ends e.1 f (i.onCtx fun c => c.writeForm (destReg f.d) wd fm)) ∧
      (fm = .m → exec (e.2.1 f) s = i.materialises e.1 f)) ∧
  ∀ f s i lo hi, issueOf 0x35 f s = some i → destScal f.d = none → i.c.kind = .span lo hi →
    let fa := i.form 0 f.ty.is64 f.a
    let fb := i.form 1 false f.b
    let fm := affShl f.ty.width fa fb
    (∀ a b, ¬ (fa = .u a ∧ fb = .u b)) →
    (fm ≠ .m → i.c.splitsPair (destReg f.d) f.ty.is64 = false →
      exec (.shl f) s = i.ends 0x35 f (i.onCtx fun c => c.writeForm (destReg f.d) f.ty.is64 fm)) ∧
    (fm = .m → exec (.shl f) s = i.materialises 0x35 f)

/-- The integer instructions of opcodes 0x20 to 0x2A, and the affine forms of spans. -/
def Obligations.IntegerArithmetic : Prop :=
  Rules.IntegerResults ∧ Rules.DivisionResults ∧ Rules.AddWithCarry ∧ Rules.AffineSpans

/-- The bit operations (R88 to R91), bit by bit. -/
def Rules.BitResults : Prop :=
  ∀ e ∈ [ValRow.bits 0x30 .and fun a b k => bitOf a.toNat k && bitOf b.toNat k,
    ValRow.bits 0x31 .or fun a b k => bitOf a.toNat k || bitOf b.toNat k,
    ValRow.bits 0x32 .xor fun a b k => bitOf a.toNat k != bitOf b.toNat k,
    (ValRow.bits 0x33 .not fun a _ k => !bitOf a.toNat k).unary,
    ValRow.bits 0x34 .andn fun a b k => bitOf a.toNat k && !bitOf b.toNat k,
    ValRow.count 0x35 .shl false fun f a b _ _ => a.toNat * 2 ^ countOf f b % 2 ^ f.ty.width,
    ValRow.count 0x36 .shr false fun f a b _ _ => (f.ty.intVal a / 2 ^ countOf f b % 2 ^ f.ty.width).toNat,
    ValRow.count 0x37 .rot false fun f a b _ _ =>
      bitSum f.ty.width fun k => bitOf a.toNat ((k + f.ty.width - countOf f b) % f.ty.width),
    ValRow.count 0x38 .bfx false fun f a b _ _ =>
      let n := min f.x.toNat (f.ty.width - countOf f b)
      let bit (k : Nat) : Bool := bitOf a.toNat (countOf f b + k)
      bitSum f.ty.width fun k => if k < n then bit k else f.ty.signed && n != 0 && bit (n - 1),
    ValRow.count 0x39 .bfi true fun f a b _ d =>
      bitSum f.ty.width fun k => if countOf f b ≤ k ∧ k < countOf f b + f.x.toNat then bitOf a.toNat (k - countOf f b)
        else bitOf d.toNat k,
    (ValRow.same 0x3A .popc fun f a _ _ _ => ((List.range f.ty.width).filter (bitOf a.toNat)).length).unary,
    (ValRow.same 0x3B .clz fun f a _ _ _ =>
      ((List.range f.ty.width).takeWhile fun k => !bitOf a.toNat (f.ty.width - 1 - k)).length).unary,
    (ValRow.same 0x3C .brev fun f a _ _ _ => bitSum f.ty.width fun k => bitOf a.toNat (f.ty.width - 1 - k)).unary], e.Rule

/-- PRM (R92) and RNDX (R114): result byte j is the source byte its selector names, or its sign byte; RNDX gives the
generator's output, its upper 32 bits, or its upper 24 bits scaled by 2^-24. -/
def Rules.PermuteAndStream : Prop :=
  ∀ e ∈ [(⟨0x3D, .prm, fun _ => false, fun _ => false, fun _ => .b32, true, true, false, fun _ a b x _ =>
      let g (j : Nat) : Nat := x.toNat / 2 ^ (4 * j) % 16
      let byte (k : Nat) : Nat := (if k < 4 then a.toNat / 2 ^ (8 * k) else b.toNat / 2 ^ (8 * (k - 4))) % 256
      let out (j : Nat) : Nat :=
        if g j < 8 then byte (g j) else if 128 ≤ byte (g j - 8) then 255 else 0
      out 0 + out 1 * 2 ^ 8 + out 2 * 2 ^ 16 + out 3 * 2 ^ 24⟩ : ValRow),
    ⟨0x78, .rndx, fun _ => true, fun _ => true, fun f => f.ty, true, false, false, fun f a b _ _ =>
      let c := if f.var != 0 && f.b.isIn [.lit] then b.toNat % 2 ^ 32 else b.toNat
      let o := rndxOut a.toNat c
      if f.var == 0 then o else if f.var == 1 then o / 2 ^ 32
      else fmtF32.round false .rne (.fin false (o / 2 ^ 40) (-24))⟩], e.Rule

/-- The bit operations, PRM and RNDX. -/
def Obligations.BitAndPermute : Prop :=
  Rules.BitResults ∧ Rules.PermuteAndStream

/-- ICMP and FCMP (R94): each active item of a strand, a control program, and a span of uniform sources receive the truth
of the comparison; a NaN makes every ordered FCMP false, .ne and .un true. -/
def Rules.CompareResults : Prop :=
  ∀ p ∈ [((0x40 : Nat), Instr.icmp, fun (f : Fields) (a b : W64) =>
      let x := f.ty.intVal a
      let y := f.ty.intVal b
      let rs := [decide (x = y), decide (x ≠ y), decide (x < y), decide (x ≤ y), decide (y < x), decide (y ≤ x), false]
      (rs[f.var.toNat]?).getD true),
    (0x41, Instr.fcmp, fun f a b =>
      let x := f.ty.num false a
      let y := f.ty.num false b
      let un := x.isNan || y.isNan
      let rs := [!un && !x.lt y && !y.lt x, un || x.lt y || y.lt x, x.lt y, !un && !y.lt x, y.lt x, !un && !x.lt y, un]
      (rs[f.var.toNat]?).getD (!un))],
    ∀ f s i r, issueOf p.1 f s = some i → f.d = .p r →
      let wd := f.ty.is64
      (i.c.kind = .strand → ∃ fm, (∀ a b, i.form 0 wd f.a = .u a → i.form 1 wd f.b = .u b → fm = .u (p.2.2 f a b)) ∧
        exec (p.2.1 f) s = i.ends p.1 f (i.setLanePreds r.toNat (fun l =>
          p.2.2 f (i.lane 0 l wd f.a) (i.lane 1 l wd f.b)) fm)) ∧
      (i.c.kind = .control → exec (p.2.1 f) s = i.ends p.1 f (i.onCtx fun c =>
        c.writePForm r.toNat (.u (p.2.2 f (i.uni 0 f.a) (i.uni 1 f.b))))) ∧
      (∀ lo hi a b, i.c.kind = .span lo hi → i.form 0 wd f.a = .u a → i.form 1 wd f.b = .u b →
        exec (p.2.1 f) s = i.ends p.1 f (i.onCtx fun c => c.writePForm r.toNat (.u (p.2.2 f a b)))) ∧
      Completes (exec (p.2.1 f) s)

/-- The interval of R95 is the set of indices for which the comparison of two linear operands is true. -/
def Obligations.CompareInterval : Prop :=
  ∀ (c : Cmp) (a b : Int × Int) (n x y : Nat), cmpRun c a b n = some (x, y) →
    ∀ k < n, (c.int (a.1 + a.2 * k) (b.1 + b.2 * k) = true ↔ x ≤ k ∧ k < y)

/-- ICMP of a span with a source in A form (R95): where neither operand wraps and the true set is an interval, the predicate holds
it; otherwise the span materialises, as it does for an FCMP whose sources are not both U. -/
def Rules.CompareSpans : Prop :=
  (∀ f s i r lo hi, issueOf 0x40 f s = some i → f.d = .p r → i.c.kind = .span lo hi →
    let fa := i.form 0 f.ty.is64 f.a
    let fb := i.form 1 f.ty.is64 f.b
    let line (x : Form) : Option (Int × Int) := linear f.ty.signed f.ty.width lo hi x
    (∀ a b, ¬ (fa = .u a ∧ fb = .u b)) →
    (∀ a b x y, line fa = some a → line fb = some b → cmpRun (Cmp.ofCode f.var.toNat) a b (hi - lo) = some (x, y) →
      exec (.icmp f) s = i.ends 0x40 f (i.onCtx fun c =>
        c.writePForm r.toNat (PForm.within (.i (lo + x) (lo + y)) lo hi))) ∧
    ((line fa = none ∨ line fb = none ∨ ∃ a b, line fa = some a ∧ line fb = some b ∧
        cmpRun (Cmp.ofCode f.var.toNat) a b (hi - lo) = none) →
      exec (.icmp f) s = i.materialises 0x40 f)) ∧
  ∀ f s i lo hi, issueOf 0x41 f s = some i → i.c.kind = .span lo hi →
    (∀ a b, ¬ (i.form 0 f.ty.is64 f.a = .u a ∧ i.form 1 f.ty.is64 f.b = .u b)) →
    exec (.fcmp f) s = i.materialises 0x41 f

/-- SEL (R96) selects by the predicate of the item, negated under X[3]; a span under an I predicate is cut at its bounds, and one
that selects a source in A form keeps it. -/
def Rules.SelectEffect : Prop :=
  ∀ f s i, issueOf 0x42 f s = some i →
    let p := f.x.toNat % 8
    let neg := bitOf f.x.toNat 3
    let wd := f.ty.is64
    (i.c.kind = .strand → ∃ fm, exec (.sel f) s = i.ends 0x42 f (i.setLanes f.d wd (fun l =>
      regBits f.ty (if i.c.lanePred l p != neg then i.lane 0 l wd f.a else i.lane 1 l wd f.b).toNat) fm)) ∧
    (∀ r, i.c.kind = .control → destScal f.d = some r → exec (.sel f) s = i.ends 0x42 f (i.onCtx fun c =>
      c.writeScal r (scalBits f.ty (if (i.c.spanPred p).at 0 != neg then i.uni 0 f.a else i.uni 1 f.b).toNat))) ∧
    (∀ lo hi x y, i.c.kind = .span lo hi → destScal f.d = none → (i.c.spanPred p).within lo hi = .u x →
      (if x != neg then i.form 0 wd f.a else i.form 1 wd f.b) = .u y → i.c.splitsPair (destReg f.d) wd = false →
      exec (.sel f) s = i.ends 0x42 f (i.onCtx fun c => c.writeForm (destReg f.d) wd (.u (regBits f.ty y.toNat)))) ∧
    (∀ lo hi x q r, i.c.kind = .span lo hi → destScal f.d = none → (i.c.spanPred p).within lo hi = .u x →
      (if x != neg then i.form 0 wd f.a else i.form 1 wd f.b) = .a q r → f.ty.isWide = true →
      mkA f.ty.width q r = .a q r → i.c.splitsPair (destReg f.d) wd = false →
      exec (.sel f) s = i.ends 0x42 f (i.onCtx fun c => c.writeForm (destReg f.d) wd (.a q r))) ∧
    (∀ lo hi a b, i.c.kind = .span lo hi → (i.c.spanPred p).within lo hi = .i a b →
      exec (.sel f) s = i.cutsAt 0x42 f (inside lo hi [a, b])) ∧
    Completes (exec (.sel f) s)

/-- MOV (R97) copies its source; from a queue register it pops one word, or two under a 64-bit type, and delivers them to
every active item. Without enough words it waits for the channel, or with nothing offered raises SEND with DETAIL 0x02. -/
def Rules.MoveEffect : Prop :=
  ∀ f s i, issueOf 0x43 f s = some i →
    let wd := f.ty.is64
    let need := if wd then 2 else 1
    (∀ r, queueOf f.b = none → destScal f.d = some r → exec (.mov f) s = i.ends 0x43 f (i.onCtx fun c =>
      c.writeScal r (scalBits f.ty (i.uni 1 f.b).toNat))) ∧
    (queueOf f.b = none → destScal f.d = none → i.c.kind = .strand → ∃ fm, exec (.mov f) s = i.ends 0x43 f
      (i.setLanes f.d wd (fun l => regBits f.ty (i.lane 1 l wd f.b).toNat) fm)) ∧
    (∀ lo hi y, queueOf f.b = none → destScal f.d = none → i.c.kind = .span lo hi → i.form 1 wd f.b = .u y →
      i.c.splitsPair (destReg f.d) wd = false → exec (.mov f) s = i.ends 0x43 f (i.onCtx fun c =>
        c.writeForm (destReg f.d) wd (.u (regBits f.ty y.toNat)))) ∧
    (∀ lo hi p q, queueOf f.b = none → destScal f.d = none → i.c.kind = .span lo hi → i.form 1 wd f.b = .a p q →
      f.ty.isWide = true → mkA f.ty.width p q = .a p q → i.c.splitsPair (destReg f.d) wd = false →
      exec (.mov f) s = i.ends 0x43 f (i.onCtx fun c => c.writeForm (destReg f.d) wd (.a p q))) ∧
    (∀ ch, queueOf f.b = some ch →
      ((i.chan ch).waiting < need → (i.chan ch).offered = 0 →
        exec (.mov f) s = i.traps 0x43 (i.cycles 0x43 f) i.s 4 2 (maskOf i.lanes)) ∧
      ((i.chan ch).waiting < need → (i.chan ch).offered ≠ 0 →
        exec (.mov f) s = i.waits 0x43 (i.cycles 0x43 f) i.s (.stall (.words ch need))) ∧
      (need ≤ (i.chan ch).waiting → i.splits f.d wd = false →
        let x := (i.chan ch).pop
        let y := x.2.pop
        let v : W64 := if wd then BitVec.ofNat 64 (x.1.toNat + y.1.toNat * 2 ^ 32) else regBits f.ty x.1.toNat
        exec (.mov f) s = i.ends 0x43 f ((i.onCtx fun c => c.putChan ch (if wd then y.2 else x.2)).modCtx i.c.id fun c =>
          i.deliverAll c f.d wd v))) ∧
    Completes (exec (.mov f) s)

/-- ICMP, FCMP, SEL and MOV. Where the manual is open, by the choices of log entries 13, 17. -/
def Obligations.ComparesSelectsMoves : Prop :=
  Rules.CompareResults ∧ Rules.CompareSpans ∧ Rules.SelectEffect ∧ Rules.MoveEffect

/-- PLOG and PMOV (R98, R99): the and, or, exclusive or, or and-not of two predicates, item by item; PMOV copies a
predicate, tests a value against 0, or gives 1 or 0 for a predicate. Where the manual is open, by the choices of log entry
13. -/
def Obligations.PredicateMoves : Prop :=
  (∀ f s i, issueOf 0x44 f s = some i →
    let d := predNum f.d
    let val (x y : Bool) : Bool := if f.var == 0 then x && y else if f.var == 1 then x || y else if f.var == 2 then x != y
      else x && !y
    (i.c.kind = .strand → ∃ fm, exec (.plog f) s = i.ends 0x44 f (i.setLanePreds d (fun l =>
      val (i.c.lanePred l (predNum f.a)) (i.c.lanePred l (predNum f.b))) fm)) ∧
    (i.c.kind = .control → exec (.plog f) s = i.ends 0x44 f (i.onCtx fun c => c.writePForm d
      (.u (val ((i.c.spanPred (predNum f.a)).at 0) ((i.c.spanPred (predNum f.b)).at 0))))) ∧
    (∀ lo hi r, i.c.kind = .span lo hi →
      plogRun f.var.toNat lo hi (i.c.spanPred (predNum f.a)) (i.c.spanPred (predNum f.b)) = some r →
      exec (.plog f) s = i.ends 0x44 f (i.onCtx fun c => c.writePForm d r)) ∧
    Completes (exec (.plog f) s)) ∧
  (∀ f s i, issueOf 0x45 f s = some i →
    (∀ d a, f.d = .p d → f.a = .p a → i.c.kind = .strand → exec (.pmov f) s = i.ends 0x45 f
      (i.setLanePreds d.toNat (fun l => i.c.lanePred l a.toNat) (i.c.spanPred a.toNat))) ∧
    (∀ d a, f.d = .p d → f.a = .p a → i.c.kind ≠ .strand → exec (.pmov f) s = i.ends 0x45 f (i.onCtx fun c =>
      c.writePForm d.toNat (i.c.spanPred a.toNat))) ∧
    (∀ d, f.d = .p d → (∀ a, f.a ≠ .p a) → i.c.kind = .strand → ∃ fm, exec (.pmov f) s = i.ends 0x45 f
      (i.setLanePreds d.toNat (fun l => lowBits f (i.lane 0 l f.ty.is64 f.a) != 0) fm)) ∧
    (∀ d a, f.d = .v d → f.a = .p a → i.c.kind = .strand → ∃ fm, exec (.pmov f) s = i.ends 0x45 f
      (i.setLanes f.d false (fun l => if i.c.lanePred l a.toNat then 1 else 0) fm)) ∧
    Completes (exec (.pmov f) s))

/-- The interval that PLOG gives a span (R98): found exactly when the true set over the span is one interval. -/
def Obligations.PredicateIntervals : Prop :=
  ∀ (v lo hi : Nat) (p q : PForm), lo < hi →
    (∀ r, plogRun v lo hi p q = some r → ∀ k, lo ≤ k → k < hi → r.at k = plogItem v (p.at k) (q.at k)) ∧
    ((∃ x y, ∀ k, lo ≤ k → k < hi → (plogItem v (p.at k) (q.at k) = true ↔ x ≤ k ∧ k < y)) →
      plogRun v lo hi p q ≠ none)

/-- Floating arithmetic and the special functions (R101, R102, R105, R106): the exact function of the operands, rounded
once. FMIN and FMAX return an operand; the transcendental functions round by their value. -/
def Rules.FloatResults : Prop :=
  ∀ e ∈ [ValRow.flt 0x50 .fadd false fun r a b _ => a.add r b,
    ValRow.flt 0x51 .fsub false fun r a b _ => a.add r b.neg,
    ValRow.flt 0x52 .fmul false fun _ a b _ => a.mul b,
    ValRow.flt 0x53 .ffma true fun r a b x => (a.mul b).add r x,
    ValRow.flt 0x54 .fmin false fun _ a b _ => a.min b,
    ValRow.flt 0x55 .fmax false fun _ a b _ => a.max b,
    (ValRow.flt 0x58 .frnd false fun r a _ _ => match a with
      | .fin neg m e => if 0 ≤ e then .fin neg m e else .fin neg (toGrid neg m e 0 r) 0
      | v => v).unary,
    (ValRow.flt 0x60 .frcp false fun _ a _ _ => Exact.one.div a).unary,
    (ValRow.flt 0x61 .frsq false fun _ a _ _ => a.rsqrt).unary,
    (ValRow.flt 0x62 .fsqrt false fun _ a _ _ => a.sqrt).unary,
    ValRow.flt 0x63 .fdiv false fun _ a b _ => a.div b,
    (ValRow.same 0x64 .fexp2 fun f a _ _ _ => fltItem .exp2 f.ty f.mod.toNat a 0 0).unary,
    (ValRow.same 0x65 .flog2 fun f a _ _ _ => fltItem .log2 f.ty f.mod.toNat a 0 0).unary,
    (ValRow.same 0x66 .fsin fun f a _ _ _ => fltItem .sin f.ty f.mod.toNat a 0 0).unary,
    (ValRow.same 0x67 .fcos fun f a _ _ _ => fltItem .cos f.ty f.mod.toNat a 0 0).unary], e.Rule

/-- The special values of R107, in every mode: the operand as a value, and the value that is rounded. -/
def Obligations.SpecialValues : Prop :=
  ∀ (neg : Bool) (m : Nat) (e : Int) (rnd : Exact → Nat), 0 < m →
    let zero : Exact := .fin neg 0 e
    let pz : Exact := .fin false 0 0
    let x : Exact := .fin neg m e
    (Exact.one.div zero = .inf neg ∧ Exact.one.div (.inf neg) = .fin neg 0 0) ∧
    (zero.rsqrt = .inf neg ∧ (Exact.inf false).rsqrt = pz ∧ (Exact.inf true).rsqrt = .nan ∧
      (Exact.fin true m e).rsqrt = .nan) ∧
    (zero.sqrt = .fin neg 0 0 ∧ (Exact.inf false).sqrt = .inf false ∧ (Exact.inf true).sqrt = .nan ∧
      (Exact.fin true m e).sqrt = .nan) ∧
    (∀ sg k, x.div (.fin sg 0 k) = .inf (neg != sg) ∧ zero.div (.fin sg 0 k) = .nan ∧
      zero.div (.fin sg m k) = .fin (neg != sg) 0 0 ∧ x.div (.inf sg) = .fin (neg != sg) 0 0 ∧
      (Exact.inf neg).div (.inf sg) = .nan) ∧
    (exp2Round rnd (.inf true) = rnd pz ∧ exp2Round rnd (.inf false) = rnd (.inf false) ∧
      exp2Round rnd zero = rnd Exact.one ∧ ∀ k : Nat, k < 1000 → exp2Round rnd (.fin false k 0) = rnd (.fin false 1 k)) ∧
    (log2Round rnd zero = rnd (.inf true) ∧ log2Round rnd (.inf false) = rnd (.inf false) ∧
      log2Round rnd (.inf true) = rnd .nan ∧ log2Round rnd (.fin true m e) = rnd .nan ∧
      ∀ k : Nat, log2Round rnd (.fin false (2 ^ k) e) = rnd (Exact.ofInt (e + k))) ∧
    (trigRound false rnd zero = rnd (.fin neg 0 0) ∧ trigRound false rnd (.inf neg) = rnd .nan) ∧
    (trigRound true rnd zero = rnd Exact.one ∧ trigRound true rnd (.inf neg) = rnd .nan) ∧
    exp2Round rnd .nan = rnd .nan ∧ log2Round rnd .nan = rnd .nan ∧ trigRound false rnd .nan = rnd .nan ∧
    Exact.nan.sqrt = .nan ∧ Exact.nan.rsqrt = .nan ∧ x.div .nan = .nan ∧ Exact.nan.div x = .nan

/-- Rounding (R48): the multiple of 2^q that a mode picks for m × 2^(q − n) is the exact value where that is a multiple, and
otherwise one of its two neighbours: toward zero, down, up, or the nearer one with ties to the even multiple. -/
def Obligations.RoundingModes : Prop :=
  ∀ (neg : Bool) (m n : Nat) (q : Int),
    let k (r : Rnd) : Nat := toGrid neg m (q - n) q r
    let lo := m / 2 ^ n
    let up := if m % 2 ^ n = 0 then lo else lo + 1
    k .rz = lo ∧ k .rd = (if neg then up else lo) ∧ k .ru = (if neg then lo else up) ∧
    (k .rne = lo ∧ 2 * (m % 2 ^ n) ≤ 2 ^ n ∨ k .rne = up ∧ 2 ^ n ≤ 2 * (m % 2 ^ n)) ∧
    (2 * (m % 2 ^ n) = 2 ^ n → k .rne % 2 = 0)

/-- A value of a format is kept exactly (R60, R109): decoding a pattern and rounding it in the same format gives it back in
every mode, a NaN as the canonical NaN. -/
def Obligations.RoundingExact : Prop :=
  ∀ t ∈ [Ty.f32, .f64, .f16, .bf16, .e4m3, .e5m2], ∀ (sat : Bool) (r : Rnd) (x : Nat), x < 2 ^ t.width →
    t.fmt.round sat r (t.fmt.dec x) = if t.fmt.dec x = .nan then t.fmt.nan else x

/-- FSGN, FCLASS, CVT, PACK, UNPK and SCLB (R103, R104, R109, R110, R112, R113). -/
def Rules.ConversionResults : Prop :=
  let cvt (t src : Ty) (f : Fields) (a : W64) : Nat :=
    let r := Rnd.ofCode f.mod.toNat
    let ftz := bitOf f.mod.toNat 2
    let x : Exact := if src.isFloating then src.num ftz a else Exact.ofInt (src.intVal a)
    if t.isFloating then t.result t.isNarrow ftz r x
    else if src.isFloating then wrapN t.width (x.toIntTy t r) else wrapN t.width (src.intVal a)
  let one (_ : Fields) : Bool := false
  ∀ e ∈ [ValRow.same 0x56 .fsgn fun f a b _ _ =>
      bitSum f.ty.width fun k => if k + 1 = f.ty.width then bitOf b.toNat k else bitOf a.toNat k,
    ⟨0x57, .fclass, fun f => f.ty.is64, one, fun _ => .n32, false, false, false, fun f a _ _ _ => fclass f.ty.fmt (lowBits f a)⟩,
    ⟨0x68, .cvt, fun f => (Ty.ofCode f.x.toNat).is64, one, fun f => f.ty, false, false, false, fun f a _ _ _ =>
      cvt f.ty (Ty.ofCode f.x.toNat) f a⟩,
    ⟨0x6A, .unpk, one, one, fun _ => .f32, false, false, false, fun f a _ _ _ =>
      let x := a.toNat % 2 ^ 32
      fmtF32.round false .rne
        (if f.ty == .nx4 then decNx4 (x / 2 ^ (4 * f.x.toNat) % 16) (if x / 2 ^ 8 % 256 == 0xFF then 0xFF else 127)
            (x / 2 ^ 16 % 256)
          else f.ty.fmt.dec (x / 2 ^ (f.ty.width * f.x.toNat) % 2 ^ f.ty.width))⟩,
    ⟨0x6B, .sclb, fun f => f.ty.is64, one, fun f => f.ty, true, false, false, fun f a b _ _ =>
      let ftz := bitOf f.mod.toNat 2
      f.ty.result false ftz (Rnd.ofCode f.mod.toNat) (match f.ty.num ftz a with
        | .fin neg m e => .fin neg m (e + (b.setWidth 32).toInt)
        | v => v)⟩], e.Rule

/-- PACK (R110, R111): two narrow values side by side, for e4m3 and e5m2 in half X of D; for nx4 the codes of the lane's two
elements of its block of 16 lanes, the scale byte, and special byte 0. -/
def Rules.PackResults : Prop :=
  ∀ f s i, issueOf 0x69 f s = some i →
    let cvt (a : W64) : Nat := cvtItem f.ty .f32 f.mod.toNat a
    let a (l : Nat) : W64 := i.lane 0 l false f.a
    let b (l : Nat) : W64 := i.lane 1 l false f.b
    let d (l : Nat) : Nat := (i.lane 3 l false f.d).toNat % 2 ^ 32
    (destScal f.d = none → i.c.kind = .strand → f.ty.width = 16 → ∃ fm, exec (.pack f) s = i.ends 0x69 f
      (i.setLanes f.d false (fun l => BitVec.ofNat 64 ((cvt (a l) + cvt (b l) * 2 ^ 16) % 2 ^ 32)) fm)) ∧
    (destScal f.d = none → i.c.kind = .strand → f.ty.width = 8 → ∃ fm, exec (.pack f) s = i.ends 0x69 f
      (i.setLanes f.d false (fun l => BitVec.ofNat 64 ((if f.x = 0 then d l / 2 ^ 16 * 2 ^ 16 + cvt (a l) + cvt (b l) * 2 ^ 8
        else d l % 2 ^ 16 + cvt (a l) * 2 ^ 16 + cvt (b l) * 2 ^ 24) % 2 ^ 32)) fm)) ∧
    (i.c.kind = .strand → f.ty = .nx4 →
      let elem (g e : Nat) : Exact :=
        let l := 16 * g + e / 2
        if i.lanes.contains l then Ty.num .f32 (bitOf f.mod.toNat 2) (if e % 2 = 0 then a l else b l) else .fin false 0 0
      let block (g : Nat) := encNx4 ((List.range 32).map (elem g))
      let code (l k : Nat) : Nat := ((block (l / 16)).2.1[2 * (l % 16) + k]?).getD 0
      ∃ fm, exec (.pack f) s = i.ends 0x69 f (i.setLanes f.d false (fun l =>
        BitVec.ofNat 64 (code l 0 + code l 1 * 2 ^ 4 + (block (l / 16)).1 * 2 ^ 8)) fm)) ∧
    Completes (exec (.pack f) s)

/-- The floating instructions, the conversions and PACK. Where the manual is open, by the choices of log entry 10. -/
def Obligations.FloatAndConversion : Prop :=
  Rules.FloatResults ∧ Rules.ConversionResults ∧ Rules.PackResults

/-! ## Across lanes (07) -/

/-- SHFL, VOTE, RDX, SCAN and ELECT (R168 to R171): every present lane of a strand reads before any writes; a compact
span materialises first, but for ELECT. Where the manual is open, by the choices of log entry 13. -/
def Obligations.CrossLaneResults : Prop :=
  (∀ f s i, issueOf 0x70 f s = some i →
    (i.c.kind = .strand → ∃ fm, exec (.shfl f) s = i.ends 0x70 f (i.setLanes f.d f.ty.is64 (fun l =>
      let b : Nat := (i.lane 1 l false f.b).toNat % 2 ^ 32
      let x : Nat := if f.var = 0 then b % i.l.w else if f.var = 2 then l + b else l ^^^ (b % 64)
      let j : Int := if f.var = 1 then (l : Int) - (b : Int) else (x : Int)
      if 0 ≤ j ∧ j < i.l.w ∧ j.toNat ∈ i.lanes then i.lane 0 j.toNat f.ty.is64 f.a else i.lane 0 l f.ty.is64 f.a) fm)) ∧
    (∀ lo hi, i.c.kind = .span lo hi → exec (.shfl f) s = i.materialises 0x70 f)) ∧
  (∀ e ∈ [((0x71 : Nat), Instr.vote), (0x72, .rdx), (0x73, .scan)], ∀ f s i lo hi, issueOf e.1 f s = some i →
    i.c.kind = .span lo hi → exec (e.2 f) s = i.materialises e.1 f) ∧
  (∀ f s i, issueOf 0x71 f s = some i → i.c.kind = .strand →
    let p := predNum f.a
    let set (b : Bool) : Host.Outcome State Fault Refusal :=
      i.ends 0x71 f (i.setLanePreds (predNum f.d) (fun _ => b) (.u b))
    (f.var = 0 → exec (.vote f) s = set (i.lanes.all fun l => i.c.lanePred l p)) ∧
    (f.var = 1 → exec (.vote f) s = set (i.lanes.any fun l => i.c.lanePred l p)) ∧
    (f.var = 2 → destScal f.d = none →
      let m := BitVec.ofNat 64 (maskOf (i.lanes.filter fun l => i.c.lanePred l p))
      exec (.vote f) s = i.ends 0x71 f (i.setLanes f.d true (fun _ => m) (.u m))) ∧
    (∀ r, f.var = 2 → destScal f.d = some r → exec (.vote f) s = i.ends 0x71 f (i.onCtx fun c => c.writeScal r
      (BitVec.ofNat 64 (maskOf (i.lanes.filter fun l => i.c.lanePred l p))))) ∧
    (2 < f.var.toNat → exec (.vote f) s = set (i.lanes.all fun l => i.lanes.all fun k =>
      lowBits f (i.lane 0 l f.ty.is64 f.a) == lowBits f (i.lane 0 k f.ty.is64 f.a)))) ∧
  (∀ f s i, issueOf 0x72 f s = some i → i.c.kind = .strand →
    let v := (i.redTree f f.var.toNat fun _ => true).toNat
    (destScal f.d = none → exec (.rdx f) s = i.ends 0x72 f
      (i.setLanes f.d f.ty.is64 (fun _ => regBits f.ty v) (.u (regBits f.ty v)))) ∧
    (∀ r, destScal f.d = some r → exec (.rdx f) s = i.ends 0x72 f (i.onCtx fun c => c.writeScal r (scalBits f.ty v)))) ∧
  (∀ f s i, issueOf 0x73 f s = some i → i.c.kind = .strand →
    ∃ fm, exec (.scan f) s = i.ends 0x73 f (i.setLanes f.d f.ty.is64 (fun l =>
      regBits f.ty (i.redTree f (f.var.toNat % 8) fun k => if 8 ≤ f.var.toNat then k < l else k ≤ l).toNat) fm)) ∧
  (∀ f s i, issueOf 0x74 f s = some i →
    let slot := (i.pc.toNat, if f.x == 1 then 1024 else i.c.core)
    let first := slot ∉ i.r.elects
    (∀ w ∈ i.lanes, first → i.c.kind = .strand → (∀ k ∈ i.lanes, k = w ∨ i.itemOf w < i.itemOf k) →
      exec (.elect f) s = i.ends 0x74 f
        ((i.s.modRange i.c.range fun r => { r with elects := slot :: r.elects }).modCtx i.c.id fun c =>
          c.writeLanePreds (predNum f.d) (i.lanes.map fun l => (l, l == w)))) ∧
    (¬ first → i.c.kind = .strand → exec (.elect f) s = i.ends 0x74 f (i.onCtx fun c =>
      c.writeLanePreds (predNum f.d) (i.lanes.map (·, false)))) ∧
    (∀ lo hi, first → i.c.kind = .span lo hi → exec (.elect f) s = i.ends 0x74 f
      ((i.s.modRange i.c.range fun r => { r with elects := slot :: r.elects }).modCtx i.c.id fun c =>
        c.writePForm (predNum f.d) (PForm.within (.i lo (lo + 1)) lo hi))) ∧
    (∀ lo hi, ¬ first → i.c.kind = .span lo hi → exec (.elect f) s = i.ends 0x74 f (i.onCtx fun c =>
      c.writePForm (predNum f.d) (.u false))))

/-- Integer reductions give the same result in any order (R62): the tree is the operation over the present lanes, from the
identity up. -/
def Obligations.ReductionOrder : Prop :=
  ∀ (i : Iss) (f : Fields) (op : Nat) (keep : Nat → Bool), op < 6 → f.ty.isFloating = false →
    lowBits f (i.redTree f op keep) = lowBits f (((List.range i.l.w).filter fun l => i.lanes.contains l && keep l).foldl
      (fun x l => redFn op f.ty f.mod.toNat x (i.lane 0 l f.ty.is64 f.a)) (redIdentity op f.ty))

/-! ## Memory (07, 08) -/

/-- What a load leaves in a strand (R39, R73): with SE = 0 each active lane has its value in D, or the scalar D has the one value;
with SE = 1 no register changes, and the values wait under the token. -/
def Rules.LoadDelivers (i : Iss) (f : Fields) (t : State) (val : Nat → W64) : Prop :=
  (i.h.se = false → (∀ r, f.d = .v r → i.laneGets t f r.toNat val) ∧
    ∀ r l c x, f.d = .s r → i.lanes.head? = some l → t.ctx i.c.id = some c → c.scal[r.toNat]? = some x → x = val l) ∧
  (i.h.se = true → (∀ l k, t.laneReg i.c.id l k = i.s.laneReg i.c.id l k) ∧
    ∀ r c, f.d = .v r → (∀ d ∈ i.c.landed, d.2 ≤ i.s.nextId) → t.ctx i.c.id = some c → ∀ l ∈ i.lanes, ∀ k ∈ halvesOf f,
      ∃ x ∈ c.landing, x.dst = .reg (r.toNat + k) (some l) ∧ x.tok = i.h.setk.toNat ∧ x.val.setWidth 32 = regHalf (val l) k)

/-- A weak LD of a strand from .g (R173): the bytes that its cluster's L1, or the home slice, holds, extended to the type. -/
def Rules.LoadGlobal : Prop :=
  ∀ f s i pa, issueOf 0x80 f s = some i → i.ready f f.ty.bytes 1 wantRead pa → f.ldOrder = 0 →
    ∃ t, exec (.ld f) s = i.ends 0x80 f t ∧ (∀ p, t.sliceRead p = i.s.sliceRead p) ∧
      (∀ p, t.l1Read i.clu p = i.s.l1Read i.clu p) ∧
      Rules.LoadDelivers i f t fun l => ldValue f (i.s.placeBytes i (.g (pa l) false) f.ty.bytes)

/-- A weak LD of a strand from .x, .xc or .w (R172, R173). -/
def Rules.LoadNear : Prop :=
  ∀ f s i loc, issueOf 0x80 f s = some i → i.readyNear f f.ty.bytes wantRead loc → f.ldOrder = 0 →
    ∃ t, exec (.ld f) s = i.ends 0x80 f t ∧ t.mem = i.s.mem ∧
      Rules.LoadDelivers i f t fun l => ldValue f (i.s.placeBytes i (loc l) f.ty.bytes)

/-- A weak LD of a span or a control program (R173): with a U address one access, whose result is U; a span with another address, or
whose D is half of an affine pair, materialises. -/
def Rules.LoadOne : Prop :=
  ∀ f s i, issueOf 0x80 f s = some i →
    (∀ loc, i.readyOne f f.ty.bytes 1 wantRead loc → f.ldOrder = 0 → i.splits f.d f.ty.is64 = false →
      let v := ldValue f (i.s.placeBytes i loc f.ty.bytes)
      ∃ t, exec (.ld f) s = i.ends 0x80 f t ∧ (∀ p, t.sliceRead p = i.s.sliceRead p) ∧
        (i.h.se = false → ∀ c, t.ctx i.c.id = some c →
          (∀ r x, f.d = .s r → c.scal[r.toNat]? = some x → x = v) ∧
          ∀ r, f.d = .v r → ∀ k ∈ halvesOf f, ∀ y, c.regs[r.toNat + k]? = some y → y = .u (regHalf v k))) ∧
    (∀ lo hi, i.c.kind = .span lo hi → (i.splits f.d f.ty.is64 = true ∨ i.accs f f.ty.bytes true = none) →
      exec (.ld f) s = i.materialises 0x80 f)

/-- A weak LD (R172, R173), from every space, by a strand, a span and a control program. Where the manual is open, by the choices of
log entries 7, 24, 110. -/
def Obligations.LoadValue : Prop :=
  Rules.LoadGlobal ∧ Rules.LoadNear ∧ Rules.LoadOne

/-- A weak ST of a strand to .g (R174): the bytes of each active lane read as its source at the width of the type, those of
several lanes as the highest item's; every other byte reads as before. -/
def Rules.StoreGlobal : Prop :=
  ∀ f s i pa, issueOf 0x81 f s = some i → i.ready f f.ty.bytes 1 wantWrite pa → f.order = 0 →
    let n := f.ty.bytes
    ∃ t, exec (.st f) s = i.ends 0x81 f t ∧
      (∀ l ∈ i.lanes, ∀ k < n,
        (∀ j ∈ i.lanes, j ≠ l → i.itemOf l ≤ i.itemOf j → ∀ m < n, pa j + m ≠ pa l + k) →
        t.l1Read i.clu (pa l + k) = BitVec.ofNat 8 ((i.storeVal f n l).toNat / 2 ^ (8 * k))) ∧
      ∀ p, (∀ l ∈ i.lanes, ∀ k < n, p ≠ pa l + k) → t.l1Read i.clu p = i.s.l1Read i.clu p

/-- A weak ST of a strand to .x, .xc or .w (R172, R174): as to .g, each byte is the highest item's; every byte that no lane stores
to reads as before, in memory too. -/
def Rules.StoreNear : Prop :=
  ∀ f s i loc, issueOf 0x81 f s = some i → i.readyNear f f.ty.bytes wantWrite loc → f.order = 0 →
    ((∃ l ∈ i.lanes, ∃ off, loc l = .window off) → i.windowWhole) →
    let n := f.ty.bytes
    ∃ t, exec (.st f) s = i.ends 0x81 f t ∧ t.mem = i.s.mem ∧
      (∀ l ∈ i.lanes, ∀ k < n,
        (∀ j ∈ i.lanes, j ≠ l → i.itemOf l ≤ i.itemOf j → ∀ m < n, (loc j).byteKey m ≠ (loc l).byteKey k) →
        t.placeByte i (loc l) k = BitVec.ofNat 8 ((i.storeVal f n l).toNat / 2 ^ (8 * k))) ∧
      ∀ q, (∀ off, q = .window off → i.windowWhole) →
        (∀ l ∈ i.lanes, ∀ k < n, (loc l).byteKey k ≠ q.byteKey 0) → t.placeByte i q 0 = i.s.placeByte i q 0

/-- A weak ST of a control program, or of a span whose address and source are U (R173, R174): one access. -/
def Rules.StoreOne : Prop :=
  ∀ f s i loc v, issueOf 0x81 f s = some i → i.readyOne f f.ty.bytes 1 wantWrite loc → f.order = 0 →
    (i.c.kind = .control ∧ v = i.uni 3 f.d ∨ i.c.kind ≠ .control ∧ i.form 3 f.ty.is64 f.d = .u v) →
    ∃ t, exec (.st f) s = i.ends 0x81 f t ∧
      (∀ k < f.ty.bytes, t.placeByte i loc k = BitVec.ofNat 8 (v.toNat / 2 ^ (8 * k))) ∧
      ∀ q, (∀ off, q ≠ .window off) → (∀ k < f.ty.bytes, loc.byteKey k ≠ q.byteKey 0) →
        t.placeByte i q 0 = i.s.placeByte i q 0

/-- A weak ST of a span to .g whose address or source is in A form (R174): each item stores its value at its address, the highest
item's byte stays, and every other byte reads as before; one in M form materialises. -/
def Rules.StoreSpan : Prop :=
  ∀ f s i lo hi, issueOf 0x81 f s = some i → i.c.kind = .span lo hi →
    let n := f.ty.bytes
    (∀ a u (pa : Nat → Nat), f.space = 0 → f.order = 0 → lo < hi → i.s.mem.deltas = [] → i.sameStore f n = false →
      i.spanAddr f n lo hi = some (a, u) → i.form 3 f.ty.is64 f.d ≠ .m →
      (∀ x, lo ≤ x → x < hi → i.l.guardLine (a x) = none ∧ i.reaches n 1 wantWrite (pa x) ∧
        ∃ st, i.s.locate i.c 0 (a x) n true wantWrite = .ok (.g (pa x) st)) →
      ∃ t, exec (.st f) s = i.ends 0x81 f t ∧
        (∀ x, lo ≤ x → x < hi → ∀ k < n, (∀ y, x < y → y < hi → ∀ m < n, pa y + m ≠ pa x + k) →
          t.l1Read i.clu (pa x + k) = BitVec.ofNat 8 (((i.form 3 f.ty.is64 f.d).at x).toNat / 2 ^ (8 * k))) ∧
        ∀ p, (∀ x, lo ≤ x → x < hi → ∀ k < n, p ≠ pa x + k) → t.l1Read i.clu p = i.s.l1Read i.clu p) ∧
    ((f.space = 3 ∨ i.spanAddr f n lo hi = none ∨ i.form 3 f.ty.is64 f.d = .m) → exec (.st f) s = i.materialises 0x81 f)

/-- A weak ST (R174), to every space, by a strand, a span and a control program. Where the manual is open, by the choices of log
entry 7. -/
def Obligations.StoreValue : Prop :=
  Rules.StoreGlobal ∧ Rules.StoreNear ∧ Rules.StoreOne ∧ Rules.StoreSpan

/-- Where an access lands (R69, R118, R172): the private block, the scratch areas, the window; otherwise a fault of kind 6
ALIGN or 7 BOUNDS. -/
def Rules.LocateSpaces : Prop :=
  ∀ (s : State) (c : Ctx) (r : Range) (l : Launch) (va : W64) (n : Nat) (w : Want),
    s.range c.range = some r → s.launch r.launchId = some l → 0 < n → va.toNat % n = 0 →
    let a := va.toNat
    (0x100000 ≤ a → a + n ≤ 0x100000 + l.privOf c → s.locate c 1 va n true w = .ok (.priv (a - 0x100000))) ∧
    (0x100000 + l.privOf c < a + n → l.s < a + n → l.cmd.cscratch < a + n →
      s.locate c 1 va n true w = .error (.kind 7)) ∧
    (a + n ≤ l.s → a < 0x100000 → c.kind ≠ .control → s.locate c 1 va n true w = .ok (.scratch c.core a)) ∧
    (a + n ≤ l.cmd.cscratch → a < 0x100000 → c.kind = .control → s.locate c 1 va n true w = .ok (.control a)) ∧
    (l.s < a + n → a < 0x100000 → c.kind ≠ .control → s.locate c 1 va n true w = .error (.kind 7)) ∧
    (a / 2 ^ 20 < r.m → a < 2 ^ 23 → a % 2 ^ 20 + n ≤ l.s →
      s.locate c 2 va n true w = .ok (.scratch (a / 2 ^ 20) (a % 2 ^ 20))) ∧
    (r.m ≤ a / 2 ^ 20 ∨ 2 ^ 23 ≤ a ∨ l.s < a % 2 ^ 20 + n → s.locate c 2 va n true w = .error (.kind 7)) ∧
    (a + n ≤ 4 * l.v * l.w → s.locate c 3 va n true w = .ok (.window a)) ∧
    (4 * l.v * l.w < a + n → s.locate c 3 va n true w = .error (.kind 7))

/-- A misaligned access faults with kind 6 ALIGN, a non-canonical .g address with kind 1 (R172, R373). -/
def Rules.AlignmentFaults : Prop :=
  ∀ (s : State) (c : Ctx) (r : Range) (l : Launch) (va : W64) (n : Nat) (w : Want),
    s.range c.range = some r → s.launch r.launchId = some l → va.toNat % n ≠ 0 →
    (canonical va = true → s.locate c 0 va n true w = .error (.kind 6)) ∧
    (canonical va = false → s.locate c 0 va n true w = .error (.kind 1)) ∧
    (va.toNat + n ≤ 4 * l.v * l.w → s.locate c 3 va n true w = .error (.kind 6)) ∧
    (va.toNat < 0x100000 → va.toNat + n ≤ l.s → c.kind ≠ .control → s.locate c 1 va n true w = .error (.kind 6))

/-- Where an access lands, and the faults of kind 1, 6 and 7. Where the manual is open, by the choices of log entry
30. -/
def Obligations.SpacesAndAlignment : Prop :=
  Rules.LocateSpaces ∧ Rules.AlignmentFaults

/-- CRNG (R176) on bytes of this package's store, at every scope: .wb and .wbi write the dirty bytes of the L1s within the scope
to their home slices and .inv writes none; then .inv and .wbi drop the copies. Bytes outside the range, and L1s outside the
scope, are left alone. -/
def Rules.CacheRange : Prop :=
  ∀ f s i, issueOf 0x83 f s = some i →
    let n := (i.uni 1 f.b).toNat
    let va := i.uni 0 f.a
    let ps := i.s.pieces i.clu i.l va (n / 2 ^ 16 + 2) n
    let hit (p : Nat) : Prop := ∃ q ∈ ps, q.1 ≤ p ∧ p < q.1 + q.2
    let near := scopeClusters f.scope i.clu
    (n ≠ 0 → canonical va = true → va.toNat / 2 ^ 55 = (va.toNat + n - 1) / 2 ^ 55 → i.acked = false →
      i.s.mem.deltas = [] → (∀ p, hit p → i.s.lowCached p = false) → (i.s.crngPieces f.var.toNat f.scope i.clu ps).2 = [] →
      ∃ t, exec (.crng f) s = i.ends 0x83 f t ∧ ∀ p < 2 ^ 56,
        (¬ hit p → t.sliceRead p = i.s.sliceRead p ∧ ∀ c, kget t.mem.l1 (l1Key c p) = kget i.s.mem.l1 (l1Key c p)) ∧
        (hit p →
          (∀ c, c ∉ near → kget t.mem.l1 (l1Key c p) = kget i.s.mem.l1 (l1Key c p)) ∧
          (∀ c ∈ near, kget t.mem.l1 (l1Key c p) =
            if f.var = 1 then (kget i.s.mem.l1 (l1Key c p)).map fun x => ⟨x.val, false⟩ else none) ∧
          ((f.var = 0 ∨ ∀ c ∈ near, (kget i.s.mem.l1 (l1Key c p)).all (!·.dirty) = true) →
            t.sliceRead p = i.s.sliceRead p) ∧
          (∀ c ∈ near, ∀ b, f.var ≠ 0 → kget i.s.mem.l1 (l1Key c p) = some ⟨b, true⟩ →
            (∀ d ∈ near, d ≠ c → (kget i.s.mem.l1 (l1Key d p)).all (!·.dirty) = true) → t.sliceRead p = b))) ∧
    (n ≠ 0 → canonical va = true → va.toNat / 2 ^ 55 = (va.toNat + n - 1) / 2 ^ 55 → i.acked = false →
      let r := i.s.crngPieces f.var.toNat f.scope i.clu ps
      let t := r.1.awaitAcks i.c.id r.2
      r.2 ≠ [] → exec (.crng f) s = i.waits 0x83 (i.cycles 0x83 f) t
        (.acks ((t.unacked i.c.id).filter fun id => r.1.nextId ≤ id))) ∧
    (n = 0 ∨ (i.acked = true ∧ n ≠ 0) → exec (.crng f) s = i.ends 0x83 f i.s)

/-- PREF, CRNG and FENCE (R175 to R177). A prefetch changes no value; CRNG acts on the range, awaits the acknowledgements of what it
wrote to other nodes and devices, and with n = 0 has no effect; a fence narrower than the fabric reports 0 OK after its
release and acquire, and a fabric fence waits for its wait set, or with nothing to wait for reports a discarded store.
Where the manual is open, by the choices of log
entries 7, 18. -/
def Obligations.CacheInstructions : Prop :=
  Rules.CacheRange ∧
  (∀ f s i, issueOf 0x82 f s = some i → i.s.mem.deltas = [] → i.s.fabric.failed = [] →
    i.s.l2Room (i.lanes.length + i.c.items.length) →
    ∃ t, exec (.pref f) s = i.ends 0x82 f t ∧ (∀ p, t.sliceRead p = i.s.sliceRead p) ∧
      ∀ p, t.l1Read i.clu p = i.s.l1Read i.clu p) ∧
  (∀ f s i, issueOf 0x84 f s = some i →
    let s0 := if isRel f.order then i.s.release i.clu i.c.id f.scope else i.s
    let core := i.s.coreNumber i.c
    let s1 := if f.order = 5 then s0.stamp core 5 (fenceKey f.scope i.clu core) true true else s0
    let after (s : State) : State := if isAcq f.order then s.acquire i.clu f.scope else s
    (f.scope < 4 → exec (.fence f) s = i.ends 0x84 f ((after s1).results i f.d true true [(0, 0)])) ∧
    (f.scope = 4 → (s1.waitSet i.c.id).1 = [] →
      exec (.fence f) s = i.ends 0x84 f ((after (s1.dropLost i.c.id)).results i f.d true true
        [(0, if (s1.waitSet i.c.id).2 then 1 else 0)])) ∧
    (f.scope = 4 → (s1.waitSet i.c.id).1 ≠ [] →
      let s2 := s1.dropLost i.c.id
      let op := s2.startOp i (.fence (s1.waitSet i.c.id).1 (s1.waitSet i.c.id).2 (isAcq f.order) (destScal f.d))
      exec (.fence f) s = i.ends 0x84 f (op.2.holdOn i op.1)) ∧
    Completes (exec (.fence f) s))

/-- ATOM, CAS and RED operations (R43, R263): the new value of a location, modulo 2^w; min and max read it signed for s
types. -/
def Rules.AtomicValues : Prop :=
  ∀ (t : Ty) (old x : W64), t.isFloating = false →
    let m := 2 ^ t.width
    rmwVal 0 t old x = (old + x).toNat % m ∧
    rmwVal 1 t old x = (if t.intVal old ≤ t.intVal x then old else x).toNat % m ∧
    rmwVal 2 t old x = (if t.intVal old ≤ t.intVal x then x else old).toNat % m ∧
    rmwVal 3 t old x = (old &&& x).toNat % m ∧ rmwVal 4 t old x = (old ||| x).toNat % m ∧
    rmwVal 5 t old x = (old ^^^ x).toNat % m ∧ rmwVal 6 t old x = x.toNat % m

/-- A read-modify-write at the home of a global location (R261): it returns the bytes as the issuing cluster had them, stores
the new value there, or nothing, and leaves every other home byte as it was. -/
def Rules.ReadModifyWrite : Prop :=
  ∀ (s : State) (i : Iss) (h : How) (va : W64) (pa : Nat) (g : Nat → Option Nat),
    s.mem.deltas = [] → i.l.guardLine va = none → h.order ≠ 0 → h.scope < 4 → s.l2Room h.n →
    (∀ k < h.n, s.openAt 0 (.g (pa + k) false) = false) →
    let old := s.seenVal i.clu pa h.n
    let r := s.rmwLoc i h va (.g pa false) g
    r.2 = old ∧
    (∀ k < h.n, r.1.sliceRead (pa + k) =
      match g old with
      | some v => BitVec.ofNat 8 (v / 2 ^ (8 * k))
      | none => s.seenBy i.clu (pa + k)) ∧
    ∀ p, (p < pa ∨ pa + h.n ≤ p) → r.1.sliceRead p = s.sliceRead p

/-- Values and bytes of a read-modify-write. Where the manual is open, by the choices of log entry 7. -/
def Obligations.HomeUpdates : Prop :=
  Rules.AtomicValues ∧ Rules.ReadModifyWrite

/-- ATOM and CAS (R263, R264) on distinct locations, relaxed at a scope below the fabric: the bytes of each active lane hold
the new value, the lane receives the old one, and every other home byte is as it was. Every order completes; a release at
fabric scope must
be acknowledged first (R331). -/
def Rules.AtomicResults : Prop :=
  let new (cas : Bool) (i : Iss) (f : Fields) (l old : Nat) : Option Nat :=
    if cas then
      if old = lowBits f (i.lane 3 l f.ty.is64 f.d) then some (lowBits f (i.lane 3 l f.ty.is64 (swapOpnd f))) else none
    else some (rmwVal (f.var.toNat % 8) f.ty (BitVec.ofNat 64 old) (i.lane 3 l f.ty.is64 f.d))
  ∀ p ∈ [((0x90 : Nat), Instr.atom, false), (0x91, .cas, true)], ∀ f s i pa, issueOf p.1 f s = some i →
    i.ready f f.ty.bytes (max 2 f.scope) wantRmw pa → (isRel f.order = false ∨ f.scope < 4 ∨ i.acked = true) →
    let n := f.ty.bytes
    ∃ t, exec (p.2.1 f) s = i.ends p.1 f t ∧
      (f.order = 1 → f.scope < 4 → f.d.isS = false → i.lanes.Nodup →
        (∀ l ∈ i.lanes, ∀ j ∈ i.lanes, j ≠ l → pa j + n ≤ pa l ∨ pa l + n ≤ pa j) →
        (∀ l ∈ i.lanes, ∀ k < n, t.sliceRead (pa l + k) =
          match new p.2.2 i f l (i.s.seenVal i.clu (pa l) n) with
          | some v => BitVec.ofNat 8 (v / 2 ^ (8 * k))
          | none => i.s.seenBy i.clu (pa l + k)) ∧
        (∀ q, (∀ l ∈ i.lanes, q < pa l ∨ pa l + n ≤ q) → t.sliceRead q = i.s.sliceRead q) ∧
        (∀ r, f.d = .v r → f.var.toNat < (if p.2.2 then 1 else 8) → i.h.se = false →
          i.laneGets t f r.toNat fun l => regBits f.ty (i.s.seenVal i.clu (pa l) n)))

/-- RED other than .ord (R244, R265), relaxed at a scope below the fabric on distinct locations: once the deltas that it may leave
at the cluster are collected, the bytes of each active lane hold the combined value, and every other home byte is as it was. It
changes no register. -/
def Rules.ReductionEffect : Prop :=
  ∀ f s i pa, issueOf 0x92 f s = some i → i.ready f f.ty.bytes 2 wantRmw pa → f.var.toNat < 8 → f.order = 1 → f.scope < 4 →
    f.d.isS = false → i.lanes.Nodup →
    let n := f.ty.bytes
    (∀ l ∈ i.lanes, ∀ j ∈ i.lanes, j ≠ l → pa j + n ≤ pa l ∨ pa l + n ≤ pa j) →
    ∃ t, exec (.red f) s = i.ends 0x92 f t ∧ (∀ l r, t.laneReg i.c.id l r = i.s.laneReg i.c.id l r) ∧
      (∀ l ∈ i.lanes, ∀ k < n, (t.collect fun _ => true).sliceRead (pa l + k) = BitVec.ofNat 8
        (rmwVal f.var.toNat f.ty (BitVec.ofNat 64 (i.s.seenVal i.clu (pa l) n)) (i.lane 3 l f.ty.is64 f.d) / 2 ^ (8 * k))) ∧
      ∀ q, (∀ l ∈ i.lanes, q < pa l ∨ pa l + n ≤ q) → (t.collect fun _ => true).sliceRead q = i.s.sliceRead q

/-- RED (R265, R266): it completes without a result; under .ord the active lane's value joins the leaf of its item, once
more rounded, at a location that its launch holds, and the bytes of this package read as before. -/
def Rules.ReductionOrdered : Prop :=
  ∀ f s i pa, issueOf 0x92 f s = some i → i.ready f f.ty.bytes (if f.var = 8 then 4 else max 2 f.scope) wantRmw pa →
    (f.var ≠ 8 → (isRel f.order = false ∨ f.scope < 4 ∨ i.acked = true) → ∃ t, exec (.red f) s = i.ends 0x92 f t) ∧
    (∀ l r, f.var = 8 → f.d.isS = false → i.lanes = [l] → i.s.launch i.l.id = some i.l → r ∈ i.l.reds →
      (∀ q ∈ i.l.reds, q.pa = pa l ↔ q = r) → r.ty = f.ty →
      ∃ t, exec (.red f) s = i.ends 0x92 f t ∧
        (∀ p, i.s.remote p = false → t.seenBy i.clu p = i.s.seenBy i.clu p) ∧
        ∀ l', t.launch i.l.id = some l' → l'.reds = i.l.reds.map fun q =>
          if q = r then { q with leaves := addLeaf f.ty (i.itemOf l) (i.lane 3 l f.ty.is64 f.d) q.leaves } else q)

/-- ATOM, CAS and RED. Where the manual is open, by the choices of log entry 16. -/
def Obligations.AtomicInstructions : Prop :=
  Rules.AtomicResults ∧ Rules.ReductionEffect ∧ Rules.ReductionOrdered

/-- Lock requests and releases on a word without parked waiters (R245, R268): a grant changes the word and the context
goes on; a request that may not be granted parks, a writer counted; a release of a lock that is not held answers 1.
Where the manual is open, by the choices of log entry 33. -/
def Obligations.LockGrants : Prop :=
  let reach (i : Iss) (f : Fields) (pa : Nat) (w : LockWord) : Prop := i.s.mem.lockq = [] ∧ i.lockWord f pa w
  let parked (t : State) (i : Iss) (write : Bool) : Prop :=
    ∃ x, t.mem.lockq = [x] ∧ x.write = write ∧ x.ctx = i.c.id ∧ x.peer = none ∧
      ∀ c, t.ctx i.c.id = some c → c.wait = .lock x.id
  (∀ f s i pa w, issueOf 0x93 f s = some i → reach i f pa w → ∃ t, exec (.lkrd f) s = i.ends 0x93 f t ∧
    (w.readOk = true → t.lockHolds pa { w with readers := w.readers + 1 } ∧ t.mem.lockq = []) ∧
    (w.readOk = false → t.lockHolds pa w ∧ parked t i false)) ∧
  (∀ f s i pa w, issueOf 0x94 f s = some i → reach i f pa w → ∃ t, exec (.lkwr f) s = i.ends 0x94 f t ∧
    (w.holds = false ∧ w.readers = 0 → t.lockHolds pa { w with holds := true } ∧ t.mem.lockq = []) ∧
    (w.holds = true ∨ w.readers ≠ 0 → t.lockHolds pa { w with wwait := min (w.wwait + 1) 16383 } ∧ parked t i true)) ∧
  (∀ f s i pa w, issueOf 0x95 f s = some i → reach i f pa w → ∃ t, exec (.ulrd f) s = i.ends 0x95 f t ∧
    t.lockHolds pa (if w.readers = 0 then w else { w with readers := w.readers - 1 }) ∧
    t.statusIs i.c.id f.d (if w.readers = 0 then 1 else 0)) ∧
  (∀ f s i pa w, issueOf 0x96 f s = some i → reach i f pa w → ∃ t, exec (.ulwr f) s = i.ends 0x96 f t ∧
    t.lockHolds pa (if w.holds then { w with holds := false } else w) ∧ t.statusIs i.c.id f.d (if w.holds then 0 else 1))

/-- The lock instructions complete (R245, R268). LKRD and LKWR of a lock that is free to them, with nobody parked on the
word: the word counts one holder more, and the context goes on. ULRD and ULWR after their release: the word has one holder
less and the status is 0, or, held by nobody, is unchanged and the status is 1. -/
def Obligations.LocksComplete : Prop :=
  (∀ p ∈ [((0x93 : Nat), Instr.lkrd, false), (0x94, .lkwr, true)], ∀ f s i pa w, issueOf p.1 f s = some i →
    i.lockWord f pa w → (∀ x ∈ i.s.mem.lockq, x.pa ≠ pa) → w.free p.2.2 = true →
    ∃ t, exec (p.2.1 f) s = .next t ∧ t.lockHolds pa (w.hold p.2.2) ∧ t.mem.lockq = i.s.mem.lockq ∧
      ∀ c, t.ctx i.c.id = some c → c.wait = .none) ∧
  (∀ p ∈ [((0x95 : Nat), Instr.ulrd, false), (0x96, .ulwr, true)], ∀ f s i pa w, issueOf p.1 f s = some i →
    i.lockWord f pa w → (∀ x ∈ i.s.mem.lockq, x.pa ≠ pa) →
    ∃ t, exec (p.2.1 f) s = .next t ∧ t.lockHolds pa ((w.drop p.2.2).getD w) ∧
      t.statusIs i.c.id f.d (if w.drop p.2.2 = none then 1 else 0))

/-! ## Arrival objects (08, 09) -/

/-- arrive (R187): COUNT grows by the amount, and at EXPECT the phase flips and COUNT starts again from what is over. -/
def Obligations.ArriveEvent : Prop :=
  ∀ (expect count phase hi add : Nat), expect < 2 ^ 32 → count < 2 ^ 32 → phase < 2 → count + add < expect + 2 ^ 32 →
    let v := expect + count * 2 ^ 32 + phase * 2 ^ 64 + hi * 2 ^ 65
    arriveVal v add =
      if count + add < expect then expect + (count + add) * 2 ^ 32 + phase * 2 ^ 64 + hi * 2 ^ 65
      else expect + (count + add - expect) * 2 ^ 32 + (1 - phase) * 2 ^ 64 + hi * 2 ^ 65

/-- AINIT, ARV and AWAIT (R215 to R217) on an object that can be reached at once, without a release or a fabric scope:
a new object in its first phase, whose bytes are charged (R366), the arrivals of the active items added, a wait that ends in the named phase, and with it what
the control program's matrix instructions that arrive there leave open (R208). Where
the manual is open, by the choices of log entry 31. -/
def Obligations.ArrivalObjects : Prop :=
  let reach (i : Iss) (f : Fields) (w : Want) (loc : Loc) : Prop :=
    i.s.arrivalLoc i.c (i.uni 0 f.a) w = .ok loc ∧ i.s.readWait i.clu (max 2 f.scope) i.l.id (loc.pas 16) = none ∧
    f.scope < 4
  (∀ f s i loc, issueOf 0xA4 f s = some i → reach i f wantWrite loc → isRel f.order = false →
    exec (.ainit f) s = i.ends 0xA4 f ((i.s.objWrite i.r.id i.c.id i.clu (max 2 f.scope) loc
      ((i.uni 1 f.b).toNat % 2 ^ 32 + f.space % 2 * 2 ^ 65)).chargeHome i 16 loc false)) ∧
  (∀ f s i loc, issueOf 0xA5 f s = some i → reach i f wantRmw loc → isRel f.order = false →
    let n := (i.uni 1 f.b).toNat % 2 ^ 32
    exec (.arv f) s = i.ends 0xA5 f (i.s.objWrite i.r.id i.c.id i.clu (max 2 f.scope) loc
      (arriveVal (i.s.objRead i.r.id i.c.id i.clu (max 2 f.scope) loc)
        (if f.space % 2 = 1 then n * i.activeItems else n)))) ∧
  (∀ f s i loc, issueOf 0xA6 f s = some i → reach i f wantRead loc →
    let phase := i.s.objRead i.r.id i.c.id i.clu (max 2 f.scope) loc / 2 ^ 64 % 2
    let t := i.s.modRange i.r.id fun r =>
      { r with late := r.late.filter fun e => !(i.c.kind == .control && e.arrive == some loc) }
    (phase = (i.uni 1 f.b).toNat % 2 → exec (.await f) s = i.ends 0xA6 f
      (if isAcq f.order then t.acquire i.clu f.scope else t)) ∧
    (phase ≠ (i.uni 1 f.b).toNat % 2 →
      exec (.await f) s = i.waits 0xA6 (i.cycles 0xA6 f) i.s
        (.object loc (max 2 f.scope) (bitOf (i.uni 1 f.b).toNat 0))))

/-! ## The matrix engine (08, 09) -/

/-- MMA, MMAS, MZERO, MLDC and MSTO (R219 to R223): with fewer than 16 instructions queued, valid and paired descriptors, and
operands and an arrival object that pass their checks, the instruction joins the end of its range's queue; with 16 it waits. -/
def Rules.MatrixQueues : Prop :=
  ∀ p ∈ [((0xB0 : Nat), Instr.mma, true, true, false, false), (0xB1, .mmas, true, true, false, false),
      (0xB2, .mzero, false, false, false, false), (0xB3, .mldc, true, false, false, true),
      (0xB4, .msto, true, false, true, true)],
    ∀ f s i r, issueOf p.1 f s = some i → i.s.range i.r.id = some r →
      let want := if p.2.2.2.2.1 then wantWrite else wantRead
      let good (o : Operand) (slot : Nat) (x : Opnd) : Prop :=
        readDesc (i.pair slot x).1 (i.pair slot x).2 p.2.2.2.2.2 = some o ∧ i.s.checkOperand i.c o want = none
      (16 ≤ r.mq.length → exec (p.2.1 f) s = i.waits p.1 (i.cycles p.1 f) i.s (.stall (.engine 16))) ∧
      (∀ a b arr, r.mq.length < 16 → (p.2.2.1 = true → good a 0 f.a) →
        (p.2.2.2.1 = true → good b 1 f.b ∧ a.kt = b.kt ∧ a.fmt.cls = b.fmt.cls) → i.arrivalByte i.s f.x = .ok arr →
        ∃ t, exec (p.2.1 f) s = i.ends p.1 f t ∧ ∀ r', t.range i.r.id = some r' →
          ∃ e, r'.mq = r.mq ++ [e] ∧ e.op = p.1 ∧ e.tile = i.tileOf f.d ∧ e.pc = i.pc ∧ e.started = false ∧ e.done = false ∧
            e.arrive = arr ∧ (p.2.2.1 = true → (e.aBase, e.aDesc) = i.pair 0 f.a) ∧
            (p.2.2.2.1 = true → (e.bBase, e.bDesc) = i.pair 1 f.b))

/-- A descriptor with a reserved value, or a pair of unlike kinds, is ILLEGAL with DETAIL 0x10 (R219). -/
def Rules.MatrixDescriptors : Prop :=
  ∀ f s i r, issueOf 0xB0 f s = some i → i.s.range i.r.id = some r → r.mq.length < 16 →
    readDesc (i.pair 0 f.a).1 (i.pair 0 f.a).2 false = none ∨
      readDesc (i.pair 1 f.b).1 (i.pair 1 f.b).2 false = none ∨
      (∃ a b, readDesc (i.pair 0 f.a).1 (i.pair 0 f.a).2 false = some a ∧
        readDesc (i.pair 1 f.b).1 (i.pair 1 f.b).2 false = some b ∧ (a.kt ≠ b.kt ∨ a.fmt.cls ≠ b.fmt.cls)) →
    exec (.mma f) s = i.traps 0xB0 (i.cycles 0xB0 f) i.s 1 0x10 (maskOf i.lanes)

/-- MFEN and MPRG (R225, R226): a fence that waits for the control program's operations other than matrix instructions; a
tile's PROG in bits 2:0, whether the queue holds an instruction on it in bit 8, and the queue's length from bit 16. -/
def Rules.MatrixProgress : Prop :=
  (∀ f s i, issueOf 0xB5 f s = some i →
    let waits := ∃ o ∈ i.s.ops, i.c.id ∈ o.ctxs ∧ o.holds = true ∧ o.what ≠ .matrix
    (¬ waits → exec (.mfen f) s = i.ends 0xB5 f i.s) ∧
    (waits → exec (.mfen f) s = i.waits 0xB5 (i.cycles 0xB5 f) i.s (.stall .fence))) ∧
  (∀ f s i r, issueOf 0xB6 f s = some i → i.s.range i.r.id = some r → (i.l.cmd.repro = false ∨ r.mq = []) →
    let t := i.tileOf f.a
    exec (.mprg f) s = i.ends 0xB6 f (i.onCtx fun c => c.writeScalD f.d (BitVec.ofNat 64
      ((r.prog[t]?).getD 0 + (if ∃ e ∈ r.mq, e.tile = t then 1 else 0) * 2 ^ 8 + r.mq.length * 2 ^ 16))))

/-- The seven instructions of the matrix engine. Where the manual is open, by the choices of log entry 28. -/
def Obligations.MatrixInstructions : Prop :=
  Rules.MatrixQueues ∧ Rules.MatrixDescriptors ∧ Rules.MatrixProgress

/-! ## Copies (10, 11) -/

/-- CPY, MCST, CHAIN and CHQ (R218, R269 to R271): more than 2^30 bytes, or 1 MiB for a multicast, is RANGE; pages
that translate start one transfer, of a guarded source too (R229); a multicast without targets or bytes only releases, which is the
choice of log entry 94; CHAIN reports BADHEAD, BUSY or EMPTY, or walks the channel; CHQ reads its state.
Where the manual is open, by the choices of log entries 34, 92, 94. -/
def Obligations.CopyInstructions : Prop :=
  (∀ f s i, issueOf 0xA0 f s = some i →
    let n := (i.uni 1 f.b).toNat
    (2 ^ 30 < n → exec (.cpy f) s = i.traps 0xA0 (i.cycles 0xA0 f) i.s 6 4 (maskOf i.lanes)) ∧
    (∀ ps qs arr, n ≤ 2 ^ 30 → i.s.translateRange i.clu false i.l wantRead (i.uni 0 f.a) n = .ok ps →
      i.s.translateRange i.clu false i.l wantWrite (i.uni 3 f.d) n = .ok qs → i.arrivalByte i.s f.x = .ok arr →
      ∃ (t : State) (x : Xfer), exec (.cpy f) s = i.ends 0xA0 f t ∧ t.xfers = i.s.xfers ++ [x] ∧ x.src = ps ∧
        x.dst = qs ∧ x.len = n ∧ x.done = 0 ∧ x.arrive = arr ∧ x.scope = f.scope ∧ x.chan = none)) ∧
  (∀ f s i, issueOf 0xA3 f s = some i →
    let n := (i.uni 1 f.b).toNat % 2 ^ 32
    let off := (i.pair 3 f.d).1.toNat % 2 ^ 32
    let targets := (List.range 8).filter (bitOf f.x.toNat)
    (2 ^ 20 < n ∨ (∃ k ∈ targets, i.r.m ≤ k) →
      exec (.mcst f) s = i.traps 0xA3 (i.cycles 0xA3 f) i.s 6 1 (maskOf i.lanes)) ∧
    (∀ ps loc, n ≤ 2 ^ 20 → (∀ k ∈ targets, k < i.r.m) → targets ≠ [] → n ≠ 0 → off + n ≤ i.l.s →
      i.mcstSource i.s f.space (i.uni 0 f.a) n = .ok (ps, loc) → (i.pair 3 f.d).2 = 0 →
      ∃ (t : State) (x : Xfer), exec (.mcst f) s = i.ends 0xA3 f t ∧ t.xfers = i.s.xfers ++ [x] ∧ x.mcst = true ∧
        x.src = ps ∧ x.srcLoc = loc ∧ x.targets = f.x.toNat ∧ x.dstOff = off ∧ x.len = n) ∧
    (n ≤ 2 ^ 20 → (∀ k ∈ targets, k < i.r.m) → (targets = [] ∨ n = 0) → (i.pair 3 f.d).2 = 0 → f.scope < 4 →
      i.acked = false → exec (.mcst f) s = i.ends 0xA3 f (i.s.release i.clu i.c.id f.scope))) ∧
  (∀ (f : Fields) (s : State) (i : Iss) (r : Range) (cc : CopyChan), issueOf 0xA1 f s = some i →
    i.s.range i.r.id = some r → r.chans[chanNum f.b]? = some cc →
    let h := i.uni 0 f.a
    let status (v : W64) : Host.Outcome State Fault Refusal := i.ends 0xA1 f (i.onCtx fun c => c.writeScalD f.d v)
    (h.toNat % 64 ≠ 0 → exec (.chain f) s = status 3) ∧
    (h.toNat % 64 = 0 → cc.state = .walking → exec (.chain f) s = status 1) ∧
    (h = 0 → cc.state = .idle ∨ cc.state = .error → exec (.chain f) s = status 2) ∧
    (h.toNat % 64 = 0 → cc.state ≠ .walking → (h ≠ 0 ∨ cc.state = .parked) →
      ∃ t, exec (.chain f) s = i.ends 0xA1 f t ∧ ∀ r', t.range i.r.id = some r' → ∀ c', r'.chans[chanNum f.b]? = some c' →
        c'.state = .walking ∧ c'.recAt = if h = 0 then cc.recAt else h)) ∧
  (∀ (f : Fields) (s : State) (i : Iss) (r : Range) (cc : CopyChan), issueOf 0xA2 f s = some i →
    i.s.range i.r.id = some r → r.chans[chanNum f.b]? = some cc →
    let v := match cc.state with
      | .idle => 0
      | .walking => cc.recAt.toNat % 2 ^ 56 / 64 * 64 + 1
      | .parked => cc.recAt.toNat % 2 ^ 56 / 64 * 64 + 2
      | .error => cc.recAt.toNat % 2 ^ 56 / 64 * 64 + 3
    (i.l.cmd.repro = false ∨ cc.state ≠ .walking →
      exec (.chq f) s = i.ends 0xA2 f (i.onCtx fun c => c.writeScalD f.d (BitVec.ofNat 64 v))))

/-! ## Groups (08, 09) -/

/-- BARG and GRPQ (R227, R228): a group number from 256 on is RANGE with DETAIL 0x02, an item that is no member DETAIL
0x03, after the members of its strand have arrived; in a span it cuts, or traps at the lowest item. Members at the unreleased
generation arrive and wait; GRPQ counts the members, or tells each item, a span as one interval.
Where the manual is open, by the choices of log entries 35, 65, 66. -/
def Obligations.GroupInstructions : Prop :=
  (∀ f s i l, issueOf 0xC0 f s = some i → i.s.launch i.l.id = some l →
    let k := (i.uni 1 f.b).toNat % 2 ^ 32
    let now := i.s.released l.cmd.job k
    (256 ≤ k → exec (.barg f) s = i.traps 0xC0 (i.cycles 0xC0 f) i.s 6 2 (maskOf i.lanes)) ∧
    (k < 256 → i.c.kind = .strand → i.lanes ≠ [] → (f.order ≠ 4 ∨ f.scope < 4 ∨ i.acked = true) → l.cmd = i.l.cmd →
      (∀ x ∈ i.lanes, i.l.member k (i.itemOf x) = true) →
      (∀ x ∈ i.lanes, (l.gen k).count (i.itemOf x) = now) →
      ∃ t, exec (.barg f) s = i.ends 0xC0 f t ∧
        (∀ c, t.ctx i.c.id = some c → c.wait = .group k now (if f.order == 4 then f.scope + 1 else 0)) ∧
        ∀ l', t.launch i.l.id = some l' → ∀ x ∈ i.lanes, (l'.gen k).count (i.itemOf x) = now + 1) ∧
    (k < 256 → i.c.kind = .strand → (f.order ≠ 4 ∨ f.scope < 4 ∨ i.acked = true) →
      let others := i.lanes.filter fun x => !i.l.member k (i.itemOf x)
      others ≠ [] → ∃ t, exec (.barg f) s = .next (finish i 0xC0 (i.cycles 0xC0 f)
        (.trap t 6 3 (maskOf others) (maskOf (i.issuing.filter fun x => !others.contains x)))) ∧
        ∀ l', t.launch i.l.id = some l' → ∀ x ∈ i.lanes, i.l.member k (i.itemOf x) = true →
          (l'.gen k).count (i.itemOf x) = (l.gen k).count (i.itemOf x) + 1) ∧
    (∀ lo hi x, k < 256 → i.c.kind = .span lo hi → lo ≤ x → x < hi → i.l.member k x = false →
      (∀ y, lo ≤ y → y < x → i.l.member k y = true) →
      exec (.barg f) s = if x = lo then i.traps 0xC0 (i.cycles 0xC0 f) i.s 6 3 0 else i.cutsAt 0xC0 f [x]) ∧
    (∀ lo hi, k < 256 → i.c.kind = .span lo hi → lo < hi → (f.order ≠ 4 ∨ f.scope < 4 ∨ i.acked = true) → l.cmd = i.l.cmd →
      (∀ x, lo ≤ x → x < hi → i.l.member k x = true ∧ (l.gen k).count x = now) →
      ∃ t, exec (.barg f) s = i.ends 0xC0 f t ∧
        (∀ c, t.ctx i.c.id = some c → c.wait = .group k now (if f.order == 4 then f.scope + 1 else 0)) ∧
        ∀ l', t.launch i.l.id = some l' → ∀ x, lo ≤ x → x < hi → (l'.gen k).count x = now + 1)) ∧
  (∀ f s i, issueOf 0xC1 f s = some i →
    let k := (i.uni 1 f.b).toNat % 2 ^ 32
    (256 ≤ k → exec (.grpq f) s = i.traps 0xC1 (i.cycles 0xC1 f) i.s 6 2 (maskOf i.lanes)) ∧
    (∀ r, k < 256 → destScal f.d = some r → exec (.grpq f) s = i.ends 0xC1 f (i.onCtx fun c =>
      c.writeScal r (BitVec.ofNat 64 ((List.range i.l.n).filter (i.l.member k)).length))) ∧
    (k < 256 → destScal f.d = none → i.c.kind = .strand → exec (.grpq f) s = i.ends 0xC1 f (i.onCtx fun c =>
      c.writeLanePreds (predNum f.d) (i.lanes.map fun x => (x, i.l.member k (i.itemOf x))))) ∧
    (∀ lo hi, k < 256 → destScal f.d = none → i.c.kind = .span lo hi →
      (∀ a b, lo ≤ a → a < b → b ≤ hi → (∀ x, lo ≤ x → x < hi → (i.l.member k x = true ↔ a ≤ x ∧ x < b)) →
        exec (.grpq f) s = i.ends 0xC1 f (i.onCtx fun c =>
          c.writePForm (predNum f.d) (PForm.within (.i a b) lo hi))) ∧
      ((∀ x, lo ≤ x → x < hi → i.l.member k x = false) →
        exec (.grpq f) s = i.ends 0xC1 f (i.onCtx fun c => c.writePForm (predNum f.d) (.u false))) ∧
      ((∃ x y z, lo ≤ x ∧ x < y ∧ y < z ∧ z < hi ∧ i.l.member k x = true ∧ i.l.member k y = false ∧ i.l.member k z = true) →
        exec (.grpq f) s = i.materialises 0xC1 f)))

/-! ## Group sends (14, 15) -/

/-- SENDG (R356): a payload of 16 to 256 bytes in whole words, read after a release at fabric scope, becomes a message that
climbs from its core; any other length is RANGE with DETAIL 0x07. -/
def Rules.SendGroup : Prop :=
  ∀ f s i, issueOf 0xC2 f s = some i →
    let n := (i.uni 1 f.b).toNat % 2 ^ 32
    (n < 16 ∨ 256 < n ∨ n % 4 ≠ 0 →
      exec (.sendg f) s = i.traps 0xC2 (i.cycles 0xC2 f) i.s 6 7 (maskOf i.lanes)) ∧
    (∀ core off r, 16 ≤ n → n ≤ 256 → n % 4 = 0 → (i.s.fabric.tier = false ∨ i.s.portsUp = true) →
      (f.var = 0 ∨ i.s.seqOut i.c.id (chanNo f) = false) → f.space = 1 →
      i.s.locate i.c 1 (i.uni 0 f.a) n false wantRead = .ok (.scratch core off) → i.s.range i.r.id = some r →
      (∀ k < n, i.s.openAt i.r.id (.scratch core (off + k)) = false) →
      ∃ (t : State) (m : Msg), exec (.sendg f) s = i.ends 0xC2 f t ∧ t.sends.msgs = i.s.sends.msgs ++ [m] ∧
        m.key = ⟨i.l.cmd.job, f.x.toNat, chanNo f⟩ ∧ m.words = wordsOf (r.readScratch core off n) ∧
        m.ctxs = [i.c.id] ∧ m.level = .core ∧ m.climbing = true ∧ m.parked = false ∧ m.held = none ∧ m.outcome = none)

/-- OFFER, WDRAW, RECV, QSTAT and PSTAT (R357 to R362). -/
def Rules.ReceiveInstructions : Prop :=
  (∀ f s i, issueOf 0xC3 f s = some i →
    let n := (i.uni 1 f.b).toNat % 2 ^ 32
    let lim := (i.uni 0 f.a).toNat % 2 ^ 32
    let h := i.chan (chanNo f)
    let bad := lim < 16 ∨ 256 < lim ∨ lim % 4 ≠ 0 ∨ 65535 < n
    let mem := ∃ x ∈ i.c.items, i.l.member f.x.toNat x = true
    let answer (v : W64) : Prop := exec (.offer f) s = i.ends 0xC3 f (i.onCtx fun c => c.writeScalD f.d v)
    (bad → exec (.offer f) s = i.traps 0xC3 (i.cycles 0xC3 f) i.s 6 9 (maskOf i.lanes)) ∧
    (¬ bad → ¬ mem → answer 1) ∧ (¬ bad → mem → n = 0 → answer 0) ∧
    (¬ bad → mem → n ≠ 0 → h.offered ≠ 0 → (h.group ≠ f.x.toNat ∨ h.limit ≠ lim) → answer 2) ∧
    (¬ bad → mem → n ≠ 0 → (h.offered = 0 ∨ h.group = f.x.toNat ∧ h.limit = lim) →
      (496 < h.used + (h.offered + n) * (16 + round16 lim) → answer 3) ∧
      (h.used + (h.offered + n) * (16 + round16 lim) ≤ 496 →
        let s1 := i.onCtx fun c =>
          c.putChan (chanNo f) { h with offered := h.offered + n, group := f.x.toNat, limit := lim }
        exec (.offer f) s = i.ends 0xC3 f
          ((s1.report (s1.coreNumber i.c) (i.c.seat.getD 0) ⟨i.l.cmd.job, f.x.toNat, chanNo f⟩).modCtx i.c.id fun c =>
            c.writeScalD f.d 0)))) ∧
  (∀ f s i, issueOf 0xC4 f s = some i →
    let h := i.chan (chanNo f)
    (h.offered = 0 → exec (.wdraw f) s = i.ends 0xC4 f (i.onCtx fun c => c.writeScalD f.d 0)) ∧
    (h.offered ≠ 0 →
      let s1 := i.onCtx fun c => c.putChan (chanNo f) { h with offered := 0 }
      exec (.wdraw f) s = i.ends 0xC4 f
        ((s1.report (s1.coreNumber i.c) (i.c.seat.getD 0) ⟨i.l.cmd.job, h.group, chanNo f⟩).modCtx i.c.id fun c =>
          c.writeScalD f.d (BitVec.ofNat 64 h.offered)))) ∧
  (∀ f s i, issueOf 0xC5 f s = some i →
    let h := i.chan (chanNo f)
    (h.held = [] → h.offered = 0 → exec (.recv f) s = i.traps 0xC5 (i.cycles 0xC5 f) i.s 4 2 (maskOf i.lanes)) ∧
    (h.held = [] → h.offered ≠ 0 →
      exec (.recv f) s = i.waits 0xC5 (i.cycles 0xC5 f) i.s (.stall (.words (chanNo f) 1))) ∧
    (∀ r rest core off, h.held = r :: rest → f.space = 1 →
      let n := 4 * (r.words.length - r.popped)
      i.s.locate i.c 1 (i.uni 0 f.a) n false wantWrite = .ok (.scratch core off) →
      ∃ t, exec (.recv f) s = i.ends 0xC5 f t ∧
        (∀ r', t.range i.r.id = some r' → ∀ q, i.s.range i.r.id = some q → r'.scratch =
          Memory.writeN q.scratch (core * 2 ^ 20 + off) ((r.words.drop r.popped).flatMap fun w => leBytes 4 w.toNat)) ∧
        ∀ c, t.ctx i.c.id = some c → ∀ g, c.chans[chanNo f]? = some g → g.held = rest)) ∧
  (∀ f s i, issueOf 0xC6 f s = some i →
    let h := i.chan (chanNo f)
    let left := ((h.held.head?).map fun r => 4 * (r.words.length - r.popped)).getD 0
    exec (.qstat f) s = i.ends 0xC6 f (i.onCtx fun c => c.writeScalD f.d (BitVec.ofNat 64
      (h.held.length + h.offered * 2 ^ 16 + left * 2 ^ 32 +
        (if i.s.seqOut i.c.id (chanNo f) then 1 else 0) * 2 ^ 48 + h.group * 2 ^ 56)))) ∧
  (∀ f s i, issueOf 0xE5 f s = some i →
    let n := (i.uni 1 f.b).toNat % 2 ^ 32
    (128 < n → exec (.pstat f) s = i.traps 0xE5 (i.cycles 0xE5 f) i.s 6 8 (maskOf i.lanes)) ∧
    (n = 128 → exec (.pstat f) s = i.ends 0xE5 f (i.onCtx fun c =>
      c.writeScalD f.d (BitVec.ofNat 64 i.s.fabric.failed.length))) ∧
    (n < 128 → exec (.pstat f) s = i.ends 0xE5 f (i.onCtx fun c => c.writeScalD f.d (BitVec.ofNat 64
      (maskOf ((i.s.fabric.failed.filter fun k => k / 64 == n).map (· % 64)))))))

/-- SENDG, OFFER, WDRAW, RECV, QSTAT and PSTAT. Where the manual is open, by the choices of log entry 48. -/
def Obligations.SendInstructions : Prop :=
  Rules.SendGroup ∧ Rules.ReceiveInstructions

/-! ## Time (13, 15) -/

/-- TIME, TUNC and TWAIT (R350 to R352): the die copy raised to the context's floor; half-width, state, cause and unit; a
wait until local lo is past t, or FAILED. -/
def Rules.TimeReads : Prop :=
  (∀ f s i, issueOf 0xD0 f s = some i →
    ∃ t, exec (.time f) s = i.ends 0xD0 f t ∧ ∀ c d, i.s.ctx i.c.id = some c → t.ctx i.c.id = some d →
      d.floorLo = max i.s.mer.dielo c.floorLo ∧ d.floorHi = max i.s.mer.diehi c.floorHi ∧
      ∀ r, f.d = .s r → r.toNat + 1 < c.scal.length →
        d.scal[r.toNat]? = some (BitVec.ofNat 64 d.floorLo) ∧ d.scal[r.toNat + 1]? = some (BitVec.ofNat 64 d.floorHi)) ∧
  (∀ f s i, issueOf 0xD1 f s = some i → i.s.mer.state < 4 → i.s.mer.cause < 16 → i.s.mer.unit < 2 →
    exec (.tunc f) s = i.ends 0xD1 f (i.onCtx fun c => c.writeScalD f.d (BitVec.ofNat 64
      (min ((i.s.mer.hi - i.s.mer.lo + 1) / 2) (2 ^ 40 - 1) + i.s.mer.state * 2 ^ 40 + i.s.mer.cause * 2 ^ 44 +
        i.s.mer.unit * 2 ^ 48)))) ∧
  (∀ f s i, issueOf 0xD4 f s = some i →
    let t := (i.uni 1 f.b).toNat
    (t < i.s.mer.dielo → exec (.twait f) s = i.ends 0xD4 f (i.onCtx fun c => c.writeScalD f.d 0)) ∧
    (i.s.mer.dielo ≤ t → i.s.mer.state = 3 → exec (.twait f) s = i.ends 0xD4 f (i.onCtx fun c => c.writeScalD f.d 3)) ∧
    (i.s.mer.dielo ≤ t → i.s.mer.state ≠ 3 → exec (.twait f) s = i.waits 0xD4 (i.cycles 0xD4 f) i.s (.time (i.uni 1 f.b))))

/-- STS and LDAT (R353 to R355): a stamped store takes local hi as its stamp, above every earlier stamp of its core, once its
release at fabric scope is acknowledged; a read at a time is requested from the home. In LIMIT or FAILED they raise TIME,
or with .nt
complete at once. -/
def Rules.StampedAccesses : Prop :=
  (∀ f s i pa st, issueOf 0xD2 f s = some i →
    i.s.locate i.c 0 (i.uni 0 f.a) f.ty.bytes true ⟨false, true, false, true⟩ = .ok (.g pa st) →
    (i.s.mer.state = 2 ∨ i.s.mer.state = 3 → i.acked = false → f.var ≠ 1 →
      exec (.sts f) s = i.traps 0xD2 (i.cycles 0xD2 f) i.s 3 (i.s.mer.state - 1) (maskOf i.lanes)) ∧
    (i.s.mer.state = 2 ∨ i.s.mer.state = 3 → i.acked = false → f.var = 1 → ∃ t, exec (.sts f) s = i.ends 0xD2 f t) ∧
    (i.s.mer.state ≠ 2 → i.s.mer.state ≠ 3 →
      i.acked = true ∨
        ((i.s.tlbFill i.clu false i.l.vf i.l.proc (i.uni 0 f.a)).release i.clu i.c.id 4).unacked i.c.id = [] →
      (∀ x, kget i.s.lastStamps (i.s.coreNumber i.c) = some x → x < i.s.mer.diehi) →
      ∃ t, exec (.sts f) s = i.ends 0xD2 f t ∧ kget t.lastStamps (i.s.coreNumber i.c) = some i.s.mer.diehi ∧
        ∃ o ∈ t.ops, ∃ r, o.what = .sts r .waiting f.x i.itemRuns ∧ r.pa = pa ∧ r.stamp = i.s.mer.diehi ∧
          r.size = f.ty.bytes ∧ r.data = i.uni 1 f.b)) ∧
  (∀ f s i pa st, issueOf 0xD3 f s = some i →
    i.s.locate i.c 0 (i.uni 0 f.a) f.ty.bytes true ⟨true, false, false, true⟩ = .ok (.g pa st) →
    (i.s.mer.state = 2 ∨ i.s.mer.state = 3 → f.var ≠ 1 →
      exec (.ldat f) s = i.traps 0xD3 (i.cycles 0xD3 f) i.s 3 (i.s.mer.state - 1) (maskOf i.lanes)) ∧
    (i.s.mer.state ≠ 2 → i.s.mer.state ≠ 3 →
      ∃ t, exec (.ldat f) s = i.ends 0xD3 f t ∧ ∃ o ∈ t.ops,
        o.what = .ldat (i.uni 1 f.b) f.ty pa f.d f.x i.itemRuns ∧ i.c.id ∈ o.ctxs))

/-- TIME, TUNC, TWAIT, STS and LDAT. Where the manual is open, by the choices of log entries 55, 57. -/
def Obligations.TimeInstructions : Prop :=
  Rules.TimeReads ∧ Rules.StampedAccesses

/-! ## Energy and launches (10, 11) -/

/-- ENRG and EMARK (R275, R276): a launch's energy, its VF's balance, a tile's last measurement or all ones, a sub-meter in
whole EU; a sub-meter starts from 0 or stops. -/
def Rules.EnergyReads : Prop :=
  (∀ f s i l, issueOf 0xE0 f s = some i → i.s.launch i.l.id = some l →
    let answer (v : W64) : Prop := exec (.enrg f) s = i.ends 0xE0 f (i.onCtx fun c => c.writeScalD f.d v)
    let n := (i.uni 1 f.b).toNat
    let m := meterNum f.b
    (f.var = 0 → answer (BitVec.ofNat 64 l.energy)) ∧
    (f.var = 1 → answer (BitVec.ofInt 64 (i.s.acct l.vf).bal)) ∧
    (f.var = 2 → answer (if isTile n && bitOf (i.s.acct l.vf).vfflags 0 then BitVec.ofNat 64 (i.s.tile n).last
      else BitVec.allOnes 64)) ∧
    (∀ x, 2 < f.var.toNat → (∀ o ∈ i.s.ops, o.ctxs.head? = some i.c.id → bitOf o.meters m = false) → i.c.subs[m]? = some x →
      answer (BitVec.ofNat 64 (x.count / 65536)))) ∧
  (∀ f s i, issueOf 0xE1 f s = some i →
    ∃ t, exec (.emark f) s = i.ends 0xE1 f t ∧
      (f.var = 0 → ∀ c, t.ctx i.c.id = some c → ∀ x, c.subs[meterNum f.b]? = some x → x = ⟨0, true⟩) ∧
      (f.var ≠ 0 → t = i.onCtx fun c =>
        { c with subs := c.subs.set (meterNum f.b) ⟨((c.subs[meterNum f.b]?).map (·.count)).getD 0, false⟩ }))

/-- SPAWN, GROW and LNQ (R272 to R274). -/
def Rules.LaunchInstructions : Prop :=
  (∀ f s i, issueOf 0xE2 f s = some i →
    let qn := (i.uni 1 f.b).toNat % 2 ^ 32
    let s1 := i.s.release i.clu i.c.id 3
    let q := s1.queue qn
    let mine := qn < 131072 ∧ q.vf = i.l.vf ∧ q.proc = i.l.proc ∧ q.en = true
    let answer (v : W64) : Prop := exec (.spawn f) s = i.ends 0xE2 f (s1.modCtx i.c.id fun c => c.writeScalD f.d v)
    (¬ mine → answer 2) ∧
    (mine → s1.tailOf qn - q.head.toNat = 2 ^ q.logsz → i.l.cmd.repro = false → answer 1) ∧
    (∀ ps qs, mine → s1.tailOf qn - q.head.toNat ≠ 2 ^ q.logsz → canonical (i.uni 0 f.a) = true →
      (i.uni 0 f.a).toNat % 128 = 0 → s1.translateRange i.clu false i.l wantRead (i.uni 0 f.a) 128 = .ok ps →
      s1.translateRange i.clu false i.l wantWrite (q.slot (s1.tailOf qn)) 128 = .ok qs →
      s1.readWait i.clu 2 i.l.id ((List.range 128).map fun k => (pieceAt ps k).1) = none →
      ∃ t, exec (.spawn f) s = i.ends 0xE2 f t ∧ t.tailOf qn = (s1.tailOf qn + 1) % 2 ^ 64)) ∧
  (∀ f s i l, issueOf 0xE3 f s = some i → i.s.launch i.l.id = some l →
    let g := (i.uni 1 f.b).toNat % 2 ^ 32
    (2 ^ 32 ≤ l.n + g → exec (.grow f) s = i.ends 0xE3 f (i.onCtx fun c => c.writeScalD f.d (BitVec.allOnes 64))) ∧
    (l.n + g < 2 ^ 32 → ∃ t, exec (.grow f) s = i.ends 0xE3 f t ∧
      (∀ l', t.launch i.l.id = some l' → l'.n = l.n + g) ∧
      ∀ c r x, t.ctx i.c.id = some c → f.d = .s r → c.scal[r.toNat]? = some x → x = BitVec.ofNat 64 l.n)) ∧
  (∀ f s i l x, issueOf 0xE4 f s = some i → i.s.launch i.l.id = some l → f.b = .imm x →
    let answer (v : Nat) : Prop := ∃ t, exec (.lnq f) s = i.ends 0xE4 f t ∧
      ∀ c r y, t.ctx i.c.id = some c → f.d = .s r → c.scal[r.toNat]? = some y → y = BitVec.ofNat 64 v
    (x = 0 → answer l.n) ∧ (x = 2 → answer (i.s.ranges.filter (·.launchId == l.id)).length) ∧
    (x = 3 → answer l.todo.length) ∧ (x = 4 → answer l.id) ∧
    (x = 5 → l.cmd.estimate ≠ 0 → answer l.cmd.estimate) ∧ Completes (exec (.lnq f) s))

/-- ENRG, EMARK, SPAWN, GROW and LNQ. Where the manual is open, by the choices of log entries 44, 45, 46, 74. -/
def Obligations.EnergyAndLaunches : Prop :=
  Rules.EnergyReads ∧ Rules.LaunchInstructions


/-! ## Events: the contexts of a core (02, 06) -/

/-- TRAP_SLOT_GRANT (R137) gives a free slot to the context that trapped first of those whose launch goes on;
ACTIVE_SET_PROMOTE and OVERDUE_REPLACE (R136) let the oldest ready context take one of eight places, or an overdue one the
place held longest; a context whose token is long outstanding leaves the active set. -/
def Rules.SlotsOfACore : Prop :=
  (∀ core s, (∃ c ∈ s.coreCtxs core, c.trap = .slot) → exec (.trapSlotGrant core) s = .next s) ∧
  (∀ core s c n entry, (∀ d ∈ s.coreCtxs core, d.trap ≠ .slot) → c ∈ s.coreCtxs core → c.trap = .queued n →
    s.mayRun c = true → (s.launchOf c).bind (·.trapEntry) = some entry →
    (∀ d ∈ s.coreCtxs core, ∀ m, d.trap = .queued m → s.mayRun d = true → d = c ∨ n < m) →
    exec (.trapSlotGrant core) s = .next (s.setCtx (c.enterSlot entry))) ∧
  (∀ core s, 8 ≤ ((s.coreCtxs core).filter (·.active)).length → exec (.activeSetPromote core) s = .next s) ∧
  (∀ core s c, ((s.coreCtxs core).filter (·.active)).length < 8 → c ∈ s.coreCtxs core → s.readyIdle c = true →
    (∀ d ∈ s.coreCtxs core, s.readyIdle d = true → d = c ∨ c.seniority < d.seniority) →
    exec (.activeSetPromote core) s = .next (({ s with nextId := s.nextId + 1 } : State).modCtx c.id fun c =>
      { c with active := true, slotAt := s.nextId })) ∧
  (∀ core s old, old ∈ s.coreCtxs core → old.active = true → (∃ d ∈ s.coreCtxs core, s.readyIdle d = true) →
    (∀ d ∈ s.coreCtxs core, d.active = true → d = old ∨ old.slotAt < d.slotAt) →
    ∃ c ∈ s.coreCtxs core, s.readyIdle c = true ∧ exec (.overdueReplace core) s = .next
      ((({ s with fresh := s.fresh + 1 } : State).modCtx old.id fun c => { c with active := false }).promote c.id)) ∧
  (∀ ctx s c, s.ctx ctx = some c → ((∃ mask any, c.wait = .tokens mask any) ∨ ∃ n, c.wait = .op n) →
    ∃ t, exec (.tokenOutstandingBeyond64Cycles ctx) s = .next t ∧ t.ctx ctx = some { c with active := false })

/-- JOIN_TIMEOUT (R131), SPACE_WAITER_SPILL (R120), SPILLED_CONTEXT_RETURN (R122, R157) and REMAINDER_STRAND_FORM (R125): the
youngest space waiter gives its window up to the oldest, and a context that returns counts its issues from 0. -/
def Rules.JoinsAndSpace : Prop :=
  (∀ ctx s c u, s.ctx ctx = some c → c.wait = .join u → s.mayRun c = true →
    ∃ t, exec (.joinTimeout ctx) s = .next t ∧
      t.ctx ctx = some { c.advance [] (c.pc + 12) with wait := .none, billed := false }) ∧
  (∀ core s c o l, (∀ d ∈ s.coreCtxs core, d.resident = true →
      s.blocked d = true ∨ d.turn ≠ none ∨ d.nextIssue = none ∨ d.items = []) →
    (∀ d ∈ [c, o], d ∈ s.coreCtxs core ∧ d.resident = true ∧ d.waitsForSpace = true ∧ s.blocked d = true ∧
      s.ctx d.id = some d) →
    o.id ≠ c.id → c.seniority < 2 ^ 200 →
    (∀ d ∈ s.coreCtxs core, d.resident = true → d.waitsForSpace = true → s.blocked d = true →
      (d = c ∨ d.seniority < c.seniority) ∧ (d = o ∨ o.seniority < d.seniority)) →
    s.launchOf c = some l → s.roomFor c l = true →
    ∃ t, exec (.spaceWaiterSpill core) s = .next t ∧ t.ctx c.id = some c.spill ∧
      t.ctx o.id = some { o with first := true }) ∧
  (∀ core s c l, c ∈ s.coreCtxs core → s.ctx c.id = some c → c.resident = false → s.mayRun c = true →
    (∀ d ∈ s.coreCtxs core, d.resident = false → s.mayRun d = true → d = c ∨ c.seniority < d.seniority) →
    s.launchOf c = some l → s.freeSlots c.range c.core ≠ 0 → c.blocks l ≤ s.freeFor c l →
    ∃ t seat, exec (.spilledContextReturn core) s = .next t ∧
      t.ctx c.id = some { c with resident := true, issued := 0, seat := seat }) ∧
  (∀ ctx s c l lo hi, s.ctx ctx = some c → s.launchOf c = some l → c.kind = .span lo hi → lo < hi → c.wait = .remainder →
    c.resident = true → s.mayRun c = true → (∃ r clu, s.range c.range = some r ∧ r.cluster = some clu) →
    s.freeSlots c.range c.core ≠ 0 →
    l.window true / 256 ≤ s.freeFor c l + c.reserve * (l.window true / 256) →
    ∃ t d, exec (.remainderStrandForm ctx) s = .next t ∧ t.ctx ctx = some d ∧ d.kind = .strand ∧ d.wait = .none ∧
      d.scal = c.scal ∧ d.items = (List.range (min hi ((lo / l.w + 1) * l.w) - lo)).map (lo + ·))

/-- TOKEN_OPERATION_COMPLETE (R39): an operation that is done, and a store that its home acknowledges, is no longer
outstanding; a fabric fence completes when no operation of its wait set is, and before changes nothing. -/
def Rules.Completion : Prop :=
  (∀ s o, s.op o.id = some o → o.what = .ready →
    ∃ t, exec (.tokenOperationComplete o.id) s = .next t ∧ t.op o.id = none) ∧
  (∀ s o n l, s.op o.id = some o → o.what = .remote n false l → (∀ q ∈ s.svc.cxlReqs, q.op ≠ o.id) →
    s.txUnsent o.id = false →
    ∃ t, exec (.tokenOperationComplete o.id) s = .next t ∧ t.op o.id = none ∧ ∀ x ∈ t.fabric.rtx, x.opId ≠ o.id) ∧
  (∀ s o set failed acq dst, s.op o.id = some o → o.what = .fence set failed acq dst →
    ((∃ p ∈ s.ops, ∃ n l, p.id ∈ set ∧ p.what = .remote n false l) →
      exec (.tokenOperationComplete o.id) s = .next s) ∧
    ((∀ p ∈ s.ops, p.id ∈ set → ∀ n l, p.what ≠ .remote n false l) →
      ∃ t, exec (.tokenOperationComplete o.id) s = .next t ∧ t.op o.id = none ∧ ∀ p ∈ t.ops, p.id ∉ set))

/-- The scheduling of a core's contexts and the completion of operations. Where the manual is open, by the choices of
log entries 18, 20, 53, 54, 67. -/
def Obligations.ContextEvents : Prop := Rules.SlotsOfACore ∧ Rules.JoinsAndSpace ∧ Rules.Completion

/-! ## Events: the matrix and copy engines (08, 10) -/

/-- MATRIX_ENGINE_EXECUTE, MATRIX_ROW_GROUP and MATRIX_INSTRUCTION_COMPLETE (R196, R200, R201, R221): the engine begins the
head of its range's queue, and nothing of it while the engine waits for its test (R258); a row group of 8 rows by 64 columns is updated whole, over the blocks that MMAS does not skip, and
no other element changes; PROG moves on; the completed instruction leaves the queue and its operation completes. -/
def Rules.MatrixSteps : Prop :=
  ∀ (s : State) (clu : Nat) (r : Range) (l : Launch) (e : MqEntry) (rest : List MqEntry),
    s.engineAt clu = some (r, l) → s.range r.id = some r → s.working l = true → r.mq = e :: rest →
    (s.engineTested clu = false → exec (.matrixEngineExecute clu) s =
      .next (s.modRange r.id fun r => { r with mq := { e with started := true } :: rest })) ∧
    (s.engineTested clu = true → exec (.matrixEngineExecute clu) s = .next s ∧ exec (.matrixRowGroup clu) s = .next s) ∧
    (∀ (a b : Operand) (o : Op) (c : Ctx) (s1 : State) (skip : Nat → Bool) (as bs : List Byte) (rg : Nat),
      (e.op = 0xB0 ∨ e.op = 0xB1) → e.started = true → e.done = false → e.spoiled = false → e.parked = none →
      s.engineTested clu = false → e.opA = some a → e.opB = some b → s.op e.opId = some o → s.ctx (o.ctxs.headD 0) = some c →
      r.prog[e.tile]? = some rg → rg < 8 →
      s.readGroup c l clu e a b rg = .ok (s1, skip, as, bs) → (e.op = 0xB0 → ∀ g, skip g = false) ∧
      ∃ t, exec (.matrixRowGroup clu) s = .next t ∧ ∀ r', t.range r.id = some r' →
        r'.prog[e.tile]? = some ((rg + 1) % 8) ∧ r'.mq = { e with done := rg == 7 } :: rest ∧
        ∀ k i, i < 4096 → r'.elem k i =
          if k = e.tile ∧ i / 512 = rg then
            updateElem (r.elem k i) (a.elem as (i / 64)) (b.elem bs (i % 64))
              skip (8 * (a.kt + 1))
          else r.elem k i) ∧
    (∀ (o : Op) (c : Ctx), s.op e.opId = some o → s.ctx (o.ctxs.headD 0) = some c → e.started = true → e.parked = none →
      (e.op = 0xB0 ∨ e.op = 0xB1 → e.done = false → exec (.matrixInstructionComplete clu) s = .next s) ∧
      ((e.op = 0xB0 ∨ e.op = 0xB1) ∧ e.done = true ∨ e.op = 0xB2 →
        ∃ t, exec (.matrixInstructionComplete clu) s = .next t ∧ t.op e.opId = none ∧ ∀ r', t.range r.id = some r' →
          r'.mq = rest ∧ (e.op = 0xB2 → r'.prog = r.prog.set e.tile 0) ∧
          ∀ k i, i < 4096 → r'.elem k i = if e.op = 0xB2 ∧ k = e.tile then 0 else r.elem k i))

/-- COPY_SEGMENT, TRANSFER_COMPLETE, MULTICAST_COMPLETE and CHAIN_RECORD (R185, R246, R249): a transfer moves on by at most
64 KiB; a moved one, and a multicast, completes once, at fabric scope after every acknowledgement (R345); a channel at the
end of its chain is idle, at a record it does not
own parked, and else starts the record's transfer. -/
def Rules.CopySteps : Prop :=
  (∀ s id x r l clu, s.xferAt id = some (x, r, l, clu) → s.working l = true → x.mcst = false → x.done < x.len →
    s.engines (clu / 16) ≠ [] →
    let pas := x.pas x.done (min x.len (x.done + 65536))
    (∀ p ∈ pas.1, s.poisoned p = false) → s.readWait clu 2 l.id pas.1 = none → (∀ p ∈ pas.2, s.underTest p = false) →
    ∃ t, exec (.copySegment id) s = .next t ∧ t.xfer id = some { x with done := min x.len (x.done + 65536) }) ∧
  (∀ s id x r l clu, s.xferAt id = some (x, r, l, clu) → x.mcst = false → x.done < x.len →
    exec (.transferComplete id) s = .next s) ∧
  (∀ s id x r l clu, s.xferAt id = some (x, r, l, clu) → x.mcst = false → x.len ≤ x.done → x.chan = none →
    x.acks = none ∧ x.scope ≠ 4 ∨ (∃ ids, x.acks = some ids ∧ s.acksOpen ids = false) →
    ∃ t, exec (.transferComplete id) s = .next t ∧ t.xfer id = none ∧ t.op x.opId = none) ∧
  (∀ s id x r l clu o, s.xferAt id = some (x, r, l, clu) → x.mcst = true → s.op x.opId = some o →
    (∀ p ∈ (x.pas 0 x.len).1, s.poisoned p = false) →
    x.acks = none ∧ x.scope ≠ 4 ∧ s.readWait clu 2 l.id (x.pas 0 x.len).1 = none ∨
      (∃ ids, x.acks = some ids ∧ s.acksOpen ids = false) →
    ∃ t, exec (.multicastComplete id) s = .next t ∧ t.xfer id = none ∧ t.op x.opId = none) ∧
  (∀ (s : State) (k ch clu : Nat) (r : Range) (l : Launch) (cc : CopyChan), s.range k = some r → r.cluster = some clu →
    s.launch r.launchId = some l → r.chans[ch]? = some cc → l.status = none → s.working l = true → cc.state = .walking →
    (∀ x ∈ s.xfers, x.range = k → x.chan ≠ some ch) → s.mem.deltas = [] →
    let at_ (t : State) (st : ChanState) (p : W64) : Prop :=
      ∀ r', t.range k = some r' → ∀ c', r'.chans[ch]? = some c' → c'.state = st ∧ c'.recAt = p
    (cc.recAt = 0 → ∃ t, exec (.chainRecord k ch) s = .next t ∧ at_ t .idle 0 ∧ t.op cc.opId = none) ∧
    (∀ ps, cc.recAt ≠ 0 → s.translateRange clu false l wantRmw cc.recAt 64 = .ok ps →
      let pa := (pieceAt ps 0).1
      let field (off n : Nat) : Nat := s.sliceVal (pa + off) n
      s.readWait clu 2 l.id ((List.range 64).map (pa + ·)) = none →
      (∀ k < 64, s.poisoned (pa + k) = false ∧ s.openAt 0 (.g (pa + k) false) = false) →
      (field 0x28 1 % 2 = 0 → ∃ t, exec (.chainRecord k ch) s = .next t ∧ at_ t .parked cc.recAt ∧ t.op cc.opId = none) ∧
      (∀ src dst, field 0x28 1 % 2 = 1 → field 0x28 1 < 10 → field 0x10 8 ≤ 2 ^ 30 → field 0x2A 6 = 0 →
        (∀ j < 16, s.sliceRead (pa + 0x30 + j) = 0) →
        s.translateRange clu false l wantRead (BitVec.ofNat 64 (field 0 8)) (field 0x10 8) = .ok src →
        s.translateRange clu false l wantWrite (BitVec.ofNat 64 (field 8 8)) (field 0x10 8) = .ok dst →
        ∃ (t : State) (x : Xfer), exec (.chainRecord k ch) s = .next t ∧ t.xfers = s.xfers ++ [x] ∧ x.chan = some ch ∧
          x.range = k ∧ x.recPa = pa ∧ x.src = src ∧ x.dst = dst ∧ x.len = field 0x10 8 ∧ x.done = 0 ∧
          x.scope = field 0x28 1 / 2 % 8 ∧ x.next = BitVec.ofNat 64 (field 0x20 8))))

/-- The steps of the matrix engine and of the copy engines. Where the manual is open, by the choices of log entries
29, 34, 115. -/
def Obligations.EngineEvents : Prop := Rules.MatrixSteps ∧ Rules.CopySteps

/-! ## Events: caches, translations and CXL.mem (08, 10, 12) -/

/-- L1_EVICTION, L2_EVICTION and DELTA_FLUSH (R183, R244, R279): the bytes of an evicted line leave the cache, and a dirty
one is then what the next level, for a line of a page with C the cache portion, or the home holds; a flushed delta has been
applied at the home. -/
def Rules.Evictions : Prop :=
  (∀ clu line s, s.mem.deltas = [] → s.l2Room 0 → 64 * line + 63 < 2 ^ 56 →
    ∃ t, exec (.l1Eviction clu line) s = .next t ∧
      (∀ k < 64, kget t.mem.l1 (l1Key clu (64 * line + k)) = none ∧
        t.sliceRead (64 * line + k) = s.seenBy clu (64 * line + k)) ∧
      ∀ p, p / 64 ≠ line → t.sliceRead p = s.sliceRead p) ∧
  (∀ line s,
    let portion := kget s.mem.cline line = some true ∧ s.svc.cacheUnits ≠ 0
    let room := s.mem.cp.length + 64 ≤ s.svc.cacheUnits * 2 ^ 27
    ∃ t, exec (.l2Eviction line false) s = .next t ∧
      (¬ portion → dirtyLine s.mem.l2 line = true → t.svc = (s.sendCxl line).svc) ∧
      ∀ k < 64, kget t.mem.l2 (64 * line + k) = none ∧
        ∀ v, kget s.mem.l2 (64 * line + k) = some ⟨v, true⟩ →
          (portion → room → kget t.mem.cp (64 * line + k) = some ⟨v, true⟩) ∧
          (¬ portion → s.lost (64 * line + k) = false → t.homeRead (64 * line + k) = v ∧
            kget t.mem.cp (64 * line + k) = none)) ∧
  (∀ line s,
    ∃ t, exec (.l2Eviction line true) s = .next t ∧ t.mem.l2 = s.mem.l2 ∧ ∀ k < 64,
      kget t.mem.cp (64 * line + k) = none ∧
      ∀ v, kget s.mem.cp (64 * line + k) = some ⟨v, true⟩ → s.lost (64 * line + k) = false →
        t.homeRead (64 * line + k) = v) ∧
  (∀ clu line s, (∀ d ∈ s.mem.deltas, d.clu ≠ clu ∨ d.meets (64 * line) 64 = false) →
    exec (.deltaFlush clu line) s = .next s) ∧
  (∀ line s d, s.mem.deltas = [d] → s.l2Room 0 → d.meets (64 * line) 64 = true →
    ∃ t, exec (.deltaFlush d.clu line) s = .next t ∧ t.mem.deltas = [] ∧
      (∀ k < d.ty.bytes, t.sliceRead (d.pa + k) = BitVec.ofNat 8
        (rmwVal d.op d.ty (BitVec.ofNat 64 (s.sliceVal d.pa d.ty.bytes)) d.val / 2 ^ (8 * k))) ∧
      ∀ p, (p < d.pa ∨ d.pa + d.ty.bytes ≤ p) → t.sliceRead p = s.sliceRead p)

/-- TRANSLATION_WALK and SHOOTDOWN (R252): a walk that ends in a leaf leaves it in the TLB that missed; a shootdown removes
the translation from every TLB, those of saved ranges too, once no access translated by it is still to be performed. -/
def Rules.Translations : Prop :=
  (∀ clu engine vf proc va s l, clu < 128 → canonical va = true → s.tlbHit clu engine vf proc va = none →
    s.walk vf proc va = .ok l →
    ∃ t e, exec (.translationWalk clu engine vf proc va) s = .next t ∧ t.tlbHit clu engine vf proc va = some e ∧
      e.leaf = l ∧ t = { s with mem := { s.mem with tlb := t.mem.tlb, cline := t.mem.cline } }) ∧
  (∀ clu engine vf proc va s e, s.tlbHit clu engine vf proc va = none → s.walk vf proc va = .error e →
    exec (.translationWalk clu engine vf proc va) s = .next s) ∧
  (∀ vf proc va s,
    let hit (e : Tlb) : Prop := e.vf = vf ∧ e.proc = proc ∧ va.toNat % 2 ^ 56 / e.leaf.size = e.va / e.leaf.size
    (s.pageHeld vf proc va = true ∨ (∃ e ∈ s.mem.tlb, hit e ∧ s.inUse e = true) → exec (.shootdown vf proc va) s = .next s) ∧
    (s.pageHeld vf proc va = false → (∀ e ∈ s.mem.tlb, hit e → s.inUse e = false) →
      ∃ t, exec (.shootdown vf proc va) s = .next t ∧ (∀ e ∈ t.mem.tlb, ¬ hit e) ∧
        (∀ r ∈ t.ranges, ∀ e ∈ r.etlb, ¬ hit e) ∧
        ∀ e ∈ s.mem.tlb, ¬ hit e → e ∈ t.mem.tlb))

/-- CXL_RESPONSE, CXL_TIMEOUT and CXL_RANGE_CONFIGURATION (R280): the bytes a device returns stand at their home, and are BASE
of a stamped line (R312); a
poisoned or missing answer to a read is one that its reader meets as poison; an acknowledged write is no longer outstanding,
and the line of one without an answer is poisoned; ranges that fit are the configuration. -/
def Rules.CxlRequests : Prop :=
  let gone (t : State) (tag : Nat) : Prop := ∀ q ∈ t.svc.cxlReqs, q.tag ≠ tag
  let failed (s t : State) (q : CxlReq) : Prop :=
    ∀ k < 64, s.remote (64 * q.line + k) = false → t.unread (64 * q.line + k) = true
  (∀ tag bytes poison s q, s.svc.cxlReqs.find? (·.tag == tag) = some q → q.failed = false →
    (q.write = true → ∃ t, exec (.cxlResponse tag bytes poison) s = .next t ∧ gone t tag ∧ t.op q.op = none) ∧
    (q.write = false → poison = true → ∃ t, exec (.cxlResponse tag bytes poison) s = .next t ∧ failed s t q) ∧
    (q.write = false → poison = false → bytes.length = 64 → s.l2Room 0 →
      ∃ t, exec (.cxlResponse tag bytes poison) s = .next t ∧ gone t tag ∧
        (kget s.mem.slines q.line = none → ∀ k < 64, some (t.homeRead (64 * q.line + k)) = bytes[k]?) ∧
        ∀ l, kget s.mem.slines q.line = some l → kget t.mem.slines q.line = some { l with base := bytes })) ∧
  (∀ tag s q, s.svc.cxlReqs.find? (·.tag == tag) = some q → q.failed = false →
    ∃ t, exec (.cxlTimeout tag) s = .next t ∧ (q.write = false → failed s t q) ∧
      (q.write = true → gone t tag ∧ t.op q.op = none ∧ (0, 4, q.line) ∈ t.host.errlog ∧
        ∀ k < 64, 64 * q.line + k ∈ t.mem.poison)) ∧
  (∀ rs s, exec (.cxlRangeConfiguration rs) s =
    .next (if cxlOk rs then { s with svc := { s.svc with cxl := rs } } else s))

/-- The caches, the translations and CXL.mem. Where the manual is open, by the choices of log entries 7 and 27, and of 52 for
the entry of an unanswered write, which stands under VF 0 in the error log. -/
def Obligations.CacheEvents : Prop := Rules.Evictions ∧ Rules.Translations ∧ Rules.CxlRequests

/-! ## Events: errors and the service core (10, 12) -/

/-- BLOCK_ERROR, SELF_TEST and MACHINE_CHECK (R258, R259): a block with an error waits for its test; the log has every result,
and a failure takes the block out, or for a bank group a spare row or the group; one of a store bank is only logged, which is
the model's choice (log entry 115). -/
def Rules.ErrorHandling : Prop :=
  (∀ block poison s, ∃ t, exec (.blockError block poison) s = .next t ∧ (∀ p ∈ poison, p ∈ t.mem.poison) ∧
    (block ∉ s.svc.failedBlocks → block ∈ t.svc.errors)) ∧
  (∀ block rest pass destroyed s, s.svc.errors = block :: rest → block ∉ rest →
    (pass = true → exec (.selfTest block pass destroyed) s =
      .next { s with svc := { s.svc with errors := rest, tests := s.svc.tests ++ [(block, true)] } }) ∧
    (pass = false → (∀ d g, block ≠ .bank d g) → (∀ c k, block ≠ .store c k) →
      (∀ c, Sys2Proof.Machine.Block.cluster block = some c → ∀ r ∈ s.ranges, r.cluster ≠ some c) →
      exec (.selfTest block pass destroyed) s = .next { s with svc := { s.svc with
        errors := rest, tests := s.svc.tests ++ [(block, false)], failedBlocks := s.svc.failedBlocks ++ [block] } }) ∧
    (∀ c k, pass = false → block = .store c k → exec (.selfTest block pass destroyed) s =
      .next { s with svc := { s.svc with errors := rest, tests := s.svc.tests ++ [(block, false)] } }) ∧
    (∀ d g, pass = false → block = .bank d g → ∃ t, exec (.selfTest block pass destroyed) s = .next t ∧
      t.svc.errors = rest ∧ (t.svc.retired = s.svc.retired ++ [d * 8 + g] ∧ (0, 5, d * 8 + g) ∈ t.host.errlog ∨
        kget t.svc.spares (d * 8 + g) = some ((kget s.svc.spares (d * 8 + g)).getD 0 + 1)))) ∧
  (∀ id pa s, (id, pa) ∉ s.svc.checks → exec (.machineCheck id pa) s = .next s) ∧
  (∀ id pa s l, (id, pa) ∈ s.svc.checks → s.launch id = some l → l.status = none →
    ∃ t, exec (.machineCheck id pa) s = .next t ∧ (id, pa) ∉ t.svc.checks ∧
      t.launch id = some { l with status := some 6 })

/-- SERVICE_CORE_FAILURE, FREEZE, PACKAGE_RESET, RECOVERY_IMAGE and ATTESTATION_REQUEST (R294 to R297): a failure ends
every launch, and then the package stands but for their ends, with the acknowledgements that they await, and a freeze, which is
the model's reading (log entry 103); a frozen one stands still; a reset loses everything but flash,
fuses and what lies outside the package, and enters recovery when the image does not verify; while a recovery image is written
flash does not. -/
def Rules.ServiceCore : Prop :=
  (∀ s, ∃ t, exec .serviceCoreFailure s = .next t ∧ t.svc.dead = true ∧ ∀ l ∈ t.launches, l.status ≠ none) ∧
  (∀ s, exec .freeze s = .next { s with svc := { s.svc with frozen := true } }) ∧
  (∀ s e rest, s.tape = .event e :: rest → (∀ ok, e ≠ .packageReset ok) →
    s.svc.frozen = true ∨ s.svc.dead = true ∧ (∀ n, e ≠ .launchEnd n ∧ e ≠ .tokenOperationComplete n ∧ e ≠ .cxlTimeout n ∧
      ∀ bs poison, e ≠ .cxlResponse n bs poison) ∧ (∀ r, e ≠ .transactionResend r) ∧ (∀ f, e ≠ .nodeFailed f) ∧ e ≠ .freeze →
    step s = noting s (.next { s with tape := rest })) ∧
  (∀ ok s, ∃ t, exec (.packageReset ok) s = .next t ∧ t.svc.recovery = !(ok && s.svc.flashOk) ∧ t.svc.frozen = false ∧
    t.svc.dead = false ∧ t.svc.flashOk = (ok && s.svc.flashOk) ∧
    t.svc.attIdx = s.svc.attIdx ∧ t.ctxs = [] ∧ t.ranges = [] ∧ t.launches = [] ∧ t.ops = [] ∧ t.accts = [] ∧
    t.mem.l1 = [] ∧ t.mem.l2 = [] ∧ t.mem.tlb = [] ∧ t.fabric.node = s.svc.firmware.node ∧
    (t.mer.mulim, t.mer.mwin, t.mer.mret) = (s.svc.firmware.mulim, s.svc.firmware.mwin, s.svc.firmware.mret) ∧
    ∀ p, t.homeRead p = if s.lowCached p then s.homeRead p else 0) ∧
  (∀ image digest s, s.svc.recovery = false ∨ image.ok = false → exec (.recoveryImage image digest) s = .next s) ∧
  (∀ digest s, s.svc.recovery = true → exec (.recoveryImage ⟨true, false⟩ digest) s =
    .next { s with svc := { s.svc with flashOk := false } }) ∧
  (∀ digest s, s.svc.recovery = true → ∃ t, exec (.recoveryImage ⟨true, true⟩ digest) s = .next t ∧ t.svc.recovery = false ∧
    t.svc.flashOk = true ∧ t.svc.imageDigest = digest ∧ t.ctxs = []) ∧
  (∀ nonce s, 2 ^ 20 ≤ s.svc.attIdx → exec (.attestationRequest nonce) s = .next s) ∧
  (∀ nonce s, s.svc.attIdx < 2 ^ 20 → exec (.attestationRequest nonce) s = .next { s with svc := { s.svc with
    attIdx := s.svc.attIdx + 1
    report := some ⟨s.svc.imageDigest, s.svc.keyDigest, s.svc.cacheUnits, s.svc.pinUnits, s.svc.cxl, nonce, s.svc.attIdx⟩ } })

/-- Errors, tests and the service core. Where the manual is open, by the choices of log entries 50, 51, 71, 73,
103, 115. -/
def Obligations.ServiceEvents : Prop := Rules.ErrorHandling ∧ Rules.ServiceCore

/-! ## Events: queues, commands and launches (08, 10) -/

/-- QUEUE_TAIL_WRITE, QUEUE_DESCRIPTOR_WRITE, COMMAND_TAKE and DEPENDENCE_RECHECK (R233, R234, R343, R375): an unsecured packet
writes no tail. -/
def Rules.WorkQueues : Prop :=
  (∀ via k tail s,
    let q := s.queue k
    (s.viaOk via = false → exec (.queueTailWrite via k tail) s = .next (s.answer false [])) ∧
    (s.viaOk via = true → 131072 ≤ k ∨ q.vf ≠ via.vf → exec (.queueTailWrite via k tail) s = .next (s.logError via.vf 1 k)) ∧
    (s.viaOk via = true → k < 131072 → q.vf = via.vf → ∃ t, exec (.queueTailWrite via k tail) s = .next t ∧
      t.tailOf k = tail.toNat ∧
      (t.queue k).en = (q.en && decide (q.head.toNat ≤ tail.toNat ∧ tail.toNat ≤ q.head.toNat + 2 ^ q.logsz)))) ∧
  (∀ k desc s, k < 131072 → ∃ t, exec (.queueDescriptorWrite k desc) s = .next t ∧
    let x := desc.toNat
    let q := t.queue k
    q.base = BitVec.ofNat 64 x ∧ q.logsz = x / 2 ^ 64 % 32 ∧ q.prio = x / 2 ^ 69 % 8 ∧ q.vf = x / 2 ^ 72 % 64 ∧
      q.proc = x / 2 ^ 78 % 256 ∧ q.head = (s.queue k).head ∧
      q.en = (bitOf x 86 && decide (q.head.toNat ≤ s.tailOf k ∧ s.tailOf k ≤ q.head.toNat + 2 ^ q.logsz))) ∧
  (∀ k s,
    let q := s.queue k
    q.en = false ∨ s.tailOf k ≤ q.head.toNat ∨ q.head.toNat + 2 ^ q.logsz < s.tailOf k →
      exec (.commandTake k) s = .next s) ∧
  (∀ k s s1 bs,
    let q := s.queue k
    let c := parseCmd bs
    q.en = true → q.head.toNat < s.tailOf k → s.tailOf k ≤ q.head.toNat + 2 ^ q.logsz →
      s.dispRead q.vf q.proc (q.slot q.head.toNat) 128 = .ok (s1, bs) →
    (c.serial = false ∨ ∀ x ∈ s.disp.cmds, x.queue ≠ k) →
    (c.depaddr = 0 ∨ ∃ s2 d, s.dispRead q.vf q.proc c.depaddr 8 = .ok (s2, d) ∧ c.depval.toNat ≤ leVal d) →
    (∃ t x, exec (.commandTake k) s = .next t ∧ t.disp.cmds = s.disp.cmds ++ [x] ∧ x.cmd = c ∧ x.queue = k ∧
      x.vf = q.vf ∧ x.proc = q.proc ∧ x.started = false ∧ (t.queue k).head = q.head + 1 ∧
      (c.kind = 1 ∨ c.kind = 0x12 → x.launchId = s.launchCount + 1 ∧ t.launchCount = s.launchCount + 1) ∧
      (c.kind ≠ 1 → c.kind ≠ 0x12 → x.launchId = 0 ∧ t.launchCount = s.launchCount)) ∧
    (kget s.disp.queues k = some q → q.readyAt = none → (∀ p ∈ s.disp.queues, ∀ va m, s.headOf p.1 ≠ .miss va m) →
      ∃ t, exec .dependenceRecheck s = .next t ∧ (t.queue k).readyAt ≠ none))

/-- NOP_COMMAND, MARK and LAUNCH (R230, R231): a NOP or MARK is finished once its record and completion word, where it
names them, are written; a LAUNCH with a bad field is rejected BADCMD, one that no core has room for NOSPACE, and any other
without groups begins with its cluster ranges to place. -/
def Rules.Commands : Prop :=
  (∀ p ∈ [(Instr.nopCommand, (0 : Nat)), (Instr.mark, 2)], ∀ (cmd : Nat) (s : State) (x : Taken), s.taken cmd = some x →
    x.cmd.kind = p.2 → x.cmd.recaddr = 0 →
    let s1 := ({ s with fresh := s.fresh + 1 } : State).modTaken x.id fun y => { y with recDone := true }
    let ends (s2 : State) : Prop := exec (p.1 cmd) s =
      .next { s2 with disp := { s2.disp with cmds := s2.disp.cmds.filter (·.id != x.id) } }
    (x.cmd.cmpaddr = 0 → ends s1) ∧
    (∀ s2, x.cmd.cmpaddr ≠ 0 → s1.dispWrite x.vf x.proc x.cmd.cmpaddr (leBytes 8 x.cmd.cmpval.toNat) = .ok s2 → ends s2)) ∧
  (∀ (cmd : Nat) (s : State) (x : Taken), s.taken cmd = some x → x.cmd.kind = 1 → x.started = false →
    let begun (t : State) (status : Option Nat) (todo : List (Nat × Nat)) : Prop :=
      ∃ l, t.launches = s.launches ++ [l] ∧ l.id = x.launchId ∧ l.vf = x.vf ∧ l.cmd = x.cmd ∧ l.n = x.cmd.n ∧
        l.status = status ∧ l.todo = todo
    (x.cmd.bad = true → ∃ t, exec (.launch cmd) s = .next t ∧ begun t (some 5) []) ∧
    (x.cmd.bad = false → x.cmd.groups = 0 → s.spaceBad (newLaunch x []) = true →
      ∃ t, exec (.launch cmd) s = .next t ∧ begun t (some 1) []) ∧
    (x.cmd.bad = false → x.cmd.groups = 0 → s.spaceBad (newLaunch x []) = false →
      ∃ t, exec (.launch cmd) s = .next t ∧ begun t none (rangesFrom (2 ^ x.cmd.clog) 0 x.cmd.n)))

/-- RANGE_PLACE (R179, R180, R236, R237), RANGE_RETIRE (R181) and LAUNCH_END (R231): the range goes to the first free cluster
of the placement order, and every item of it is in a context, or, when its turn has come, the check of its VF's balance fails for
this window; an
empty range retires; a launch that is to end, or has
nothing left to run, has its status and no range, and once its stores are acknowledged it is gone. -/
def Rules.RangesOfLaunches : Prop :=
  (∀ (id : Nat) (s s1 : State) (l : Launch) (a b : Nat) (rest : List (Nat × Nat)) (clu : Nat), s.launch id = some l →
    l.todo = (a, b) :: rest → s.freeCluster = some clu → s.svc.dead = false → s.svc.recovery = false → l.status = none →
    l.drain = false → l.failedIn ≠ some s.energy.window → s.vfPlaces l.vf = true →
    (s.spendOk l (b - a) = false → exec (.rangePlace id) s = .next (s.passOver l.vf) ∧
      ((∀ k, s.nextLaunch l.vf l.proc = some k → notAfter (s.rank l) (s.rank k) = true) →
        (s.passOver l.vf).launch id = some { l with failedIn := some s.energy.window })) ∧
    (s.spendOk l (b - a) = true → (s.nextLaunch l.vf l.proc).map (·.id) = some l.id →
    s.bid l.vf l.proc (b - a) = some s1 → b ≤ (a / l.c + 1) * l.c →
    ∃ (t : State) (r : Range), exec (.rangePlace id) s = .next t ∧ t.ranges = s.ranges ++ [r] ∧ r.launchId = id ∧
      r.lo = a ∧ r.hi = b ∧ r.cluster = some clu ∧ r.m = (s.workCores clu).length ∧
      (∀ l', t.launch id = some l' → l'.todo = rest) ∧
      ∀ i, a ≤ i → i < b → ∃ c ∈ t.ctxs, c.range = r.id ∧ c.holds i = true ∧ c.pc = l.pcOf l.cmd.entry)) ∧
  (∀ (k : Nat) (s : State) (r : Range) (l : Launch), s.range k = some r → s.launch r.launchId = some l →
    ((∃ c ∈ s.ctxs, c.range = k) ∨ r.mq ≠ [] ∨ (∃ x ∈ s.xfers, x.range = k) → exec (.rangeRetire k) s = .next s) ∧
    ((∀ c ∈ s.ctxs, c.range ≠ k) → r.mq = [] → (∀ x ∈ s.xfers, x.range ≠ k) →
      ∃ t, exec (.rangeRetire k) s = .next t ∧ t.range k = none ∧
        t.launch r.launchId = some { l with retired := l.retired + (r.hi - r.lo) })) ∧
  (∀ (id : Nat) (s : State) (l : Launch), s.launch id = some l →
    (l.tend = none → l.status = none → (l.drain = true ∨ l.todo ≠ [] ∨ ∃ r ∈ s.ranges, r.launchId = id) →
      exec (.launchEnd id) s = .next s) ∧
    (l.tend = none → (l.status ≠ none ∨ l.drain = false ∧ l.todo = [] ∧ ∀ r ∈ s.ranges, r.launchId ≠ id) →
      ∃ t, exec (.launchEnd id) s = .next t ∧ (∀ r ∈ t.ranges, r.launchId ≠ id) ∧
        ∀ l', t.launch id = some l' → l'.status = some (l.status.getD 0) ∧ l'.tend = some s.mer.lo) ∧
    (l.tend ≠ none → (∃ x, s.taken l.taken = some x) → s.launchUnacked id = true → exec (.launchEnd id) s = .next s) ∧
    (∀ x, l.tend ≠ none → s.taken l.taken = some x → s.launchUnacked id = false → x.cmd.recaddr = 0 → x.cmd.cmpaddr = 0 →
      ∃ t, exec (.launchEnd id) s = .next t ∧ t.launch id = none ∧ ∀ y ∈ t.disp.cmds, y.id ≠ x.id))

/-- Work queues, commands and the life of a launch. Where the manual is open, by the choices of log entries 23, 36,
37, 42. -/
def Obligations.LaunchEvents : Prop := Rules.WorkQueues ∧ Rules.Commands ∧ Rules.RangesOfLaunches

/-! ## Events: stopping, saving and restoring (08, 10, 12) -/

/-- BARRIER_RANGE_SAVE, RANGE_RESTORE, VF_STOPPED, SLICE_END and PERIOD_START (R192, R235, R283, R287, R290). Where
the manual is open, by the choices of log entries 39, 40, 64, 84. -/
def Obligations.SaveEvents : Prop :=
  (∀ (k : Nat) (s : State) (r : Range) (l : Launch), s.range k = some r → s.launch r.launchId = some l →
    let more := l.todo ≠ [] ∨ ∃ x ∈ s.ranges, x.launchId = l.id ∧ x.saved = true
    (¬ more ∨ s.allAtBarrier r = false ∨ s.rangeStopped r = false → exec (.barrierRangeSave k) s = .next s) ∧
    (∀ clu st, more → s.allAtBarrier r = true → s.rangeStopped r = true → r.cluster = some clu →
      s.saveRoom r l.vf clu = some st →
      ∃ t r', exec (.barrierRangeSave k) s = .next t ∧ t.range k = some r' ∧ r'.cluster = none ∧ r'.saved = true ∧
        r'.atBarrier = true ∧ r'.store = st ∧ r'.scratch = r.scratch ∧ r'.tiles = r.tiles)) ∧
  (∀ (k : Nat) (s s1 : State) (r : Range) (l : Launch) (clu : Nat), s.range k = some r → s.launch r.launchId = some l →
    placeOrder.find? (fun x => s.clusterFree x && s.roomOn l r x) = some clu → s.svc.dead = false →
    s.svc.recovery = false → s.mayRestore r = true → s.vfPlaces l.vf = true →
    (s.passRanges l.vf r.order).bid l.vf l.proc (r.hi - r.lo) = some s1 →
    (∀ x ∈ s.ranges, x.id ≠ k → x.order < r.order → s.mayRestore x = true →
      ∀ y ∈ s.launches, y.id = x.launchId → y.vf ≠ l.vf) →
    ∃ t, exec (.rangeRestore k) s = .next t ∧
      t.range k = some { r with
        cluster := some clu, saved := false, atBarrier := false, failedIn := none, etlb := []
        mq := r.mq.map fun (e : MqEntry) => { e with parked := none } }) ∧
  (∀ (k : Nat) (s : State) (r : Range) (l : Launch) (clu : Nat), s.range k = some r → s.launch r.launchId = some l →
    placeOrder.find? (fun x => s.clusterFree x && s.roomOn l r x) = some clu → s.svc.dead = false →
    s.svc.recovery = false → s.vfPlaces l.vf = true → s.waitsPlace r = true → s.mayRestore r = false →
    exec (.rangeRestore k) s = .next (s.passRanges l.vf r.order) ∧
      (s.passRanges l.vf r.order).range k = some { r with failedIn := some s.energy.window }) ∧
  (∀ vf s, ((s.acct vf).state ≠ 1 ∧ (s.acct vf).sliceOver = false ∨
      ∃ l ∈ s.launches, l.vf = vf ∧ s.launchStopped l.id = false) → exec (.vfStopped vf) s = .next s) ∧
  (∀ vf s, ((s.acct vf).state = 1 ∨ (s.acct vf).sliceOver = true) →
    (∀ l ∈ s.launches, l.vf = vf → s.launchStopped l.id = true) →
    ∃ t, exec (.vfStopped vf) s = .next t ∧
      (t.acct vf).state = if (s.acct vf).state = 1 then 2 else (s.acct vf).state) ∧
  (∀ vf s, vf < 64 →
    let a := s.acct vf
    exec (.sliceEnd vf) s = .next (s.setAcct vf { a with sliceOver := true }) ∧
    exec (.periodStart vf) s =
      .next (if a.sliceOver = true ∧ (a.slice = 0 ∨ a.period = 0 ∨ a.clumax = 0) then s
        else s.setAcct vf { a with sliceOver := false }))

/-! ## Events: host commands (12) -/

/-- The nine host commands (R278, R281, R291 to R293) on arguments that read: their results, and what a successful one
does; a command of the management process alone answers DENIED to any other. Where the manual is open, by the choices
of log entries 5, 41, 43, 49; of 98, by which a VF that holds more than it now may stops at once; of 99, by which the room of
an image is checked before anything stops; and of 114, by which a RESTORE without parking places or lock room waits. -/
def Obligations.HostCommands : Prop :=
  (∀ cmd s s1 x bs, s.hostArgs cmd 0x10 x s1 bs →
    (s1.target x (argOf bs 0) = none → s1.taking x (argOf bs 0) = none → exec (.kill cmd) s = s1.answers x 0x11) ∧
    (∀ y, s1.target x (argOf bs 0) = none → s1.taking x (argOf bs 0) = some y →
      exec (.kill cmd) s = (s1.beginLaunch y (newLaunch y []) (some 8)).answers x 0x10) ∧
    (∀ l, s1.target x (argOf bs 0) = some l →
      ((s1.drain l.id).launchStopped l.id = true → exec (.kill cmd) s = ((s1.drain l.id).endLaunch l.id 8).answers x 0x10) ∧
      ((s1.drain l.id).launchStopped l.id = false → exec (.kill cmd) s = .next (s1.drain l.id)))) ∧
  (∀ cmd s s1 x bs, s.hostArgs cmd 0x11 x s1 bs →
    let va := BitVec.ofNat 64 (argOf bs 1)
    (s1.target x (argOf bs 0) = none → exec (.checkpoint cmd) s =
      if s1.taking x (argOf bs 0) = none then s1.answers x 0x11 else .next s1) ∧
    (∀ l, s1.target x (argOf bs 0) = some l →
      let size := 20 + (imageBody l (s1.rangesOf l.id) 0).length
      let s2 := s1.drain l.id
      (argOf bs 2 < size → l.drain = false → exec (.checkpoint cmd) s = s1.answers x 0x12) ∧
      (∀ ps, size ≤ argOf bs 2 → s1.dispPieces x.vf x.proc wantWrite va size = .ok ps →
        s2.launchStopped l.id = false → exec (.checkpoint cmd) s = .next s2) ∧
      (∀ ps qs, size ≤ argOf bs 2 → s1.dispPieces x.vf x.proc wantWrite va size = .ok ps →
        s2.launchStopped l.id = true → (s2.flushAll l.id).launchUnacked l.id = false →
        (s2.flushAll l.id).dispPieces x.vf x.proc wantWrite va size = .ok qs →
        (∀ k < size, (s2.flushAll l.id).underTest (pieceAt qs k).1 = false) →
        ∃ (t : State) (im : Image), exec (.checkpoint cmd) s = .next t ∧ t.images = s1.images ++ [im] ∧
          im.launch.id = l.id ∧ im.addr = va ∧ im.bytes.length = size ∧
          ∀ l', t.launch l.id = some l' → l'.status ≠ none))) ∧
  (∀ cmd s s1 x bs, s.hostArgs cmd 0x12 x s1 bs → ∀ s2 im,
    s1.dispRead x.vf x.proc (BitVec.ofNat 64 (argOf bs 0)) (argOf bs 1) = .ok (s2, im) →
    (s2.imageAt im = none → exec (.restore cmd) s = s2.answers x 0x13) ∧
    (∀ i, s2.imageAt im = some i → exec (.restore cmd) s =
      .next (if 4096 < s2.parkedHere + i.msgs.length then s2 else (s2.restoreImage x i).getD s2))) ∧
  (∀ cmd s s1 x bs, s.hostArgs cmd 0x13 x s1 bs →
    exec (.resolve cmd) s = (s1.resolvePage x.vf x.proc (pageArg bs)).answers x 0x10) ∧
  (∀ cmd s s1 x bs, s.hostArgs cmd 0x14 x s1 bs → s1.host.faults.filter (fun f => f.vf == x.vf && f.proc == x.proc &&
      f.page == pageArg bs) = [] → (∀ y ∈ s1.disp.cmds, y.parked ≠ some ((pageArg bs).toNat / 2 ^ 16)) →
    exec (.refuse cmd) s = (s1.resolvePage x.vf x.proc (pageArg bs)).answers x 0x10) ∧
  (∀ cmd s s1 x bs f l, s.hostArgs cmd 0x14 x s1 bs → f ∈ s1.host.faults → f.vf = x.vf → f.proc = x.proc →
    f.page = pageArg bs → l ∈ f.parties →
    ∃ t, exec (.refuse cmd) s = .next t ∧ ∀ l', t.launch l = some l' → l'.status ≠ none) ∧
  (∀ p ∈ [(Instr.vfacct, (0x18 : Nat)), (Instr.partition, 0x19), (Instr.preemptvf, 0x1A), (Instr.procwt, 0x1B)],
    ∀ cmd s s1 x bs, s.hostArgs cmd p.2 x s1 bs → (x.vf ≠ 0 ∨ x.proc ≠ 255) → exec (p.1 cmd) s = s1.answers x 0x14) ∧
  (∀ cmd s s1 x bs, s.hostArgs cmd 0x18 x s1 bs → x.vf = 0 → x.proc = 255 →
    let vf := argOf bs 0
    (64 ≤ vf → exec (.vfacct cmd) s = s1.answers x 0x11) ∧
    (vf < 64 → (s1.acct vf).setField (argOf bs 1) (argOf bs 2) = none → exec (.vfacct cmd) s = s1.answers x 0x11) ∧
    (∀ a, vf < 64 → (s1.acct vf).setField (argOf bs 1) (argOf bs 2) = some a → s1.acctOk vf a = false →
      exec (.vfacct cmd) s = s1.answers x 0x14) ∧
    (∀ a, vf < 64 → (s1.acct vf).setField (argOf bs 1) (argOf bs 2) = some a → s1.acctOk vf a = true →
      let b := (if argOf bs 1 = 0 then a.spend else a).revive
      exec (.vfacct cmd) s =
        (s1.setAcct vf { b with sliceOver := b.sliceOver || s1.overQuota vf b }).answers x 0x10)) ∧
  (∀ cmd s s1 x bs, s.hostArgs cmd 0x19 x s1 bs → x.vf = 0 → x.proc = 255 →
    let fits := argOf bs 0 % 2 ^ 27 = 0 ∧ argOf bs 0 ≤ 2 ^ 31 ∧ argOf bs 1 % 2 ^ 26 = 0 ∧
      argOf bs 0 + argOf bs 1 ≤ 46 * 2 ^ 27 ∧ ∀ r ∈ s1.ranges, r.cluster = none
    (¬ fits → exec (.partition cmd) s = s1.answers x 0x14) ∧
    (fits → exec (.partition cmd) s = ({ s1 with svc := { s1.svc with
      cacheUnits := argOf bs 0 / 2 ^ 27, pinUnits := argOf bs 1 / 2 ^ 26 } } : State).answers x 0x10)) ∧
  (∀ cmd s s1 x bs, s.hostArgs cmd 0x1A x s1 bs → x.vf = 0 → x.proc = 255 →
    (64 ≤ argOf bs 0 → exec (.preemptvf cmd) s = s1.answers x 0x11) ∧
    (argOf bs 0 < 64 → exec (.preemptvf cmd) s =
      (s1.setAcct (argOf bs 0) { s1.acct (argOf bs 0) with sliceOver := true }).answers x 0x10)) ∧
  (∀ cmd s s1 x bs, s.hostArgs cmd 0x1B x s1 bs → x.vf = 0 → x.proc = 255 →
    (64 ≤ argOf bs 0 ∨ 256 ≤ argOf bs 1 → exec (.procwt cmd) s = s1.answers x 0x11) ∧
    (argOf bs 0 < 64 → argOf bs 1 < 256 → 255 < argOf bs 2 → exec (.procwt cmd) s = s1.answers x 0x14) ∧
    (argOf bs 0 < 64 → argOf bs 1 < 256 → argOf bs 2 ≤ 255 → exec (.procwt cmd) s =
      (s1.setProc (argOf bs 0) (argOf bs 1) { s1.proc (argOf bs 0) (argOf bs 1) with weight := argOf bs 2 }).answers x 0x10))

/-! ## Events: group barriers and energy (08, 10, 12) -/

/-- BARRIER_ARRIVAL_MESSAGE and BARRIER_RELEASE (R190, R191): a message on its way brings the items it names to its
level, and nobody else; the count of another package is kept, and where no launch of its job is here tells how far the job
has come; a release advances the generation, and every context of
the job that waits for it goes on. Where the manual is open, by the choices of log entry 35. -/
def Obligations.BarrierEvents : Prop :=
  (∀ (m : BarrierMsg) (s : State), m.node ≠ s.fabric.node → (m.items ≠ [] ∨ m.complete = false) →
    ∃ t, exec (.barrierArrivalMessage m) s = .next t ∧
      (⟨m.node, m.launchId, m.job, m.group, m.gen, m.complete⟩ : PeerCount) ∈ t.disp.peers ∧
      (s.jobLaunches m.job m.group = [] → m.gen ≤ t.released m.job m.group)) ∧
  (∀ (m : BarrierMsg) (s : State) (l : Launch), m.node = s.fabric.node → s.launch m.launchId = some l →
    m ∉ (l.gen m.group).sent → m.items ≠ [] → exec (.barrierArrivalMessage m) s = .next s) ∧
  (∀ (m : BarrierMsg) (s : State) (l : Launch), m.node = s.fabric.node → s.launch m.launchId = some l →
    m ∈ (l.gen m.group).sent →
    ∃ t, exec (.barrierArrivalMessage m) s = .next t ∧ ∀ l', t.launch m.launchId = some l' →
      m ∉ (l'.gen m.group).sent ∧ ∀ x v, kget (l.gen m.group).levels x = some v →
        kget (l'.gen m.group).levels x = some (if inIntervals m.items x then max (levelNo m.level) v else v)) ∧
  (∀ id k s l, s.launch id = some l → s.mayRelease l.cmd.job k = false → exec (.barrierRelease id k) s = .next s) ∧
  (∀ id k s l, s.launch id = some l → (∃ g ∈ l.groups, g.k = k) → s.mayRelease l.cmd.job k = true →
    ∃ t, exec (.barrierRelease id k) s = .next t ∧ t.released l.cmd.job k = s.released l.cmd.job k + 1 ∧
      ∀ c l' a, s.ctx c.id = some c → s.launchOf c = some l' → l' ∈ s.jobLaunches l.cmd.job k →
        c.wait = .group k (s.released l.cmd.job k) a → ∃ d, t.ctx c.id = some d ∧ d.wait = .none ∧ d.pc = c.pc)

/-- CHARGE_POST, ACCOUNTING_WINDOW_END and CALIBRATION_LOAD (R255 to R257, R282, R283): the whole EU of a charge leave
the balance of its VF and reach its launch, the rest stays; a window's end gives every tile its factor, shares the
total of the residuals and the overhead among the VFs and the device without loss, and refills each account up to its
cap. Where the manual is open, by the choices of log entries 2, 47, 75, 102. -/
def Obligations.EnergyEvents : Prop :=
  (∀ (s : State) (c : Charge), s.energy.charges = [c] → c.remote = false →
    let eu : Nat := c.amount / 65536
    let a := s.acct c.vf
    let left : Int := wrap64 (a.bal - eu)
    ∃ t, exec (.chargePost c.tile) s = .next t ∧ (eu = 0 → t.acct c.vf = a ∧ t.launch c.launchId = s.launch c.launchId) ∧
      (eu ≠ 0 → (t.acct c.vf).bal = left ∧ (t.acct c.vf).deepest = min a.deepest left ∧
        (t.acct c.vf).state = if a.state = 0 ∧ left ≤ 0 then 1 else a.state) ∧
      (∀ v, v ≠ c.vf → t.acct v = s.acct v) ∧
      (∀ l, eu ≠ 0 → s.launch c.launchId = some l →
        t.launch c.launchId = some { l with energy := (l.energy + eu) % 2 ^ 64 }) ∧
      (eu ≠ 0 → (t.tile c.tile).posted = ((s.tile c.tile).posted + eu) % 2 ^ 64) ∧
      t.energy.charges = if c.amount % 65536 = 0 then [] else [{ c with amount := c.amount % 65536 }]) ∧
  (∀ (s : State) (ms : List TileMeas) (overhead : Int), s.fabric.queued = [] →
    ∃ (t : State) (part : Nat → Int) (own : Int), exec (.accountingWindowEnd ms overhead) s = .next t ∧
      t.energy.window = s.energy.window + 1 ∧
      (∀ k ∈ allTiles, t.tile k = { s.tile k with
        f := nextFactor (s.tile k).f (s.tile k).raw (measOf ms k).energy (measOf ms k).idle
        raw := 0, posted := 0, last := (measOf ms k).energy }) ∧
      t.energy.device = wrap64 (s.energy.device + own) ∧
      own + ((List.range 64).map part).sum =
        overhead + (allTiles.map fun k => ((measOf ms k).energy : Int) - (s.tile k).posted).sum ∧
      ∀ vf < 64, (s.acct vf ≠ Account.reset ∨ s.hasWork vf = true) →
        let a := s.acct vf
        let fill (x add cap : Int) : Int := if cap < x then x else min (x + add) cap
        let live := a.resident || s.hasWork vf
        (live = false → part vf = 0) ∧
          (t.acct vf).bal = fill (if live then wrap64 (a.bal - part vf) else a.bal) a.refill a.cap ∧
          (t.acct vf).rbal = wrap64 (min (a.rbal + a.rrefill) a.rcap) ∧ (t.acct vf).shared = wrap64 (part vf) ∧
          (t.acct vf).posted = 0) ∧
  (∀ x : Int, -2 ^ 63 ≤ x → x < 2 ^ 63 → wrap64 x = x) ∧
  (∀ f raw e idle, raw ≠ 0 → 32768 ≤ nextFactor f raw e idle ∧ nextFactor f raw e idle ≤ 131072) ∧
  (∀ k coefs s, isTile k = true → coefs.length = 11 → exec (.calibrationLoad k coefs) s = .next { s with
    energy := { s.energy with tiles := kset s.energy.tiles k { s.tile k with coefs := coefs } } })

/-! ## Events: Meridian (13) -/

/-- MERIDIAN_TICK, TIMING_FLIT, REFERENCE_INPUT, OSCILLATOR_DISAGREEMENT and STANDBY_TAKEOVER (R301 to R310): a tick moves
the ends of the computed interval apart, and the reported pair, rounded outward, never steps back; a neighbour's pair or a
reference is intersected with it; an empty intersection, a disagreement or an unusable standby fails with its cause, and
FAILED freezes lo and puts hi at the highest time. -/
def Rules.Interval : Prop :=
  let top : Nat := 2 ^ 64 - 1
  let failed (s t : State) (cause : Nat) : Prop :=
    t.mer.state = 3 ∧ t.mer.cause = cause ∧ t.mer.lo = s.mer.lo ∧ t.mer.hi = top ∧ t.mer.dielo = s.mer.lo ∧ t.mer.diehi = top
  let copied (t : State) : Prop := t.mer.dielo = t.mer.lo ∧ t.mer.diehi = min (t.mer.hi + 2) top
  let synced (s t : State) (a b : Nat) : Prop :=
    t.mer.clo = a * 2 ^ 32 ∧ t.mer.chi = b * 2 ^ 32 ∧ t.mer.lo = a ∧ t.mer.hi = (if s.mer.synced then s.mer.hi else b) ∧
      t.mer.synced = true ∧ copied t
  (∀ s, s.mer.state ≠ 3 → s.mer.synced = true →
    ∃ t, exec .meridianTick s = .next t ∧ t.mer.clo = min (s.mer.clo + 9999 * 2 ^ 32 / 10000) (top * 2 ^ 32) ∧
      t.mer.chi = min (s.mer.chi + (10001 * 2 ^ 32 + 9999) / 10000) (top * 2 ^ 32) ∧
      t.mer.lo = max (t.mer.clo / 2 ^ 32) s.mer.lo ∧ t.mer.hi = max ((t.mer.chi + 2 ^ 32 - 1) / 2 ^ 32) s.mer.hi ∧ copied t) ∧
  (∀ s, (s.mer.state = 3 ∨ s.mer.synced = false) → ∃ t, exec .meridianTick s = .next t ∧
    (t.mer.clo, t.mer.chi, t.mer.lo, t.mer.hi, t.mer.state) =
      (s.mer.clo, s.mer.chi, s.mer.lo, s.mer.hi, s.mer.state)) ∧
  (∀ (k lo hi : Nat) (s : State) (p : Port), s.fabric.ports[k]? = some p →
    let a := max s.mer.lo (lo + p.dmin)
    let b := min s.mer.hi (hi + (p.rho - p.dmin))
    (p.carries = false → exec (.timingFlit k lo hi) s = .next s) ∧
    (p.carries = true → ∃ t, exec (.timingFlit k lo hi) s = .next t ∧ kget t.mer.heard k = some s.mer.ticks ∧
      (s.mer.state = 3 → (t.mer.lo, t.mer.hi, t.mer.dielo, t.mer.diehi, t.mer.state, t.mer.cause, t.mer.mlast) =
        (s.mer.lo, s.mer.hi, s.mer.dielo, s.mer.diehi, 3, s.mer.cause, s.mer.mlast))) ∧
    (p.carries = true → s.mer.state ≠ 3 → b < a → ∃ t, exec (.timingFlit k lo hi) s = .next t ∧ failed s t 1) ∧
    (p.carries = true → s.mer.state ≠ 3 → a ≤ b → s.mer.hi ≤ top →
      ∃ t, exec (.timingFlit k lo hi) s = .next t ∧ synced s t a b ∧ t.mer.mlast = a)) ∧
  (∀ present x s, s.mer.ref = 0 ∨ present = false → exec (.referenceInput present x) s = .next s) ∧
  (∀ x s, s.mer.ref ≠ 0 → s.mer.state ≠ 3 →
    let a := max s.mer.lo (x - s.mer.uref)
    let b := min s.mer.hi (x + s.mer.uref)
    (b < a → ∃ t, exec (.referenceInput true x) s = .next t ∧ failed s t 2) ∧
    (a ≤ b → s.mer.hi ≤ top → ∃ t, exec (.referenceInput true x) s = .next t ∧ synced s t a b)) ∧
  (∀ s, s.mer.state ≠ 3 → ∃ t, exec .oscillatorDisagreement s = .next t ∧ failed s t 3) ∧
  (∀ usable s, s.mer.unit ≠ 1 → s.mer.state ≠ 3 →
    let a := max (s.mer.lo * 2 ^ 32) s.mer.standbyLo
    let b := min (s.mer.hi * 2 ^ 32) s.mer.standbyHi
    (usable = false ∨ b < a → ∃ t, exec (.standbyTakeover usable) s = .next t ∧ failed s t 4 ∧ t.mer.unit = 1) ∧
    (usable = true → a ≤ b → s.mer.synced = true → ∃ t, exec (.standbyTakeover usable) s = .next t ∧ t.mer.unit = 1 ∧
      t.mer.clo = a ∧ t.mer.chi = b ∧ s.mer.lo ≤ t.mer.lo ∧ s.mer.hi ≤ t.mer.hi ∧ copied t))

/-- STS_COMMIT, STS_RECORD_ARRIVAL, STS_STATUS_RETURN, RECORD_FOLD, LDAT_ANSWER and TWAIT_WAKE (R313, R317, R319, R352): a
stamped store is sent once local lo is past its stamp, and fails with the package; its home rejects one older than MWIN or
while FAILED, and else puts the record on the line; an answered store or read is complete, and the read of another node waits at its
home for its time; a time that has come ends its wait. -/
def Rules.Stamps : Prop :=
  (∀ s o r x items, s.op o.id = some o → o.what = .sts r .waiting x items → s.opRuns o = true →
    (s.mer.state = 3 → ∃ t, exec (.stsCommit o.id) s = .next t ∧ t.op o.id = none) ∧
    (s.mer.state ≠ 3 → s.mer.dielo ≤ r.stamp → exec (.stsCommit o.id) s = .next s) ∧
    (s.mer.state ≠ 3 → r.stamp < s.mer.dielo → s.acked o = true → ∃ t, exec (.stsCommit o.id) s = .next t ∧
      t.op o.id = some { o with what := .sts r .sent x items })) ∧
  (∀ s o r x items, s.op o.id = some o → o.what = .sts r .sent x items → r.op = o.id → o.id ≠ 0 → s.remote r.pa = false →
    (r.size = 4 ∨ r.size = 8) → r.pa % r.size = 0 → s.lineMiss (r.pa / 64) = false →
    ∃ t, exec (.stsRecordArrival r) s = .next t ∧
      t.op o.id = some { o with what := .sts r (.answered (s.takeRecord r).2) x items }) ∧
  (∀ (s : State) (r : StsRec),
    (s.mer.state = 3 → s.takeRecord r = (s, 4)) ∧
    (s.mer.state ≠ 3 → r.stamp + s.mer.mwin < s.mer.dielo → s.takeRecord r = (s, 1)) ∧
    (∀ l, s.mer.state ≠ 3 → s.mer.dielo ≤ r.stamp + s.mer.mwin → s.mem.deltas = [] →
      kget s.mem.slines (r.pa / 64) = some l → l.slots.length < 4 →
      (s.takeRecord r).2 = 0 ∧ kget (s.takeRecord r).1.mem.slines (r.pa / 64) = some { l with
        slots := recIns ⟨r.stamp, r.node, r.g, r.pa % 64, r.size, r.data⟩ l.slots, has := true })) ∧
  (∀ s o r v x items st, s.op o.id = some o → o.what = .sts r (.answered v) x items →
    ∃ t, exec (.stsStatusReturn o.id st) s = .next t ∧ t.op o.id = none) ∧
  (∀ s o r x items st, s.op o.id = some o → o.what = .sts r .sent x items → s.remote r.pa = true → st ∈ [0, 1, 4] →
    (s.txUnsent o.id = true → exec (.stsStatusReturn o.id st) s = .next s) ∧
    (s.txUnsent o.id = false → ∃ t, exec (.stsStatusReturn o.id st) s = .next t ∧ t.op o.id = none)) ∧
  (∀ line s l x xs, kget s.mem.slines line = some l → l.records = x :: xs →
    (s.mer.dielo ≤ x.stamp + s.mer.mret → exec (.recordFold line) s = .next s) ∧
    (x.stamp + s.mer.mret < s.mer.dielo → ∃ t, exec (.recordFold line) s = .next t ∧
      kget t.mem.slines line = some (l.fold x))) ∧
  (∀ s o tm ty pa d x items, s.op o.id = some o → o.what = .ldat tm ty pa d x items →
    (s.remote pa = false → s.mer.state ≠ 3 → s.mer.dielo ≤ tm.toNat + s.mer.mwin →
      exec (.ldatAnswer o.id none) s = .next s) ∧
    (s.remote pa = false → s.mer.state = 3 → ∃ t, exec (.ldatAnswer o.id none) s = .next t ∧ t.op o.id = none) ∧
    (s.remote pa = false → s.mer.state ≠ 3 → tm.toNat + s.mer.mwin < s.mer.dielo →
      (∀ k < ty.bytes, s.poisoned (pa + k) = false) → s.lineMiss (pa / 64) = false →
      ∃ t, exec (.ldatAnswer o.id none) s = .next t ∧ t.op o.id = none) ∧
    (s.remote pa = false → s.mer.state ≠ 3 → tm.toNat + s.mer.mwin < s.mer.dielo →
      (∀ k < ty.bytes, s.poisoned (pa + k) = false) → s.lineMiss (pa / 64) = true →
      exec (.ldatAnswer o.id none) s = .next (s.askCxl (pa / 64))) ∧
    (∀ st v, s.remote pa = true → s.txUnsent o.id = true → exec (.ldatAnswer o.id (some (st, v))) s = .next s) ∧
    (∀ st v, s.remote pa = true → st ∈ [0, 4, 5, 6] → s.txUnsent o.id = false →
      ∃ t, exec (.ldatAnswer o.id (some (st, v))) s = .next t ∧ t.op o.id = none)) ∧
  (∀ (s : State) (o : Op) (r : RemoteReq) (tm n : Nat), s.op o.id = some o → o.what = .serveAt r → r.kind = .ldat tm n →
    s.lineMiss (r.pa / 64) = false → s.mer.state ≠ 3 →
    (s.mer.dielo ≤ tm + s.mer.mwin →
      ∃ t, exec (.ldatAnswer o.id none) s = .next t ∧ t.op o.id = some o ∧ t.fabric.replies = s.fabric.replies) ∧
    (tm + s.mer.mwin < s.mer.dielo → ∃ t bs, exec (.ldatAnswer o.id none) s = .next t ∧ t.op o.id = none ∧
      t.fabric.replies = s.fabric.replies ++ [⟨r.node, r.tag, false, bs⟩])) ∧
  (∀ ctx s c tm, s.ctx ctx = some c → c.wait = .time tm →
    (tm.toNat < s.mer.dielo ∨ s.mer.state = 3 → ∃ t, exec (.twaitWake ctx) s = .next t ∧
      t.ctx ctx = some { c with wait := .none }) ∧
    (s.mer.dielo ≤ tm.toNat → s.mer.state ≠ 3 → exec (.twaitWake ctx) s = .next s))

/-- Meridian and the stamped stores. Where the manual is open, by the choices of log entries 55, 56. -/
def Obligations.TimeEvents : Prop := Rules.Interval ∧ Rules.Stamps

/-! ## Events: links (14) -/

/-- TIMING_FLIT_SEND, FLIT_RECEIVE, RESEND_REQUEST, LANE_ERASURE, PORT_DOWN, LINK_TRAINING, PAUSE_UPDATE, KEY_STAGE,
KEY_EXHAUSTED and KEY_TIMEOUT (R303, R323 to R327): what each does to its port. Every other port is as it was, but where the
port goes down with flits that wait, which move to a port of their node's route. The last 64 flits sent are kept as their 256 bytes;
a lost data or control flit goes again under the next counter of its key, a timing flit does not. Which virtual channels a receiver pauses is
free, but never RSP or INV (R325). Where the manual is open, by the choices of log entries 58, 112. -/
def Obligations.LinkEvents : Prop :=
  (∀ (slot : Bool) (ctr src vc dst tag body : Nat), src < 2 ^ 13 → dst < 2 ^ 13 → dst ≠ src → vc < 8 → ctr < 2 ^ 32 →
    let bs := (Cargo.data src vc dst tag body).bytes slot ctr
    let f := Flit.ofBytes bs
    bs.length = 256 ∧ f.type = 0 ∧ f.vc = vc ∧ f.keyIdx = slot ∧ f.dst = dst ∧ f.src = src ∧ f.len ≤ 224 ∧ f.ctr = ctr ∧
      f.reservedZero = true) ∧
  ∀ (k : Nat) (s : State) (p : Port), s.fabric.ports[k]? = some p →
    let becomes (e : Instr) (q : Port) : Prop :=
      ∃ t, exec e s = .next t ∧ t.fabric.ports[k]? = some q ∧ ∀ j, j ≠ k → t.fabric.ports[j]? = s.fabric.ports[j]?
    let falls (e : Instr) (s1 : State) (q : Port) : Prop :=
      (∃ t, exec e s = .next t ∧ t.fabric.ports[k]? = some { q with state := 0, queue := [] } ∧
        (p.queue = [] → ∀ j, j ≠ k → t.fabric.ports[j]? = s.fabric.ports[j]?)) ∧
      ∀ src vc node tag body, p.queue = [.data src vc node tag body] →
        let s2 := s1.modPort k fun _ => { q with state := 0, queue := [] }
        exec e s = .next (s2.putOn (if node = src then s2.tierPort tag else s2.portFor node tag) (.data src vc node tag body))
    let hears (e : Instr) (q : Port) : Prop :=
      ∃ r : Port, becomes e r ∧ (r.pausing = q.pausing → r = q) ∧
        (r.pausing ≠ q.pausing → r = { q.control s.fabric.node (s.fresh + 2) false with pausing := r.pausing }) ∧
        bitOf r.pausing 1 = false ∧ bitOf r.pausing 2 = false
    let up := p.state = 2 ∨ p.state = 3
    let logged (slot : Bool) (n : Nat) (c : Cargo) : List SentFlit :=
      (p.sent ++ [(⟨slot, n, c, c.bytes slot n⟩ : SentFlit)]).drop (p.sent.length + 1 - 64)
    let sent (e : Instr) (c : Cargo) : Prop :=
      (p.staged = false ∨ (p.ordered = false ∧ p.ctr ≤ 2 ^ 31) → p.ctr + 1 < 2 ^ 32 →
        becomes e { p with ctr := p.ctr + 1, sent := logged p.keyidx p.ctr c }) ∧
      (p.staged = true → (p.ordered = true ∨ 2 ^ 31 < p.ctr) → becomes e { p with
        keyidx := !p.keyidx, staged := false, ordered := false, ctr := 1, sent := logged (!p.keyidx) 0 c }) ∧
      (p.staged = false → 2 ^ 32 ≤ p.ctr + 1 → becomes e { p with state := 4, sent := logged p.keyidx p.ctr c })
    let told (body : Nat) (keying : Bool) (q : Port) : Port := { q with
      cctr := p.cctr + 1, sent := logged p.keyidx p.cctr (.control s.fabric.node body keying) }
    let staged : Port := told s.fresh true { p with
      staged := true
      rx0 := (if p.rxidx then none else p.rx0), rx1 := (if p.rxidx then p.rx1 else none) }
    (up → sent (.timingFlitSend k) (.timing s.fabric.node s.mer.lo s.mer.hi s.fresh)) ∧ (¬ up → becomes (.timingFlitSend k) p) ∧
    (∀ c, p.sent.reverse.find? (fun x => x.ctr == c) = none → becomes (.resendRequest k c) p) ∧
    (∀ c x, p.sent.reverse.find? (fun x => x.ctr == c) = some x →
      (∀ src vc node tag body, x.cargo = .data src vc node tag body →
        (up → bitOf p.paused vc = false → sent (.resendRequest k c) x.cargo) ∧
        (¬ up ∨ bitOf p.paused vc = true → becomes (.resendRequest k c) { p with queue := p.queue ++ [x.cargo] })) ∧
      (∀ src lo hi body, x.cargo = .timing src lo hi body → becomes (.resendRequest k c) p) ∧
      (∀ src body keying, x.cargo = .control src body keying → becomes (.resendRequest k c) { p with
        cctr := p.cctr + 1, sent := logged p.keyidx p.cctr x.cargo })) ∧
    (∀ src vc node tag body, p.holds (.data src vc node tag body) = bitOf p.paused vc) ∧
    (∀ n, 2 ≤ p.state → n < 4 → p.erased = 0 → becomes (.laneErasure k n)
      (told s.fresh false { p with erased := 2 ^ n, state := if p.state = 2 then 3 else p.state })) ∧
    (∀ n, 2 ≤ p.state → n < 4 → p.erased ≠ 0 → bitOf p.erased n = false →
      falls (.laneErasure k n) { s with fresh := s.fresh + 1 } { p with erased := p.erased + 2 ^ n }) ∧
    falls (.portDown k) s p ∧
    (p.state = 0 → becomes (.linkTraining k none) { p with state := 1 }) ∧
    (∀ rho, p.state < 2 → becomes (.linkTraining k (some rho))
      ({ p with state := 2, erased := 0, rho := rho, paused := 0, asked := [] } : Port).drain) ∧
    (∀ rho, 2 ≤ p.state → becomes (.linkTraining k rho) p) ∧
    (∀ vcs, becomes (.pauseUpdate k vcs) ({ p with paused := vcs.toNat } : Port).drain) ∧
    (∀ q : Port, q.queue = [] → q.drain = q) ∧
    (∀ (q : Port) (c : Cargo), q.queue = [c] → q.drain =
      if q.carries && !q.holds c then ({ q with queue := [] } : Port).sendFlit c else q) ∧
    (p.state ≠ 0 → p.state ≠ 4 → p.staged = false → becomes (.keyStage k) staged) ∧
    (p.state = 4 → p.staged = false → becomes (.keyStage k) ({ staged with
      keyidx := !p.keyidx, staged := false, ordered := false, ctr := 0, state := (if p.erased = 0 then 2 else 3) } : Port).drain) ∧
    (p.state = 0 ∨ p.staged = true → becomes (.keyStage k) p) ∧
    (up → p.staged = false → becomes (.keyExhausted k) { p with ctr := 2 ^ 32 - 1, state := 4 }) ∧
    (p.staged = true → becomes (.keyExhausted k) p) ∧
    (p.state = 4 → falls (.keyTimeout k) s p) ∧ (p.state ≠ 4 → p.state ≠ 0 → becomes (.keyTimeout k) p) ∧
    (∀ x : RawFlit, p.state < 2 → becomes (.flitReceive k x) p) ∧
    (∀ x : RawFlit, 2 ≤ p.state → RawFlit.ok x = false →
      hears (.flitReceive k x) (told (s.fresh + 1) false { p with asked := p.asked ++ [(Flit.ofBytes x.bytes).ctr] })) ∧
    (∀ x : RawFlit, 2 ≤ p.state → RawFlit.ok x = true →
      let f := Flit.ofBytes x.bytes
      let data := f.type = 0 ∨ f.type = 2
      let last := if data then (if f.keyIdx then p.rx1 else p.rx0) else p.rxc
      ((∃ c, last = some c ∧ f.ctr ≤ c) → hears (.flitReceive k x) p) ∧
      ((∀ c, last = some c → c < f.ctr) →
        (¬ data → hears (.flitReceive k x) { p with rxc := some f.ctr }) ∧
        (data → hears (.flitReceive k x)
          (let q : Port := { p with got := if f.type = 0 then some f else p.got }
          if f.keyIdx then { q with rxidx := true, rx1 := some f.ctr } else { q with rxidx := false, rx0 := some f.ctr }))))

/-! ## Events: the fabric and the host (14) -/

/-- What a home does for another node's transaction, and what it answers (R330, R331): a read and a directory request put the
node into the line's entry; a write or an atomic acts on the bytes, its answer waiting for the other nodes of the entry; a
write-back merges by byte; a read at a time waits for the home's clock (R319); a lock is granted or parked (R245), or asked for again where no room is left for its waiter (R239); a message comes down
(R286). Answers to writes and the like are kept. Where the manual is open, by the choices of log entries 59, 114. -/
def Rules.Serves : Prop :=
  ∀ (q : RemoteReq) (s : State), anywhere q = false → s.remote q.pa = false → q.node ≠ s.fabric.node →
    reqFits q = true → (∀ x ∈ s.fabric.kept, x.req ≠ q) → s.holding q = false → 0 < (s.acct q.vf).rbal →
    s.notYet q = none → s.mem.deltas = [] → s.l2Room 0 →
    (∀ p ∈ needs q, s.poisoned p = false ∧ s.openAt 0 (.g p false) = false) →
    let answered (t : State) (hold : Bool) (bs : List Byte) : Prop :=
      t.fabric.replies = s.fabric.replies ++ [⟨q.node, q.tag, hold, bs⟩]
    let kept (t : State) (bs : List Byte) : Prop :=
      answered t false bs ∧ t.fabric.kept = s.fabric.kept ++ [⟨q, bs, s.mer.ticks⟩]
    let told : Prop := ∃ d, kget s.mem.dir (q.pa / 64) = some d ∧ d.others q.node = true
    let settled (t : State) (bs : List Byte) : Prop :=
      (¬ told → kept t bs) ∧ (told → t.fabric.replies = s.fabric.replies ∧ ∃ o ∈ t.ops, o.what = .serve q bs)
    let listed (t : State) : Prop := ∃ d, kget t.mem.dir (q.pa / 64) = some d ∧ d.names q.node = true
    let lock := LockWord.ofNat (s.sliceVal q.pa 4)
    (∀ n, q.kind = .read n → ∃ t, exec (.remoteRequest q) s = .next t ∧ listed t ∧ t.mem.home = s.mem.home ∧
      answered t false ((List.range n).map fun k => s.sliceRead (q.pa + k))) ∧
    (q.kind = .dir → ∃ t, exec (.remoteRequest q) s = .next t ∧ listed t ∧ kept t []) ∧
    (∀ bs, q.kind = .write bs → ∃ t, exec (.remoteRequest q) s = .next t ∧ settled t [] ∧
      ∀ k, k < bs.length → some (t.sliceRead (q.pa + k)) = bs[k]?) ∧
    (∀ op ty v, q.kind = .atom op ty v → ∃ t, exec (.remoteRequest q) s = .next t ∧
      settled t (leBytes ty.bytes (s.sliceVal q.pa ty.bytes)) ∧ t.sliceVal q.pa ty.bytes =
        rmwVal op ty (BitVec.ofNat 64 (s.sliceVal q.pa ty.bytes)) v % 2 ^ (8 * ty.bytes)) ∧
    (∀ ty x y, q.kind = .cas ty x y → ∃ t, exec (.remoteRequest q) s = .next t ∧
      (if s.sliceVal q.pa ty.bytes = x.toNat % 2 ^ ty.width then
        settled t (leBytes ty.bytes (s.sliceVal q.pa ty.bytes)) ∧ t.sliceVal q.pa ty.bytes = y.toNat % 2 ^ (8 * ty.bytes)
      else kept t (leBytes ty.bytes (s.sliceVal q.pa ty.bytes)) ∧
        t.sliceVal q.pa ty.bytes = s.sliceVal q.pa ty.bytes)) ∧
    (∀ x, q.kind = .sts x → ∃ t, exec (.remoteRequest q) s = .next t ∧ kept t (leBytes 1 (s.takeRecord x).2)) ∧
    (∀ bs evict, q.kind = .writeBack bs evict → ∃ t, exec (.remoteRequest q) s = .next t ∧
      (if evict then kept t [] else settled t []) ∧
      ∀ k b, bs[k]? = some b → t.sliceRead (q.pa + k) = b.getD (s.sliceRead (q.pa + k))) ∧
    (∀ tm n, q.kind = .ldat tm n →
      (s.mer.state = 3 → ∃ t, exec (.remoteRequest q) s = .next t ∧ answered t false [4]) ∧
      (s.mer.state ≠ 3 → s.mer.dielo ≤ tm + s.mer.mwin → ∃ t, exec (.remoteRequest q) s = .next t ∧
        t.fabric.replies = s.fabric.replies ∧ ∃ o ∈ t.ops, o.what = .serveAt q) ∧
      (∀ l, s.mer.state ≠ 3 → tm + s.mer.mwin < s.mer.dielo → kget s.mem.slines (q.pa / 64) = some l →
        ∃ t, exec (.remoteRequest q) s = .next t ∧ answered t false
          (BitVec.ofNat 8 (l.valueAt tm).2 :: ((l.valueAt tm).1.drop (q.pa % 64)).take n))) ∧
    (∀ write, q.kind = .lock write → (∀ x ∈ s.mem.lockq, x.pa ≠ q.pa) →
      (lock.free write = true → ∃ t, exec (.remoteRequest q) s = .next t ∧ kept t [1] ∧
        t.sliceVal q.pa 4 = (lock.hold write).toNat % 2 ^ 32) ∧
      (lock.free write = false → s.waiterRoom q.vf q.pa = none →
        ∃ t, exec (.remoteRequest q) s = .next t ∧ answered t true [] ∧ t.mem.lockq = s.mem.lockq) ∧
      (lock.free write = false → s.waiterRoom q.vf q.pa ≠ none → ∃ t x, exec (.remoteRequest q) s = .next t ∧ t.fabric.replies = s.fabric.replies ∧
        t.mem.lockq = s.mem.lockq ++ [x] ∧ x.pa = q.pa ∧ x.write = write ∧ x.peer = some q)) ∧
    (∀ write, q.kind = .unlock write → (∀ x ∈ s.mem.lockq, x.pa ≠ q.pa) →
      ∃ t, exec (.remoteRequest q) s = .next t ∧ kept t [if (lock.drop write).isNone then 1 else 0] ∧
        t.sliceVal q.pa 4 = ((lock.drop write).getD lock).toNat % 2 ^ 32) ∧
    (∀ x, q.kind = .send x → 4 ≤ x.words.length → x.words.length ≤ 64 → ∃ t m, exec (.remoteRequest q) s = .next t ∧ t.sends.msgs = s.sends.msgs ++ [m] ∧
      m.key = x.key ∧ m.words = x.words ∧ m.node = x.node ∧ m.level = .pkg ∧ m.climbing = false)

/-- REMOTE_REQUEST, TRANSACTION_RESEND, NODE_FAILED, WRITE_BACK_MERGE, INVALIDATION and OWNERSHIP_REQUEST (R330 to R332):
the home performs a transaction once, and answers it again or with HOLD; without allowance it
waits; a failed node's stores are discarded, and the fences that wait for them fail; an invalidation drops the clean bytes of
a line, and the home has its acknowledgement; the first request owns a piece. A CRNG at scope fabric of another node acts on
this package's caches and is charged (R176; that it arrives in this form is the model's choice, log 59). -/
def Rules.FabricTransactions : Prop :=
  (∀ (q : RemoteReq) (s : State), q.node = s.fabric.node ∨
    (∀ v n, q.kind ≠ .crng v n) ∧ (s.remote q.pa = true ∨ reqFits q = false) → exec (.remoteRequest q) s = .next s) ∧
  (∀ (q : RemoteReq) (s : State) (v n : Nat), q.kind = .crng v n → q.node ≠ s.fabric.node →
    (∀ x ∈ s.fabric.kept, x.req ≠ q) → s.holding q = false → 0 < (s.acct q.vf).rbal → s.mem.deltas = [] →
    exec (.remoteRequest q) s = .next ((s.chargeRemote q).crng v 3 0 q.pa n)) ∧
  (∀ (q : RemoteReq) (s : State), q.node ≠ s.fabric.node →
    (∃ v n, q.kind = .crng v n) ∨ s.remote q.pa = false ∧ reqFits q = true →
    let answered (hold : Bool) (bs : List Byte) : Prop := ∃ t, exec (.remoteRequest q) s = .next t ∧
      t.fabric.replies = s.fabric.replies ++ [⟨q.node, q.tag, hold, bs⟩] ∧ t.mem = s.mem ∧ t.fabric.kept = s.fabric.kept
    (∀ x ∈ s.fabric.kept, x.req = q → s.mer.ticks ≤ x.tick + 1000000 →
      (∀ y ∈ s.fabric.kept, y.req = q → y = x) → answered false x.answer) ∧
    ((∀ x ∈ s.fabric.kept, x.req ≠ q) →
      (s.holding q = true → answered true []) ∧
      (s.holding q = false → (s.acct q.vf).rbal ≤ 0 → exec (.remoteRequest q) s =
        .next { s with fabric := { s.fabric with queued := s.fabric.queued ++ [q] } }) ∧
      (s.holding q = false → 0 < (s.acct q.vf).rbal → (s.notYet q).isSome → answered true []))) ∧
  (∀ r s, (∀ x ∈ s.fabric.rtx, x.tag ≠ r.tag) → exec (.transactionResend r) s = .next s) ∧
  (∀ (s : State) (x : Rtx), s.fabric.rtx = [x] →
    exec (.transactionResend ⟨x.tag, true⟩) s = .next { s with fabric := { s.fabric with
      rtx := [{ x with since := s.mer.ticks }] } } ∧
    ∃ t p, exec (.transactionResend ⟨x.tag, false⟩) s = .next t ∧
      t.fabric.rtx = [{ x with resends := x.resends + 1, port := p }] ∧
      (∀ a, p = some a → a ∈ s.routesTo x.node) ∧ (p = none → s.routesTo x.node = []) ∧
      ∀ a ∈ s.routesTo x.node, some a ≠ x.port → p ≠ x.port) ∧
  (∀ node reported s, node = s.fabric.node ∨ 2 ^ 13 ≤ node ∨ node ∈ s.fabric.failed ∨ s.mayFail node reported = false →
    exec (.nodeFailed ⟨node, reported⟩) s = .next s) ∧
  (∀ (node : Nat) (s : State), s.mayFail node false = true ↔
    s.routesTo node = [] ∨ ∃ x ∈ s.fabric.rtx, x.node = node ∧ x.since + 200000 ≤ s.mer.ticks) ∧
  (∀ node reported s, node ≠ s.fabric.node → node < 2 ^ 13 → node ∉ s.fabric.failed → s.mayFail node reported = true →
    ∃ t, exec (.nodeFailed ⟨node, reported⟩) s = .next t ∧ t.fabric.failed = s.fabric.failed ++ [node] ∧
      (∀ x ∈ t.fabric.rtx, x.node ≠ node) ∧
      (∀ o f l, s.op o.id = some o → o.what = .remote node f l → t.op o.id = some { o with what := .remote node true l }) ∧
      ∀ o p f set acq dst l, s.op o.id = some o → o.what = .fence set f acq dst → p ∈ s.ops →
        p.what = .remote node false l → p.id ∈ set → t.op o.id = some { o with what := .fence set true acq dst }) ∧
  (∀ (w : Sender) pa bytes evict s, exec (.writeBackMerge w pa bytes evict) s =
    if pa % 64 = 0 then exec (.remoteRequest ⟨w.node, w.tag, w.vf, pa, .writeBack bytes evict⟩) s else .next s) ∧
  (∀ line s, ∃ t, exec (.invalidation line) s = .next t ∧
    t.mem.l2 = s.mem.l2.filter (fun e => e.1 / 64 != line || e.2.dirty) ∧
    t.mem.cp = s.mem.cp.filter (fun e => e.1 / 64 != line || e.2.dirty) ∧ t.mem.home = s.mem.home ∧
    (s.remote (64 * line) = false → t.fabric = s.fabric) ∧
    ∀ k (p : Port), s.remote (64 * line) = true → s.portFor (nodeOf (64 * line)) (2 ^ 16 + line) = some k →
      s.fabric.ports[k]? = some p →
      t.fabric.ports[k]? = some (p.put (.data s.fabric.node 2 (nodeOf (64 * line)) (2 ^ 16 + line) s.fresh))) ∧
  (∀ page piece (w : Sender) s, w.node ≠ s.fabric.node → (s.acct w.vf).rbal ≤ 0 → exec (.ownershipRequest page piece w) s =
    .next { s with fabric := { s.fabric with
      queued := s.fabric.queued ++ [⟨w.node, w.tag, w.vf, 0, .owner page piece⟩] } }) ∧
  (∀ page piece (w : Sender) s, w.node = s.fabric.node ∨ 0 < (s.acct w.vf).rbal →
    (s.coordinates page = false ∨ 32 ≤ piece → exec (.ownershipRequest page piece w) s = .next s) ∧
    ∀ ns, s.coordinates page = true → piece < 32 → kget s.fabric.replicas page = some ns → w.node ∈ ns →
      ∃ t, exec (.ownershipRequest page piece w) s = .next t ∧ kget t.fabric.owners (page * 32 + piece) =
        some ((kget s.fabric.owners (page * 32 + piece)).getD w.node))

/-- COLLAPSE (R332): the piece of a read-duplicate page that has a given owner becomes a 64 KiB page at the owner's copy,
without D, every TLB drops the page, and no access stays parked on the piece. -/
def Rules.Collapses : Prop :=
  ∀ (vf proc : Nat) (va : W64) (pa entry e : Nat) (leaf : Leaf) (s : State),
    let a := va.toNat % 2 ^ 56
    let piece := a / 2 ^ 16 % 32
    let inPage (x : Tlb) : Prop := x.vf = vf ∧ x.proc = proc ∧ x.va / 2 ^ 21 = a / 2 ^ 21
    s.bigLeaf a walkLevels (s.proc vf proc).root = some (entry, e) → s.leafOf e (2 ^ 21) = .ok leaf →
    (∀ x ∈ s.fabric.splits, x.entry ≠ entry) → s.pageHeld vf proc va = false →
    (∀ x ∈ s.mem.tlb, inPage x → s.inUse x = false) →
    (leaf.d = false ∨ leaf.w = false ∨ pa % 2 ^ 16 ≠ 0 → exec (.collapse vf proc va pa) s = .next s) ∧
    (leaf.d = true → leaf.w = true → pa % 2 ^ 16 = 0 → (nodeOf pa = s.fabric.node → pa = leaf.pa + piece * 2 ^ 16) →
      (∀ n, kget s.fabric.owners (leaf.pa / 2 ^ 21 * 32 + piece) = some n → n = nodeOf pa) →
      ∃ t x, exec (.collapse vf proc va pa) s = .next t ∧ x ∈ t.fabric.splits ∧ x.entry = entry ∧
        x.leaves[piece]? = some (ownedLeaf e pa) ∧ (∀ j < 32, j ≠ piece → x.leaves[j]? = some (e + j * 2 ^ 16)) ∧
        (∀ y ∈ t.mem.tlb, ¬ inPage y) ∧ (∀ r ∈ t.ranges, ∀ y ∈ r.etlb, ¬ inPage y) ∧
        ∀ c ∈ t.ctxs, c.wait ≠ .page vf proc (BitVec.ofNat 64 (va.toNat / 2 ^ 16 * 2 ^ 16)))

/-- RMA_WRITE, RMA_READ, UNSUPPORTED_OPERATION, NOTIFICATION_HEAD_WRITE and REGISTER_WRITE (R343, R344): a remote access
that its window grants, by a reliable delivery and under the key of its VF, is performed at the homes, any other is answered
in the negative and changes nothing; the host's head frees entries of its ring for held notices; each register takes what is
written, by a packet at the management endpoint, which belongs to VF 0, or by the service core; a port's status register (R328) and those of Meridian (R307) are read whole. -/
def Rules.HostAccesses : Prop :=
  let answered (s : State) (bs : List Byte) : State := { s with host := { s.host with answers := s.host.answers ++ [bs] } }
  (∀ w off n bytes via s, s.viaOk via = false →
    exec (.rmaWrite w off bytes via) s = .next (answered s [0]) ∧
      exec (.rmaRead w off n via) s = .next (answered s [0])) ∧
  (∀ via (s : State), s.viaOk via = true ↔
    (via.delivery = .reliableUnordered ∨ via.delivery = .reliableOrdered) ∧ ∃ key, via.key = some key ∧
      kget s.host.keys via.vf = some key) ∧
  (∀ w off bytes n via (s : State), s.viaOk via = true →
    let write : Rma := ⟨via.vf, w, off, bytes.length, true, bytes⟩
    let read : Rma := ⟨via.vf, w, off, n, false, []⟩
    ∀ x ∈ [(Instr.rmaWrite w off bytes via, write), (Instr.rmaRead w off n via, read)], ∀ m, s.rmaBytes x.2 = .error m →
      (∀ k, m = .kind k ∨ m = .park ∨ m = .copy → exec x.1 s = .next (answered s [0])) ∧
      (∀ p, m = .test p → ∃ t o, exec x.1 s = .next t ∧ t.ops = s.ops ++ [o] ∧ o.what = .rma x.2 ∧ t.host = s.host) ∧
      (∀ line, m = .cxl line → ∃ t, exec x.1 s = .next t ∧ t.lineAsked line = true ∧ (∃ o ∈ t.ops, o.what = .rma x.2) ∧
        t.host = s.host)) ∧
  (∀ (w off : Nat) (bytes : List Byte) (via : Via) (s : State) (ps : List (Nat × Bool)), s.viaOk via = true →
    s.rmaBytes ⟨via.vf, w, off, bytes.length, true, bytes⟩ = .ok ps →
    s.mem.deltas = [] → s.l2Room bytes.length → (ps.map (·.1)).Nodup → (∀ p ∈ ps, s.lost p.1 = false) →
    ∃ t, exec (.rmaWrite w off bytes via) s = .next t ∧ t.host.answers = s.host.answers ++ [[1]] ∧
      ∀ (k : Nat) (p : Nat × Bool) (b : Byte), ps[k]? = some p → bytes[k]? = some b → t.sliceRead p.1 = b) ∧
  (∀ (w off n : Nat) (via : Via) (s : State) (ps : List (Nat × Bool)), s.viaOk via = true →
    s.rmaBytes ⟨via.vf, w, off, n, false, []⟩ = .ok ps →
    s.mem.deltas = [] → (∀ p ∈ ps, s.openAt 0 (.g p.1 false) = false) →
    exec (.rmaRead w off n via) s = .next (answered s (1 :: ps.map fun (p : Nat × Bool) => s.sliceRead p.1))) ∧
  (∀ via s, exec (.unsupportedOperation via) s = .next (answered s [0])) ∧
  (∀ via (s : State), s.manages via = true ↔ s.viaOk via = true ∧ via.vf = 0) ∧
  (∀ via ring s, s.manages via = false → exec (.notificationHeadWrite via ring) s = .next (answered s [0])) ∧
  (∀ (w : MgmtWrite) (v : Via) (s : State), w.via = some v →
    exec (.registerWrite w) s = if s.manages v then exec (.registerWrite ⟨none, w.reg⟩) s else .next (answered s [0])) ∧
  (∀ (via : Via) (vf head : Nat) (s : State) (r : Ring), s.manages via = true → s.host.rings = [r] → r.vf = vf →
    r.head ≤ head → head ≤ r.tail →
    let k := min (2 ^ r.log - (r.tail - head)) r.held.length
    exec (.notificationHeadWrite via ⟨vf, head⟩) s = .next { s with host := { s.host with rings := [{ r with
      head := head, tail := r.tail + k, held := r.held.drop k
      written := r.written.drop (head - r.head) ++ r.held.take k }] } }) ∧
  (∀ node s, ∃ t, exec (.registerWrite ⟨none, .clearFailed node⟩) s = .next t ∧
    t.fabric.failed = s.fabric.failed.filter (· != node)) ∧
  (∀ vf proc pa s, vf < 64 → proc < 256 →
    ∃ t, exec (.registerWrite ⟨none, .root vf proc pa⟩) s = .next t ∧ (t.proc vf proc).root = pa % 2 ^ 56) ∧
  (∀ vf k proc base n r w s, vf < 64 → proc < 256 → k < 64 →
    ∃ t, exec (.registerWrite ⟨none, .window vf k proc base n r w⟩) s = .next t ∧
    t.host.windows.find? (fun x => x.vf == vf && x.index == k) = some ⟨vf, k, proc, base, n, r, w⟩) ∧
  (∀ vf addr log s, vf < 64 → 4 ≤ log → log ≤ 16 → ∃ t, exec (.registerWrite ⟨none, .ring vf addr log⟩) s = .next t ∧
    ∃ r, t.host.rings.find? (·.vf == vf) = some r ∧ r.addr = addr ∧ r.log = log ∧ r.head = 0) ∧
  (∀ node ports s, node < 2 ^ 13 → ports.length ≤ 8 → (∀ p ∈ ports, p < 64) →
    ∃ t, exec (.registerWrite ⟨none, .route node ports⟩) s = .next t ∧ kget t.fabric.routes node = some ports) ∧
  (∀ page ns s, (∀ n ∈ ns, n < 2 ^ 13) →
    ∃ t, exec (.registerWrite ⟨none, .replicas page ns⟩) s = .next t ∧ kget t.fabric.replicas page = some ns) ∧
  (∀ b s, exec (.registerWrite ⟨none, .tier b⟩) s = .next { s with fabric := { s.fabric with tier := b } }) ∧
  (∀ (k v : Nat) (s : State) (p : Port), s.fabric.ports[k]? = some p →
    ∃ t, exec (.registerWrite ⟨none, .dmin k v⟩) s = .next t ∧ t.fabric.ports[k]? = some { p with dmin := v }) ∧
  (∀ node a b c ref uref s, node < 2 ^ 13 → 16 ≤ a → a ≤ 1000000 → 1000 ≤ b → b ≤ 1048576 → 16000 ≤ c → c ≤ 16777216 →
    exec (.registerWrite ⟨none, .firmware node a b c ref uref⟩) s = .next { s with svc := { s.svc with
      firmware := ⟨node, a, b, c, ref, uref⟩ } }) ∧
  (∀ vf key s, vf < 64 → ∃ t, exec (.registerWrite ⟨none, .security vf key⟩) s = .next t ∧ kget t.host.keys vf = some key) ∧
  (∀ (k : Nat) (s : State) (p : Port), s.fabric.ports[k]? = some p →
    exec (.registerWrite ⟨none, .linkstat k⟩) s = .next (answered s (1 :: leBytes 8 p.linkstat)) ∧
    p.linkstat % 2 ^ 3 = p.state % 2 ^ 3 ∧ p.linkstat / 2 ^ 4 % 2 ^ 4 = p.erased % 2 ^ 4 ∧
    bitOf p.linkstat 8 = p.keyidx ∧ bitOf p.linkstat 9 = p.staged ∧ p.linkstat / 2 ^ 16 % 2 ^ 32 = p.ctr % 2 ^ 32 ∧
    p.linkstat / 2 ^ 48 = p.paused % 2 ^ 8 ∧ bitOf p.linkstat 3 = false ∧ p.linkstat / 2 ^ 10 % 2 ^ 6 = 0 ∧
    ∃ t, exec (.registerWrite ⟨none, .keySwitch k⟩) s = .next t ∧
      t.fabric.ports[k]? = some { p with ordered := p.ordered || p.staged }) ∧
  (∀ (s : State) (k v : Nat), [(s.mer.hi - s.mer.lo + 1) / 2, s.mer.mulim, s.mer.mwin, s.mer.mret, s.mer.mlast,
      s.mer.mstat, s.mer.lo, s.mer.hi, s.mer.breach % 2 ^ 64][k]? = some v →
    exec (.registerWrite ⟨none, .meridian k⟩) s = .next (answered s (1 :: leBytes 8 v)))

/-- The fabric and the host's accesses. Where the manual is open, by the choices of log entries 19, 27, 59, 60, 61, 62, 101,
114. -/
def Obligations.FabricEvents : Prop := Rules.Serves ∧ Rules.FabricTransactions ∧ Rules.Collapses ∧ Rules.HostAccesses

/-! ## Events: group sends (14) -/

/-- READINESS_REPORT, MESSAGE_STEER, MESSAGE_TAKE, PARKED_WAKE and SEND_STATUS_RETURN (R333 to R338): a true report
reaches the parent's count, saturating; a message climbs from a core without takers, and comes down to the child that
the pointer picks; a context that qualifies takes it into its channel; a parked message climbs again when its key has
a count; a status completes the send; the package switch tells the switch tier what moves there. Where the manual is open, by the
choices of log entries 48, 113. -/
def Obligations.SendEvents : Prop :=
  (∀ (d : Sends) (level : Level) (place child : Nat) (key : Key) (n : Nat) (live : Bool), (n ≠ 0 ∨ live = true) →
    (∃ x ∈ d.ready, x.level = level ∧ x.place = place ∧ x.key = key ∧ x.child ≠ child) →
    (⟨level, place, child, key, min n 65535, live⟩ : Ready) ∈ (d.report level place child key n live).ready) ∧
  (∀ child key total live s, s.slotTotal (child / 64) (child % 64) key ≠ (total, live) →
    exec (.readinessReport .core child key total live) s = .next s) ∧
  (∀ (child : Nat) (key : Key) (s : State) (c : Ctx) (l : Launch), s.inSeat (child / 64) (child % 64) = some c →
    s.launchOf c = some l → ∃ t, exec (.readinessReport .core child key (c.offersOf l key) (c.member l key)) s = .next t ∧
      let core := child / 64
      let same (level : Level) (place : Nat) (a b : Sends) : Prop :=
        (a.total level place key = 0 ↔ b.total level place key = 0) ∧ a.live level place key = b.live level place key
      let d1 := s.sends.report .core core (child % 64) key (c.offersOf l key) (c.member l key)
      let d2 := d1.report .die (core / 128) (core % 128) key (d1.total .core core key) (d1.live .core core key)
      let d3 := d2.report .pkg 0 (core / 128) key (d2.total .die (core / 128) key) (d2.live .die (core / 128) key)
      (same .core core s.sends d1 → t = { s with sends := d1 }) ∧
      (¬ same .core core s.sends d1 → same .die (core / 128) d1 d2 → t = { s with sends := d2 }) ∧
      (¬ same .core core s.sends d1 → ¬ same .die (core / 128) d1 d2 →
        t = ({ s with sends := d3 } : State).tierReport d2 key)) ∧
  (∀ child key s, exec (.readinessReport .die child key (s.sends.total .core child key) (s.sends.live .core child key)) s =
    .next { s with
      sends := s.sends.report .die (child / 128) (child % 128) key (s.sends.total .core child key)
        (s.sends.live .core child key) }) ∧
  (∀ child key s, exec (.readinessReport .pkg child key (s.sends.total .die child key) (s.sends.live .die child key)) s =
    .next (({ s with
      sends := s.sends.report .pkg 0 child key (s.sends.total .die child key) (s.sends.live .die child key) } :
        State).tierReport s.sends key)) ∧
  (∀ (s : State) (d : Sends) (key : Key),
    let now := s.sends.total .pkg 0 key
    let live := s.sends.live .pkg 0 key
    (s.fabric.tier = false ∨ ((d.total .pkg 0 key = 0 ↔ now = 0) ∧ d.live .pkg 0 key = live) → s.tierReport d key = s) ∧
    (s.fabric.tier = true → ¬ ((d.total .pkg 0 key = 0 ↔ now = 0) ∧ d.live .pkg 0 key = live) →
      (s.tierReport d key).sends = s.sends.report .fabric 0 s.fabric.node key now live)) ∧
  (∀ child key total live s,
    (s.fabric.tier = false → exec (.readinessReport .fabric child key total live) s = .next s) ∧
    (s.fabric.tier = true → child ≠ s.fabric.node ∨ (total, live) = (s.sends.total .pkg 0 key, s.sends.live .pkg 0 key) →
      ∃ t, exec (.readinessReport .fabric child key total live) s = .next t ∧
        t.sends.ready = (s.sends.report .fabric 0 child key total live).ready)) ∧
  (∀ (s : State) (m : Msg), s.msg m.id = some m → m.moves = true → s.sendReady m = true →
    let kids := s.sends.kids m.level m.place m.key
    let moves (f : Msg → Prop) : Prop := ∃ t m', exec (.messageSteer m.id none) s = .next t ∧ t.msg m.id = some m' ∧
      m'.words = m.words ∧ m'.key = m.key ∧ f m'
    let top := m.level = .pkg ∧ m.place = 0 ∧ kids = [] ∧ s.fabric.tier = false
    (m.level = .core → m.climbing = true → kids = [] →
      moves fun x => x.level = .die ∧ x.place = dieOf m.place ∧ x.bounces = m.bounces) ∧
    (m.level = .core → m.climbing = true → kids ≠ [] →
      moves fun x => x.level = .core ∧ x.climbing = false ∧ x.bounces = m.bounces) ∧
    (∀ k, m.level = .die → pick (s.sends.next .die m.place m.key) kids = some k →
      moves fun x => x.level = .core ∧ x.place = m.place * 128 + k ∧ x.climbing = false ∧ x.bounces = m.bounces) ∧
    (m.level = .die → kids = [] → m.climbing = true → moves fun x => x.level = .pkg ∧ x.bounces = m.bounces) ∧
    (m.level = .die → kids = [] → m.climbing = false → m.bounces < 63 →
      moves fun x => x.level = .pkg ∧ x.climbing = true ∧ x.bounces = m.bounces + 1) ∧
    (∀ k, m.level = .pkg → m.place = 0 → m.bounces < 64 → pick (s.sends.next .pkg 0 m.key) kids = some k →
      moves fun x => x.level = .die ∧ x.place = k ∧ x.climbing = false ∧ x.bounces = m.bounces) ∧
    (top → m.held = none → s.anyLive m.key = true → s.parkedHere < 4096 →
      moves fun x => x.parked = true ∧ x.held = some .pkg ∧ x.outcome = some 1) ∧
    (top → m.held = none → s.anyLive m.key = true → 4096 ≤ s.parkedHere → moves fun x => x.parked = false ∧ x.outcome = some 2) ∧
    (top → m.held = none → s.anyLive m.key = false → moves fun x => x.parked = false ∧ x.outcome = some 3) ∧
    (top → m.held ≠ none → moves fun x => x.parked = true ∧ x.held = some .pkg ∧ x.outcome = m.outcome) ∧
    (m.level = .pkg → m.place = 0 → kids = [] → s.fabric.tier = true → m.bounces < 64 → m.node = s.fabric.node →
      moves fun x => x.level = (if s.portsUp then .fabric else .pkg) ∧ x.climbing = true ∧
        x.bounces = m.bounces + m.came.toNat)) ∧
  (∀ (s : State) (id : Nat) (x : InMsg),
    (s.fabric.tier = false → exec (.messageSteer id (some x)) s = .next s) ∧
    (s.fabric.tier = true → s.msg id = none → x.node ≠ s.fabric.node →
      ((s.acct x.vf).rbal ≤ 0 → exec (.messageSteer id (some x)) s = .next { s with fabric := { s.fabric with
        queued := s.fabric.queued ++ [⟨x.node, 0, x.vf, 0, .send x⟩] } }) ∧
      (0 < (s.acct x.vf).rbal → 4 ≤ x.words.length → x.words.length ≤ 64 →
        ∃ t m, exec (.messageSteer id (some x)) s = .next t ∧ t.sends.msgs = s.sends.msgs ++ [m] ∧
        m.key = x.key ∧ m.words = x.words ∧ m.node = x.node ∧ m.level = .pkg ∧ m.climbing = false))) ∧
  (∀ (s : State) (m : Msg) (c : Ctx) (h : Chan) (k : Nat), s.msg m.id = some m → m.level = .core → m.climbing = false →
    m.parked = false → m.outcome = none → m.held = none → m.node = s.fabric.node → s.ctx c.id = some c →
    c.seat = some k →
    let here := s.ctxs.filter fun d => d.kind != .control && s.coreNumber d == m.place && s.takes m d
    pick (s.sends.next .core m.place m.key) (here.filterMap (·.seat)) = some k → here.filter (·.seat == some k) = [c] →
    c.chans[m.key.chan]? = some h →
    ∃ t m' d g, exec (.messageTake m.id) s = .next t ∧ t.msg m.id = some m' ∧ m'.outcome = some 0 ∧ t.ctx c.id = some d ∧
      d.chans[m.key.chan]? = some g ∧ g.offered = h.offered - 1 ∧
      g.held = h.held ++ [⟨h.wroff, m.words, 0, m.seq, m.node, m.core⟩]) ∧
  (∀ (s : State) (key : Key) (m : Msg), s.sends.msgs = [m] → m.key = key → m.parked = true → m.level = .pkg →
    let far := ((s.sends.ready.filter fun x => x.at .fabric 0 key && x.child != s.fabric.node).map (·.total)).sum
    (s.sends.total .pkg 0 key + far = 0 →
      exec (.parkedWake key) s = .next s) ∧
    (0 < s.sends.total .pkg 0 key + far →
      ∃ t m', exec (.parkedWake key) s = .next t ∧ t.msg m.id = some m' ∧ m'.parked = false ∧ m'.climbing = true ∧
        m'.held = m.held)) ∧
  (∀ (s : State) (m : Msg) (st : Nat), s.msg m.id = some m → m.node = s.fabric.node → m.outcome = some st →
    m.level ≠ .fabric →
    (∀ v, v ≠ st → exec (.sendStatusReturn m.id v) s = .next s) ∧
    ∃ t, exec (.sendStatusReturn m.id st) s = .next t ∧ t.op m.opId = none ∧
      (st ≠ 1 ∨ m.held = none → t.msg m.id = none) ∧
      (st = 1 → m.held ≠ none → t.msg m.id = some { m with outcome := none, returned := true })) ∧
  (∀ (s : State) (m : Msg) (st : Nat), s.msg m.id = some m → m.node = s.fabric.node → m.level = .fabric →
    m.outcome = none → m.parked = false → m.held = none →
    (s.unsent (m.id % 2 ^ 16) = true ∨ 3 < st → exec (.sendStatusReturn m.id st) s = .next s) ∧
    (s.unsent (m.id % 2 ^ 16) = false → st ≤ 3 → ∃ t, exec (.sendStatusReturn m.id st) s = .next t ∧
      (st = 0 ∨ st = 3 ∨ (st = 2 ∧ 4096 ≤ s.parkedHere) → t.msg m.id = none ∧ t.op m.opId = none) ∧
      (st = 1 ∨ (st = 2 ∧ s.parkedHere < 4096) → ∃ m', t.msg m.id = some m' ∧ m'.parked = true ∧ m'.outcome = some 1 ∧
        m'.level = if st = 1 then .fabric else .pkg)))

/-! ## The step, the encoding, reset and the issue -/

/-- A step runs the decoded instruction (R26, R36): a turn of a context that can issue fetches at its PC, fills the caches
from there, and executes what the bytes decode to, an illegal word included; without a listed turn the current context
moves the same way, and an event that is listed happens, unless the package stands (R294, R297). A step adds to that only
what it must note of the operands of matrix instructions (R208 item 2). Which turn comes next is data of the state
(notes/assumptions/1.md). -/
def Obligations.StepRunsDecoded : Prop :=
  (∀ (s : State) (id : Nat) (c : Ctx) (pc : W64) (issuing : List Nat), s.ctx id = some c →
    c.nextIssue = some (pc, issuing) → s.canIssue c = true →
    let at_ : State := { s.fetchFill c pc with cur := id }
    let told (s : State) : State := { s with tape := Turn.issue id :: s.tape }
    (∀ i, s.fetchInstr c pc = .instr i → step (told s) = noting (told s) (exec i at_) ∧
      (s.tape = [] → s.cur = id → step s = noting s (exec i at_))) ∧
    (s.fetchInstr c pc = .illegal → step (told s) = noting (told s) (exec .illegalWord at_)) ∧
    (∀ va m, s.fetchInstr c pc = .miss va m → step (told s) = noting (told s) (.next (s.fetchMiss c issuing pc va m)))) ∧
  (∀ (s : State) (e : Instr), let told : State := { s with tape := Turn.event e :: s.tape }
    step told = noting told (if s.happens e then exec e s else .next s)) ∧
  (∀ (s : State) (e : Instr), s.svc.frozen = false → s.svc.dead = false → s.happens e = true) ∧
  (∀ (s : State) (o : Host.Outcome State Fault Refusal), (∀ t, o ≠ .next t) → noting s o = o) ∧
  (∀ s t, ∃ u, noting s (.next t) = .next u ∧
    ({ u with
      mem := t.mem, ranges := t.ranges, fresh := t.fresh, nextId := t.nextId, svc := t.svc, wrote := t.wrote } : State) = t ∧
    u.wrote = [] ∧ ((∀ r ∈ s.ranges, r.mq = [] ∧ r.late = []) → u = { t with wrote := [] })) ∧
  (∀ (s : State) (c : Ctx) (pc : W64) (w : Nat) (i : Instr), s.fetchWord c pc = .ok w → hasLit w = false →
    decodeWord w none = .ok i →
    s.fetchInstr c pc = .instr i) ∧
  (∀ (s : State) (c : Ctx) (pc : W64) (w x : Nat) (i : Instr), s.fetchWord c pc = .ok w → hasLit w = true →
    s.fetchWord c (pc + 12) = .ok x →
    (∃ j, decodeWord w (some 0) = .ok j) → decodeWord w (some x) = .ok i → s.fetchInstr c pc = .instr i)

/-- Words of the manual's worked programs decode to the instructions they stand for (R23, R24, R26). -/
def Obligations.DecodeWords : Prop :=
  decodeTableWord 96 0x00800944001102004127_2080 =
    some (.ld ⟨0, .n32, ⟨false, 7⟩, 0x12, .v 4, .s 2, .v 1, 0x44, ⟨1, true, 0, false, false, 2, 0, false⟩⟩) ∧
  decodeTableWord 96 0x0000FFFFFD0000070001 =
    some (.bra ⟨⟨false, 7⟩, .v 0, 0xFFFFFD, ⟨0, false, 0, false, false, 0, 0, false⟩⟩) ∧
  decodeTableWord 96 0x40030020080513053 =
    some (.ffma ⟨0, .f32, ⟨false, 1⟩, 5, .v 8, .v 2, .v 3, 4, ⟨0, false, 0, false, false, 0, 0, false⟩⟩) ∧
  decodeTableWord 96 0x3210500000_00170007 =
    some (.rep ⟨0, .b32, ⟨false, 7⟩, 1, .v 0, .v 0, .s 5, 0x32, ⟨0, false, 0, false, false, 0, 0, false⟩⟩) ∧
  decodeTableWord 96 0x0042107100104007_20D2 =
    some (.sts ⟨0, .n32, ⟨false, 7⟩, 0, .s 4, .s 0, .s 7, 0x42, ⟨0, false, 0, false, false, 0, 0, false⟩⟩) ∧
  decodeTableWord 192 (0x4000100018E00200500A1020 + 0x186A0 * 2 ^ 96) =
    some (.iadd ⟨0, .s32, ⟨true, 2⟩, 0, .v 5, .v 2, .lit 100000, 0, ⟨0, false, 1, false, false, 0, 0, false⟩⟩)

/-- Decode and encode agree (R23, R26): every well-formed instruction word is read back, and every word that is read is the
encoding of a well-formed instruction. -/
def Obligations.EncodeDecode : Prop :=
  (∀ i rest, i.isWord = true → i.wf = true → decode (encode i ++ rest) = .ok (i, rest)) ∧
  ∀ bs i rest, decode bs = .ok (i, rest) → i.isWord = true ∧ i.wf = true ∧ bs = encode i ++ rest

/-- The memory of the package right after reset is in the canonical form; every byte reads as 0, the model's choice
(notes/assumptions/8.md). -/
def Obligations.ResetMemoryCanonical : Prop :=
  State.reset.memWf ∧ ∀ pa, State.reset.homeRead pa = 0

/-- Every step keeps the bytes at the homes in the canonical form: addresses strictly rising, no entry equal to 0. -/
def Obligations.StepKeepsMemory : Prop := ∀ s t, s.memWf → step s = .next t → t.memWf

/-- What reset leaves, as the manual gives it: no context, range or launch; the fields of an account 0 (R281), the
coefficients of a tile (R255), the Meridian registers (R307, R308, R311), the ports DOWN (R328), the weight
of a process 1 (R235), the launch count (R375), the logical clocks (R299) and the stamps 0, nothing pinned or cached
(R277). The factor of a tile is 1 after reset, the model's choice (log entry 3): the manual gives none. -/
def Obligations.ResetValues : Prop :=
  let s := State.reset
  s.ctxs = [] ∧ s.ranges = [] ∧ s.launches = [] ∧ s.launchCount = 0 ∧ s.ops = [] ∧ s.disp.cmds = [] ∧
    s.disp.queues = [] ∧
  (∀ vf, s.acct vf = Account.reset ∧ (s.acct vf).state = 0 ∧ (s.acct vf).bal = 0 ∧ (s.acct vf).period = 0) ∧
  (∀ vf p, (s.proc vf p).weight = 1) ∧
  (∀ k, (s.tile k).f = 65536 ∧ (s.tile k).coefs.map (2 * ·) =
    [48, 7, 328, 656, 1310, 1, 3, 6, 24, 2, 6144].map (65536 * ·)) ∧
  (s.mer.lo, s.mer.hi, s.mer.state, s.mer.mulim, s.mer.mwin, s.mer.mret, s.mer.breach, s.mer.mlast) =
    (0, 2 ^ 64 - 1, 2, 2000, 4000, 64000, 0, 0) ∧
  s.fabric.ports.length = 64 ∧ (∀ p ∈ s.fabric.ports, p.state = 0 ∧ p.staged = false ∧ p.ctr = 0) ∧
  (∀ k, (kget s.mem.clocks k).getD 0 = 0) ∧ (∀ w, (kget s.mem.stamps w).getD 0 = 0) ∧
  (s.svc.cacheUnits, s.svc.pinUnits) = (0, 0)

/-- The checks of an issue (R36 to R38): a word that is not legal, or not available to its context, takes ILLEGAL with
DETAIL 0x00 or the given one and has no other effect; a busy token makes the context wait; a guard that is false for
every item leaves only the advance of the PC; a word whose bits are no instruction takes ILLEGAL. Where the manual is
open, by the choices of log entries 15, 63, and of 80 for the NEXTPC of a word that is no instruction, its literal word
counted by bit 94. -/
def Obligations.IssueChecks : Prop :=
  (∀ (op : Nat) (f : Fields) (body : Iss → State → Res) (s : State) (c : Ctx) (r : Range) (l : Launch) (pc : W64)
    (issuing : List Nat),
    s.ctx s.cur = some c → s.range c.range = some r → s.launchOf c = some l → c.nextIssue = some (pc, issuing) →
    s.canIssue c = true →
    let next := pc + 12 * BitVec.ofNat 64 (codeWords f)
    let legal := (sig op f).ok && legalF op f c l
    (legal = false → issueF op f body s = .next (s.nextFresh.illegal c issuing 0 pc next)) ∧
    (∀ d, legal = true → availability op f.space c = some d →
      issueF op f body s = .next (s.nextFresh.illegal c issuing d pc next)) ∧
    (legal = true → availability op f.space c = none → (∃ t ∈ waitedOf f.h, s.tokBusy c.id t = true) →
      issueF op f body s = .next (s.nextFresh.modCtx c.id fun c => { c with wait := .tokens f.h.waitm.toNat false })) ∧
    (legal = true → availability op f.space c = none → (∀ t ∈ waitedOf f.h, s.tokBusy c.id t = false) →
      (issOf s c l r (codeWords f) pc issuing [] f.h).c.guard f.g issuing = .off →
      let i := issOf s c l r (codeWords f) pc issuing [] f.h
      issueF op f body s = .next (i.s.guardedOff i (i.cycles op f)))) ∧
  (∀ (s : State) (c : Ctx) (pc : W64) (issuing : List Nat), s.ctx s.cur = some c → c.nextIssue = some (pc, issuing) →
    s.canIssue c = true → exec .illegalWord s = .next (s.illegal c issuing 0 pc (s.skipBody c 1 pc)))

/-- The value of `n` bytes of a private block. -/
def Rules.privVal (c : Ctx) (off n : Nat) : Nat := leVal (Memory.readN c.priv off n)

/-- The trap frame of R138 in a private block: CAUSE, PC, NEXTPC, LANEMASK, LIVEMASK, the span, the barrier masks, the REP
state and the PCs of the lanes. -/
def Rules.Frame (c d : Ctx) (cls detail mask : Nat) (pc next : W64) : Prop :=
  Rules.privVal d 0x000 1 = cls ∧ Rules.privVal d 0x001 1 = detail ∧
  (Rules.privVal d 0x002 1 = (c.kind == .strand && c.scattered).toNat +
    2 * (match c.kind with
      | .span _ _ => true
      | _ => false).toNat + 4 * c.rep.isSome.toNat) ∧
  Rules.privVal d 0x008 8 = pc.toNat ∧ Rules.privVal d 0x010 8 = next.toNat ∧
  Rules.privVal d 0x018 8 = mask % 2 ^ 64 ∧ Rules.privVal d 0x020 8 = maskOf c.live % 2 ^ 64 ∧
  (∀ lo hi, c.kind = .span lo hi → Rules.privVal d 0x028 4 = lo % 2 ^ 32 ∧ Rules.privVal d 0x02C 4 = hi % 2 ^ 32) ∧
  (∀ k b, c.bars[k]? = some b → Rules.privVal d (0x030 + 8 * k) 8 = b.frameMask % 2 ^ 64) ∧
  (c.rep = none → Rules.privVal d 0x050 8 = 0) ∧
  (∀ r, c.rep = some r → r.pass < 2 ^ 32 → r.pos < 16 → r.base < 16 →
    Rules.privVal d 0x050 8 = r.pass + r.pos * 2 ^ 32 + r.base * 2 ^ 36) ∧
  (∀ k < 64, Rules.privVal d (0x080 + 8 * k) 8 =
    match c.lanes[k]? with
    | some x => if x.item.isSome then x.pc.toNat else 0
    | none => 0)

/-- Taking a trap (R137, R138): the frame is in the private block, its masks and PCs are saved in the context, and the
context starts its handler at the trap entry, unscattered and outside its REP body, or waits for the slot in the order
of the traps, its registers, predicates and scalars as they were. In the slot already, the launch ends DOUBLE; without
a trap entry, or in a control program (R146), UNHANDLED. A MEM trap gives the launch its first fault record. Where the
manual is open, by the choices of log entries 21, 72. -/
def Obligations.TakesTrap : Prop :=
  ∀ (s : State) (c : Ctx) (l : Launch) (cls detail mask : Nat) (pc next : W64), s.ctx c.id = some c →
    s.launchOf c = some l → c.bars.length = 4 → cls < 256 → detail < 256 →
    let t := s.takeTrap c.id cls detail mask pc next
    let kept (d : Ctx) : Prop := d.regs = c.regs ∧ d.preds = c.preds ∧ d.scal = c.scal ∧ d.kind = c.kind ∧
      d.rets = c.rets ∧ d.landing = c.landing ∧ d.tag = c.tag ∧ d.bars = c.bars ∧
      d.lanes.map (fun x => (x.item, x.regs, x.preds)) = c.lanes.map (fun x => (x.item, x.regs, x.preds))
    let saves (d : Ctx) : Prop := d.save = some
      { pc := pc, next := next, mask := mask, lanePcs := c.lanes.map (·.pc), waiting := c.lanes.map (·.waiting)
        bars := c.bars, rep := c.rep, compact := c.kind != .strand, wait := c.wait }
    ({ t with ctxs := s.ctxs, launches := s.launches, nextId := s.nextId } : State) = s ∧
    (∀ k, k ≠ c.id → t.ctx k = s.ctx k) ∧
    (∀ entry, c.trap ≠ .slot → c.kind ≠ .control → l.trapEntry = some entry → s.slotOpen c.range c.core = true →
      ∃ d, t.ctx c.id = some d ∧ d.trap = .slot ∧ d.pc = entry ∧ d.rep = none ∧ d.wait = .none ∧ d.active = false ∧
        (∀ x ∈ d.lanes, x.item.isSome → x.pc = entry ∧ x.waiting = none) ∧ kept d ∧ saves d ∧
        Rules.Frame c d cls detail mask pc next) ∧
    (∀ entry, c.trap ≠ .slot → c.kind ≠ .control → l.trapEntry = some entry → s.slotOpen c.range c.core = false →
      ∃ d, t.ctx c.id = some d ∧ d.trap = .queued s.nextId ∧ t.nextId = s.nextId + 1 ∧ d.wait = .none ∧ d.active = false ∧
        kept d ∧ saves d ∧ Rules.Frame c d cls detail mask pc next) ∧
    (∀ st, (c.trap = .slot ∧ st = 3) ∨ (c.trap ≠ .slot ∧ (c.kind = .control ∨ l.trapEntry = none) ∧ st = 4) →
      (∃ d, t.ctx c.id = some d ∧ kept d ∧ Rules.Frame c d cls detail mask pc next) ∧
      ∃ l', t.launch l.id = some l' ∧ l'.status = (if l.status.isNone then some st else l.status) ∧
        (l.status = none → leVal (l'.frame.take 8) % 256 = cls)) ∧
    ∃ l', t.launch l.id = some l' ∧ l'.cmd = l.cmd ∧
      (cls ≠ 2 ∨ l.frec.isSome → l'.frec = l.frec) ∧ (cls = 2 → l'.frec.isSome)

/-- What the end of an issue leaves behind (R36, R40, R157, R255): only the issuing context, its core's CYCLE counter
and the charges change. Its registers, predicates, scalars, private block and barriers stand as the effect left them;
ISSUED rises by 1, when the word did not count as it began to wait (R366); the PCs of the issuing lanes, or of the context, move to the next word; the lanes of a REP body
move together by its count; YLD and YIELD give up the active slot; a nonzero STALL holds the context for that many
cycles of its core. CYCLE rises by at least the cycles of the issue, by how much more is free
(notes/assumptions/4.md). -/
def Obligations.IssueEnds : Prop :=
  ∀ (i : Iss) (op cycles : Nat) (s : State),
    let t := finish i op cycles (.done s)
    ({ t with ctxs := s.ctxs, cycles := s.cycles, fresh := s.fresh, energy := s.energy } : State) = s ∧
    (∀ k, k ≠ i.c.id → t.ctx k = s.ctx k) ∧
    (∀ k, k ≠ s.coreNumber i.c → kget t.cycles k = kget s.cycles k) ∧
    (i.c.billed = false → ∃ v, kget t.cycles (s.coreNumber i.c) = some v ∧
      (kget s.cycles (s.coreNumber i.c)).getD 0 + cycles ≤ v) ∧
    (i.c.billed = true → t.cycles = s.cycles ∧ t.energy = s.energy) ∧
    ∀ c, s.ctx i.c.id = some c → ∃ d, t.ctx i.c.id = some d ∧ d.issued = c.issued + (if i.c.billed then 0 else 1) ∧
      d.billed = false ∧ d.part = 0 ∧ d.visited = [] ∧ d.heldTill = (if i.h.stall = 0 then c.heldTill
        else (kget i.s.cycles (i.s.coreNumber i.c)).getD 0 + i.h.stall.toNat) ∧
      d.active = (c.active && !((i.h.yld || op == 0x06) && c.trap != .slot)) ∧
      (d.kind, d.regs, d.preds, d.scal, d.bars, d.rets, d.priv, d.chans) =
        (c.kind, c.regs, c.preds, c.scal, c.bars, c.rets, c.priv, c.chans) ∧
      (d.wait, d.trap, d.save, d.landing, d.tag, d.refilled, d.reserve, d.floorLo, d.floorHi) =
        (c.wait, c.trap, c.save, c.landing, c.tag, c.refilled, c.reserve, c.floorLo, c.floorHi) ∧
      d.lanes.map (fun x => (x.item, x.waiting, x.regs, x.preds)) =
        c.lanes.map (fun x => (x.item, x.waiting, x.regs, x.preds)) ∧
      (c.rep = none → d.rep = none ∧ d.pc = (if c.kind = .strand then c.pc else i.next) ∧
        ∀ l x, c.lanes[l]? = some x → (d.lanes[l]?).map (·.pc) =
          some (if l ∈ i.issuing ∧ x.item.isSome then i.next else x.pc)) ∧
      (∀ r, c.rep = some r → d.rep = (r.counted i.next).2 ∧
        d.pc = (if c.kind = .strand then c.pc else (r.counted i.next).1) ∧
        ∀ l x, c.lanes[l]? = some x → (d.lanes[l]?).map (·.pc) =
          some (if x.item.isSome ∧ bitOf r.mask l then (r.counted i.next).1 else x.pc))

/-! ## Rules stated whole -/

/-- R310: in FAILED the reported lo stays at its last value and the reported hi at 2^64 − 1, whatever tick, sync, reference
input, disagreement or takeover comes, and TIME gives them, lo raised to the time floor of the context. -/
def Obligations.FailedKeepsTime : Prop :=
  let frozen (m : Meridian) (lo : Nat) : Prop :=
    m.state = 3 ∧ m.lo = lo ∧ m.hi = 2 ^ 64 - 1 ∧ m.dielo = lo ∧ m.diehi = 2 ^ 64 - 1
  (∀ s, s.mer.state ≠ 3 → ∃ t, exec .oscillatorDisagreement s = .next t ∧ frozen t.mer s.mer.lo) ∧
  (∀ s k lo hi (p : Port), s.mer.state ≠ 3 → s.fabric.ports[k]? = some p → p.state = 2 ∨ p.state = 3 →
    min s.mer.hi (hi + (p.rho - p.dmin)) < max s.mer.lo (lo + p.dmin) →
    ∃ t, exec (.timingFlit k lo hi) s = .next t ∧ frozen t.mer s.mer.lo) ∧
  (∀ s x, s.mer.state ≠ 3 → s.mer.ref ≠ 0 → min s.mer.hi (x + s.mer.uref) < max s.mer.lo (x - s.mer.uref) →
    ∃ t, exec (.referenceInput true x) s = .next t ∧ frozen t.mer s.mer.lo) ∧
  (∀ s, s.mer.state ≠ 3 → s.mer.unit ≠ 1 → ∃ t, exec (.standbyTakeover false) s = .next t ∧ frozen t.mer s.mer.lo) ∧
  (∀ s lo k a b x usable, frozen s.mer lo →
    ∀ e ∈ [Instr.meridianTick, .timingFlit k a b, .referenceInput true x, .oscillatorDisagreement, .standbyTakeover usable],
      ∃ t, exec e s = .next t ∧ frozen t.mer lo) ∧
  ∀ f s i lo r, issueOf 0xD0 f s = some i → frozen s.mer lo → f.d = .s r → i.c.floorHi < 2 ^ 64 →
    ∃ t d, exec (.time f) s = .next t ∧ t.ctx i.c.id = some d ∧
      d.scal[r.toNat]? = some (BitVec.ofNat 64 (max lo i.c.floorLo)) ∧ d.scal[r.toNat + 1]? = some (BitVec.allOnes 64)

/-- R311: after reset the reported pair is [0, 2^64 − 1] and STATE is LIMIT, and no tick changes that; the first timing
flit or reference input intersects that pair with its bounds and the result becomes the reported pair, without a maximum
with the old one; STATE then follows the half-width (R309). -/
def Obligations.MeridianFromReset : Prop :=
  let unsynced (m : Meridian) : Prop :=
    m.synced = false ∧ m.lo = 0 ∧ m.hi = 2 ^ 64 - 1 ∧ m.state = 2
  let reported (m : Meridian) (a b mulim : Nat) : Prop :=
    m.synced = true ∧ m.lo = a ∧ m.hi = b ∧
      m.state = (if mulim ≤ (b - a + 1) / 2 then 2 else if mulim < 4 * ((b - a + 1) / 2) then 1 else 0)
  unsynced State.reset.mer ∧
  (∀ s, unsynced s.mer → ∃ t, exec .meridianTick s = .next t ∧ unsynced t.mer) ∧
  (∀ s k lo hi (p : Port), unsynced s.mer → s.fabric.ports[k]? = some p → p.state = 2 ∨ p.state = 3 →
    lo + p.dmin ≤ min (2 ^ 64 - 1) (hi + (p.rho - p.dmin)) →
    ∃ t, exec (.timingFlit k lo hi) s = .next t ∧
      reported t.mer (lo + p.dmin) (min (2 ^ 64 - 1) (hi + (p.rho - p.dmin))) s.mer.mulim) ∧
  (∀ s x, unsynced s.mer → s.mer.ref ≠ 0 → x - s.mer.uref ≤ min (2 ^ 64 - 1) (x + s.mer.uref) →
    ∃ t, exec (.referenceInput true x) s = .next t ∧
      reported t.mer (x - s.mer.uref) (min (2 ^ 64 - 1) (x + s.mer.uref)) s.mer.mulim)

/-- R153: NOP has no effect but the advance of its issue. After YIELD the context is not active, waits for nothing and is
still resident, so it is ready; a YIELD that is guarded off for every item gives up no slot (its YLD hint still applies,
R38). -/
def Obligations.YieldGivesUpSlot : Prop :=
  (∀ f s i, issueOf 0x00 f s = some i → exec (.nop f) s = i.ends 0x00 f i.s) ∧
  (∀ f s i c, issueOf 0x06 f s = some i → s.ctx s.cur = some c → (c.trap = .slot → c.active = false) →
    exec (.yield f) s = i.ends 0x06 f i.s ∧
    ∃ t d, exec (.yield f) s = .next t ∧ t.ctx s.cur = some d ∧ d.active = false ∧ d.wait = .none ∧
      d.resident = c.resident) ∧
  ∀ (f : Fields) (s : State) (c : Ctx) (r : Range) (l : Launch) (pc : W64) (issuing : List Nat),
    s.ctx s.cur = some c → s.range c.range = some r → s.launchOf c = some l → c.nextIssue = some (pc, issuing) →
    s.canIssue c = true → ((sig 0x06 f).ok && legalF 0x06 f c l) = true → availability 0x06 f.space c = none →
    (∀ t ∈ waitedOf f.h, s.tokBusy c.id t = false) →
    (issOf s c l r (codeWords f) pc issuing [] f.h).c.guard f.g issuing = .off →
    ∃ t d, exec (.yield f) s = .next t ∧ t.ctx s.cur = some d ∧
      d.active = ((c.active || (c.kind != .control && c.trap == .none)) && !(f.h.yld && c.trap != .slot))

/-- R155: TRAP and BRK raise class BRK; the frame shows the code of X, or 0, in DETAIL, the present lanes whose guard is
true in LANEMASK and the following word in NEXTPC; the context enters the trap slot, or waits for it (R137). TRAP with X =
0 raises ILLEGAL. -/
def Obligations.TrapAndBreak : Prop :=
  (∀ p ∈ [((0x08 : Nat), Instr.trap, fun (f : Fields) => f.x.toNat), (0x09, Instr.brk, fun _ => 0)],
    ∀ f s i entry, issueOf p.1 f s = some i → i.c.kind ≠ .control → i.c.trap ≠ .slot → i.c.bars.length = 4 →
      i.l.trapEntry = some entry →
      ∃ t d, exec (p.2.1 f) s = .next t ∧ t.ctx i.c.id = some d ∧
        Rules.privVal d 0x000 1 = 7 ∧ Rules.privVal d 0x001 1 = p.2.2 f ∧
        Rules.privVal d 0x018 8 = maskOf i.lanes % 2 ^ 64 ∧
        Rules.privVal d 0x010 8 = i.next.toNat ∧
        (i.s.slotOpen i.c.range i.c.core = true → d.trap = .slot ∧ d.pc = entry) ∧
        (i.s.slotOpen i.c.range i.c.core = false → ∃ n, d.trap = .queued n)) ∧
  ∀ (f : Fields) (s : State) (c : Ctx) (r : Range) (l : Launch) (pc : W64) (issuing : List Nat),
    s.ctx s.cur = some c → s.range c.range = some r → s.launchOf c = some l → c.nextIssue = some (pc, issuing) →
    s.canIssue c = true → f.x = 0 →
    exec (.trap f) s = .next (s.nextFresh.illegal c issuing 0 pc (pc + 12 * BitVec.ofNat 64 (codeWords f)))
end

