-- ==== Sys2Proof/Laws/State.lean ====
section
/-! SUPPORT. One lemma for each field of the state under each update: what an update of one part leaves alone, and
what the update itself does to its part. -/

namespace Sys2Proof.Machine

/-! ## modCtx -/

@[simp] theorem State.modCtx_tape (s : State) (id : Nat) (f : Ctx → Ctx) : (s.modCtx id f).tape = s.tape := rfl
@[simp] theorem State.modCtx_cur (s : State) (id : Nat) (f : Ctx → Ctx) : (s.modCtx id f).cur = s.cur := rfl
@[simp] theorem State.modCtx_fresh (s : State) (id : Nat) (f : Ctx → Ctx) : (s.modCtx id f).fresh = s.fresh := rfl
@[simp] theorem State.modCtx_nextId (s : State) (id : Nat) (f : Ctx → Ctx) : (s.modCtx id f).nextId = s.nextId := rfl
@[simp] theorem State.modCtx_wrote (s : State) (id : Nat) (f : Ctx → Ctx) : (s.modCtx id f).wrote = s.wrote := rfl
@[simp] theorem State.modCtx_ranges (s : State) (id : Nat) (f : Ctx → Ctx) : (s.modCtx id f).ranges = s.ranges := rfl
@[simp] theorem State.modCtx_launches (s : State) (id : Nat) (f : Ctx → Ctx) : (s.modCtx id f).launches = s.launches := rfl
@[simp] theorem State.modCtx_launchCount (s : State) (id : Nat) (f : Ctx → Ctx) : (s.modCtx id f).launchCount = s.launchCount := rfl
@[simp] theorem State.modCtx_ops (s : State) (id : Nat) (f : Ctx → Ctx) : (s.modCtx id f).ops = s.ops := rfl
@[simp] theorem State.modCtx_xfers (s : State) (id : Nat) (f : Ctx → Ctx) : (s.modCtx id f).xfers = s.xfers := rfl
@[simp] theorem State.modCtx_lastStamps (s : State) (id : Nat) (f : Ctx → Ctx) : (s.modCtx id f).lastStamps = s.lastStamps := rfl
@[simp] theorem State.modCtx_cycles (s : State) (id : Nat) (f : Ctx → Ctx) : (s.modCtx id f).cycles = s.cycles := rfl
@[simp] theorem State.modCtx_mem (s : State) (id : Nat) (f : Ctx → Ctx) : (s.modCtx id f).mem = s.mem := rfl
@[simp] theorem State.modCtx_disp (s : State) (id : Nat) (f : Ctx → Ctx) : (s.modCtx id f).disp = s.disp := rfl
@[simp] theorem State.modCtx_accts (s : State) (id : Nat) (f : Ctx → Ctx) : (s.modCtx id f).accts = s.accts := rfl
@[simp] theorem State.modCtx_procs (s : State) (id : Nat) (f : Ctx → Ctx) : (s.modCtx id f).procs = s.procs := rfl
@[simp] theorem State.modCtx_energy (s : State) (id : Nat) (f : Ctx → Ctx) : (s.modCtx id f).energy = s.energy := rfl
@[simp] theorem State.modCtx_mer (s : State) (id : Nat) (f : Ctx → Ctx) : (s.modCtx id f).mer = s.mer := rfl
@[simp] theorem State.modCtx_fabric (s : State) (id : Nat) (f : Ctx → Ctx) : (s.modCtx id f).fabric = s.fabric := rfl
@[simp] theorem State.modCtx_sends (s : State) (id : Nat) (f : Ctx → Ctx) : (s.modCtx id f).sends = s.sends := rfl
@[simp] theorem State.modCtx_host (s : State) (id : Nat) (f : Ctx → Ctx) : (s.modCtx id f).host = s.host := rfl
@[simp] theorem State.modCtx_svc (s : State) (id : Nat) (f : Ctx → Ctx) : (s.modCtx id f).svc = s.svc := rfl
@[simp] theorem State.modCtx_images (s : State) (id : Nat) (f : Ctx → Ctx) : (s.modCtx id f).images = s.images := rfl

/-! ## modRange -/

@[simp] theorem State.modRange_tape (s : State) (id : Nat) (f : Range → Range) : (s.modRange id f).tape = s.tape := rfl
@[simp] theorem State.modRange_cur (s : State) (id : Nat) (f : Range → Range) : (s.modRange id f).cur = s.cur := rfl
@[simp] theorem State.modRange_fresh (s : State) (id : Nat) (f : Range → Range) : (s.modRange id f).fresh = s.fresh := rfl
@[simp] theorem State.modRange_nextId (s : State) (id : Nat) (f : Range → Range) : (s.modRange id f).nextId = s.nextId := rfl
@[simp] theorem State.modRange_wrote (s : State) (id : Nat) (f : Range → Range) : (s.modRange id f).wrote = s.wrote := rfl
@[simp] theorem State.modRange_ctxs (s : State) (id : Nat) (f : Range → Range) : (s.modRange id f).ctxs = s.ctxs := rfl
@[simp] theorem State.modRange_launches (s : State) (id : Nat) (f : Range → Range) : (s.modRange id f).launches = s.launches := rfl
@[simp] theorem State.modRange_launchCount (s : State) (id : Nat) (f : Range → Range) : (s.modRange id f).launchCount = s.launchCount := rfl
@[simp] theorem State.modRange_ops (s : State) (id : Nat) (f : Range → Range) : (s.modRange id f).ops = s.ops := rfl
@[simp] theorem State.modRange_xfers (s : State) (id : Nat) (f : Range → Range) : (s.modRange id f).xfers = s.xfers := rfl
@[simp] theorem State.modRange_lastStamps (s : State) (id : Nat) (f : Range → Range) : (s.modRange id f).lastStamps = s.lastStamps := rfl
@[simp] theorem State.modRange_cycles (s : State) (id : Nat) (f : Range → Range) : (s.modRange id f).cycles = s.cycles := rfl
@[simp] theorem State.modRange_mem (s : State) (id : Nat) (f : Range → Range) : (s.modRange id f).mem = s.mem := rfl
@[simp] theorem State.modRange_disp (s : State) (id : Nat) (f : Range → Range) : (s.modRange id f).disp = s.disp := rfl
@[simp] theorem State.modRange_accts (s : State) (id : Nat) (f : Range → Range) : (s.modRange id f).accts = s.accts := rfl
@[simp] theorem State.modRange_procs (s : State) (id : Nat) (f : Range → Range) : (s.modRange id f).procs = s.procs := rfl
@[simp] theorem State.modRange_energy (s : State) (id : Nat) (f : Range → Range) : (s.modRange id f).energy = s.energy := rfl
@[simp] theorem State.modRange_mer (s : State) (id : Nat) (f : Range → Range) : (s.modRange id f).mer = s.mer := rfl
@[simp] theorem State.modRange_fabric (s : State) (id : Nat) (f : Range → Range) : (s.modRange id f).fabric = s.fabric := rfl
@[simp] theorem State.modRange_sends (s : State) (id : Nat) (f : Range → Range) : (s.modRange id f).sends = s.sends := rfl
@[simp] theorem State.modRange_host (s : State) (id : Nat) (f : Range → Range) : (s.modRange id f).host = s.host := rfl
@[simp] theorem State.modRange_svc (s : State) (id : Nat) (f : Range → Range) : (s.modRange id f).svc = s.svc := rfl
@[simp] theorem State.modRange_images (s : State) (id : Nat) (f : Range → Range) : (s.modRange id f).images = s.images := rfl

/-! ## modLaunch -/

@[simp] theorem State.modLaunch_tape (s : State) (id : Nat) (f : Launch → Launch) : (s.modLaunch id f).tape = s.tape := rfl
@[simp] theorem State.modLaunch_cur (s : State) (id : Nat) (f : Launch → Launch) : (s.modLaunch id f).cur = s.cur := rfl
@[simp] theorem State.modLaunch_fresh (s : State) (id : Nat) (f : Launch → Launch) : (s.modLaunch id f).fresh = s.fresh := rfl
@[simp] theorem State.modLaunch_nextId (s : State) (id : Nat) (f : Launch → Launch) : (s.modLaunch id f).nextId = s.nextId := rfl
@[simp] theorem State.modLaunch_wrote (s : State) (id : Nat) (f : Launch → Launch) : (s.modLaunch id f).wrote = s.wrote := rfl
@[simp] theorem State.modLaunch_ctxs (s : State) (id : Nat) (f : Launch → Launch) : (s.modLaunch id f).ctxs = s.ctxs := rfl
@[simp] theorem State.modLaunch_ranges (s : State) (id : Nat) (f : Launch → Launch) : (s.modLaunch id f).ranges = s.ranges := rfl
@[simp] theorem State.modLaunch_launchCount (s : State) (id : Nat) (f : Launch → Launch) : (s.modLaunch id f).launchCount = s.launchCount := rfl
@[simp] theorem State.modLaunch_ops (s : State) (id : Nat) (f : Launch → Launch) : (s.modLaunch id f).ops = s.ops := rfl
@[simp] theorem State.modLaunch_xfers (s : State) (id : Nat) (f : Launch → Launch) : (s.modLaunch id f).xfers = s.xfers := rfl
@[simp] theorem State.modLaunch_lastStamps (s : State) (id : Nat) (f : Launch → Launch) : (s.modLaunch id f).lastStamps = s.lastStamps := rfl
@[simp] theorem State.modLaunch_cycles (s : State) (id : Nat) (f : Launch → Launch) : (s.modLaunch id f).cycles = s.cycles := rfl
@[simp] theorem State.modLaunch_mem (s : State) (id : Nat) (f : Launch → Launch) : (s.modLaunch id f).mem = s.mem := rfl
@[simp] theorem State.modLaunch_disp (s : State) (id : Nat) (f : Launch → Launch) : (s.modLaunch id f).disp = s.disp := rfl
@[simp] theorem State.modLaunch_accts (s : State) (id : Nat) (f : Launch → Launch) : (s.modLaunch id f).accts = s.accts := rfl
@[simp] theorem State.modLaunch_procs (s : State) (id : Nat) (f : Launch → Launch) : (s.modLaunch id f).procs = s.procs := rfl
@[simp] theorem State.modLaunch_energy (s : State) (id : Nat) (f : Launch → Launch) : (s.modLaunch id f).energy = s.energy := rfl
@[simp] theorem State.modLaunch_mer (s : State) (id : Nat) (f : Launch → Launch) : (s.modLaunch id f).mer = s.mer := rfl
@[simp] theorem State.modLaunch_fabric (s : State) (id : Nat) (f : Launch → Launch) : (s.modLaunch id f).fabric = s.fabric := rfl
@[simp] theorem State.modLaunch_sends (s : State) (id : Nat) (f : Launch → Launch) : (s.modLaunch id f).sends = s.sends := rfl
@[simp] theorem State.modLaunch_host (s : State) (id : Nat) (f : Launch → Launch) : (s.modLaunch id f).host = s.host := rfl
@[simp] theorem State.modLaunch_svc (s : State) (id : Nat) (f : Launch → Launch) : (s.modLaunch id f).svc = s.svc := rfl
@[simp] theorem State.modLaunch_images (s : State) (id : Nat) (f : Launch → Launch) : (s.modLaunch id f).images = s.images := rfl

/-! ## setCtx -/

@[simp] theorem State.setCtx_tape (s : State) (c : Ctx) : (s.setCtx c).tape = s.tape := rfl
@[simp] theorem State.setCtx_cur (s : State) (c : Ctx) : (s.setCtx c).cur = s.cur := rfl
@[simp] theorem State.setCtx_fresh (s : State) (c : Ctx) : (s.setCtx c).fresh = s.fresh := rfl
@[simp] theorem State.setCtx_nextId (s : State) (c : Ctx) : (s.setCtx c).nextId = s.nextId := rfl
@[simp] theorem State.setCtx_wrote (s : State) (c : Ctx) : (s.setCtx c).wrote = s.wrote := rfl
@[simp] theorem State.setCtx_ranges (s : State) (c : Ctx) : (s.setCtx c).ranges = s.ranges := rfl
@[simp] theorem State.setCtx_launches (s : State) (c : Ctx) : (s.setCtx c).launches = s.launches := rfl
@[simp] theorem State.setCtx_launchCount (s : State) (c : Ctx) : (s.setCtx c).launchCount = s.launchCount := rfl
@[simp] theorem State.setCtx_ops (s : State) (c : Ctx) : (s.setCtx c).ops = s.ops := rfl
@[simp] theorem State.setCtx_xfers (s : State) (c : Ctx) : (s.setCtx c).xfers = s.xfers := rfl
@[simp] theorem State.setCtx_lastStamps (s : State) (c : Ctx) : (s.setCtx c).lastStamps = s.lastStamps := rfl
@[simp] theorem State.setCtx_cycles (s : State) (c : Ctx) : (s.setCtx c).cycles = s.cycles := rfl
@[simp] theorem State.setCtx_mem (s : State) (c : Ctx) : (s.setCtx c).mem = s.mem := rfl
@[simp] theorem State.setCtx_disp (s : State) (c : Ctx) : (s.setCtx c).disp = s.disp := rfl
@[simp] theorem State.setCtx_accts (s : State) (c : Ctx) : (s.setCtx c).accts = s.accts := rfl
@[simp] theorem State.setCtx_procs (s : State) (c : Ctx) : (s.setCtx c).procs = s.procs := rfl
@[simp] theorem State.setCtx_energy (s : State) (c : Ctx) : (s.setCtx c).energy = s.energy := rfl
@[simp] theorem State.setCtx_mer (s : State) (c : Ctx) : (s.setCtx c).mer = s.mer := rfl
@[simp] theorem State.setCtx_fabric (s : State) (c : Ctx) : (s.setCtx c).fabric = s.fabric := rfl
@[simp] theorem State.setCtx_sends (s : State) (c : Ctx) : (s.setCtx c).sends = s.sends := rfl
@[simp] theorem State.setCtx_host (s : State) (c : Ctx) : (s.setCtx c).host = s.host := rfl
@[simp] theorem State.setCtx_svc (s : State) (c : Ctx) : (s.setCtx c).svc = s.svc := rfl
@[simp] theorem State.setCtx_images (s : State) (c : Ctx) : (s.setCtx c).images = s.images := rfl

/-! ## setAcct -/

@[simp] theorem State.setAcct_tape (s : State) (vf : Nat) (a : Account) : (s.setAcct vf a).tape = s.tape := rfl
@[simp] theorem State.setAcct_cur (s : State) (vf : Nat) (a : Account) : (s.setAcct vf a).cur = s.cur := rfl
@[simp] theorem State.setAcct_fresh (s : State) (vf : Nat) (a : Account) : (s.setAcct vf a).fresh = s.fresh := rfl
@[simp] theorem State.setAcct_nextId (s : State) (vf : Nat) (a : Account) : (s.setAcct vf a).nextId = s.nextId := rfl
@[simp] theorem State.setAcct_wrote (s : State) (vf : Nat) (a : Account) : (s.setAcct vf a).wrote = s.wrote := rfl
@[simp] theorem State.setAcct_ctxs (s : State) (vf : Nat) (a : Account) : (s.setAcct vf a).ctxs = s.ctxs := rfl
@[simp] theorem State.setAcct_ranges (s : State) (vf : Nat) (a : Account) : (s.setAcct vf a).ranges = s.ranges := rfl
@[simp] theorem State.setAcct_launches (s : State) (vf : Nat) (a : Account) : (s.setAcct vf a).launches = s.launches := rfl
@[simp] theorem State.setAcct_launchCount (s : State) (vf : Nat) (a : Account) : (s.setAcct vf a).launchCount = s.launchCount := rfl
@[simp] theorem State.setAcct_ops (s : State) (vf : Nat) (a : Account) : (s.setAcct vf a).ops = s.ops := rfl
@[simp] theorem State.setAcct_xfers (s : State) (vf : Nat) (a : Account) : (s.setAcct vf a).xfers = s.xfers := rfl
@[simp] theorem State.setAcct_lastStamps (s : State) (vf : Nat) (a : Account) : (s.setAcct vf a).lastStamps = s.lastStamps := rfl
@[simp] theorem State.setAcct_cycles (s : State) (vf : Nat) (a : Account) : (s.setAcct vf a).cycles = s.cycles := rfl
@[simp] theorem State.setAcct_mem (s : State) (vf : Nat) (a : Account) : (s.setAcct vf a).mem = s.mem := rfl
@[simp] theorem State.setAcct_disp (s : State) (vf : Nat) (a : Account) : (s.setAcct vf a).disp = s.disp := rfl
@[simp] theorem State.setAcct_procs (s : State) (vf : Nat) (a : Account) : (s.setAcct vf a).procs = s.procs := rfl
@[simp] theorem State.setAcct_energy (s : State) (vf : Nat) (a : Account) : (s.setAcct vf a).energy = s.energy := rfl
@[simp] theorem State.setAcct_mer (s : State) (vf : Nat) (a : Account) : (s.setAcct vf a).mer = s.mer := rfl
@[simp] theorem State.setAcct_fabric (s : State) (vf : Nat) (a : Account) : (s.setAcct vf a).fabric = s.fabric := rfl
@[simp] theorem State.setAcct_sends (s : State) (vf : Nat) (a : Account) : (s.setAcct vf a).sends = s.sends := rfl
@[simp] theorem State.setAcct_host (s : State) (vf : Nat) (a : Account) : (s.setAcct vf a).host = s.host := rfl
@[simp] theorem State.setAcct_svc (s : State) (vf : Nat) (a : Account) : (s.setAcct vf a).svc = s.svc := rfl
@[simp] theorem State.setAcct_images (s : State) (vf : Nat) (a : Account) : (s.setAcct vf a).images = s.images := rfl

/-! ## setProc -/

@[simp] theorem State.setProc_tape (s : State) (vf proc : Nat) (p : Proc) : (s.setProc vf proc p).tape = s.tape := rfl
@[simp] theorem State.setProc_cur (s : State) (vf proc : Nat) (p : Proc) : (s.setProc vf proc p).cur = s.cur := rfl
@[simp] theorem State.setProc_fresh (s : State) (vf proc : Nat) (p : Proc) : (s.setProc vf proc p).fresh = s.fresh := rfl
@[simp] theorem State.setProc_nextId (s : State) (vf proc : Nat) (p : Proc) : (s.setProc vf proc p).nextId = s.nextId := rfl
@[simp] theorem State.setProc_wrote (s : State) (vf proc : Nat) (p : Proc) : (s.setProc vf proc p).wrote = s.wrote := rfl
@[simp] theorem State.setProc_ctxs (s : State) (vf proc : Nat) (p : Proc) : (s.setProc vf proc p).ctxs = s.ctxs := rfl
@[simp] theorem State.setProc_ranges (s : State) (vf proc : Nat) (p : Proc) : (s.setProc vf proc p).ranges = s.ranges := rfl
@[simp] theorem State.setProc_launches (s : State) (vf proc : Nat) (p : Proc) : (s.setProc vf proc p).launches = s.launches := rfl
@[simp] theorem State.setProc_launchCount (s : State) (vf proc : Nat) (p : Proc) : (s.setProc vf proc p).launchCount = s.launchCount := rfl
@[simp] theorem State.setProc_ops (s : State) (vf proc : Nat) (p : Proc) : (s.setProc vf proc p).ops = s.ops := rfl
@[simp] theorem State.setProc_xfers (s : State) (vf proc : Nat) (p : Proc) : (s.setProc vf proc p).xfers = s.xfers := rfl
@[simp] theorem State.setProc_lastStamps (s : State) (vf proc : Nat) (p : Proc) : (s.setProc vf proc p).lastStamps = s.lastStamps := rfl
@[simp] theorem State.setProc_cycles (s : State) (vf proc : Nat) (p : Proc) : (s.setProc vf proc p).cycles = s.cycles := rfl
@[simp] theorem State.setProc_mem (s : State) (vf proc : Nat) (p : Proc) : (s.setProc vf proc p).mem = s.mem := rfl
@[simp] theorem State.setProc_disp (s : State) (vf proc : Nat) (p : Proc) : (s.setProc vf proc p).disp = s.disp := rfl
@[simp] theorem State.setProc_accts (s : State) (vf proc : Nat) (p : Proc) : (s.setProc vf proc p).accts = s.accts := rfl
@[simp] theorem State.setProc_energy (s : State) (vf proc : Nat) (p : Proc) : (s.setProc vf proc p).energy = s.energy := rfl
@[simp] theorem State.setProc_mer (s : State) (vf proc : Nat) (p : Proc) : (s.setProc vf proc p).mer = s.mer := rfl
@[simp] theorem State.setProc_fabric (s : State) (vf proc : Nat) (p : Proc) : (s.setProc vf proc p).fabric = s.fabric := rfl
@[simp] theorem State.setProc_sends (s : State) (vf proc : Nat) (p : Proc) : (s.setProc vf proc p).sends = s.sends := rfl
@[simp] theorem State.setProc_host (s : State) (vf proc : Nat) (p : Proc) : (s.setProc vf proc p).host = s.host := rfl
@[simp] theorem State.setProc_svc (s : State) (vf proc : Nat) (p : Proc) : (s.setProc vf proc p).svc = s.svc := rfl
@[simp] theorem State.setProc_images (s : State) (vf proc : Nat) (p : Proc) : (s.setProc vf proc p).images = s.images := rfl

/-! ## Fresh numbers -/

@[simp] theorem State.newId_fst (s : State) : s.newId.1 = s.nextId := rfl
@[simp] theorem State.newId_tape (s : State) : s.newId.2.tape = s.tape := rfl
@[simp] theorem State.newId_cur (s : State) : s.newId.2.cur = s.cur := rfl
@[simp] theorem State.newId_fresh (s : State) : s.newId.2.fresh = s.fresh := rfl
@[simp] theorem State.newId_nextId (s : State) : s.newId.2.nextId = s.nextId + 1 := rfl
@[simp] theorem State.newId_wrote (s : State) : s.newId.2.wrote = s.wrote := rfl
@[simp] theorem State.newId_ctxs (s : State) : s.newId.2.ctxs = s.ctxs := rfl
@[simp] theorem State.newId_ranges (s : State) : s.newId.2.ranges = s.ranges := rfl
@[simp] theorem State.newId_launches (s : State) : s.newId.2.launches = s.launches := rfl
@[simp] theorem State.newId_launchCount (s : State) : s.newId.2.launchCount = s.launchCount := rfl
@[simp] theorem State.newId_ops (s : State) : s.newId.2.ops = s.ops := rfl
@[simp] theorem State.newId_xfers (s : State) : s.newId.2.xfers = s.xfers := rfl
@[simp] theorem State.newId_lastStamps (s : State) : s.newId.2.lastStamps = s.lastStamps := rfl
@[simp] theorem State.newId_cycles (s : State) : s.newId.2.cycles = s.cycles := rfl
@[simp] theorem State.newId_mem (s : State) : s.newId.2.mem = s.mem := rfl
@[simp] theorem State.newId_disp (s : State) : s.newId.2.disp = s.disp := rfl
@[simp] theorem State.newId_accts (s : State) : s.newId.2.accts = s.accts := rfl
@[simp] theorem State.newId_procs (s : State) : s.newId.2.procs = s.procs := rfl
@[simp] theorem State.newId_energy (s : State) : s.newId.2.energy = s.energy := rfl
@[simp] theorem State.newId_mer (s : State) : s.newId.2.mer = s.mer := rfl
@[simp] theorem State.newId_fabric (s : State) : s.newId.2.fabric = s.fabric := rfl
@[simp] theorem State.newId_sends (s : State) : s.newId.2.sends = s.sends := rfl
@[simp] theorem State.newId_host (s : State) : s.newId.2.host = s.host := rfl
@[simp] theorem State.newId_svc (s : State) : s.newId.2.svc = s.svc := rfl
@[simp] theorem State.newId_images (s : State) : s.newId.2.images = s.images := rfl

@[simp] theorem State.newFree_fst (s : State) : s.newFree.1 = s.fresh := rfl
@[simp] theorem State.newFree_tape (s : State) : s.newFree.2.tape = s.tape := rfl
@[simp] theorem State.newFree_cur (s : State) : s.newFree.2.cur = s.cur := rfl
@[simp] theorem State.newFree_fresh (s : State) : s.newFree.2.fresh = s.fresh + 1 := rfl
@[simp] theorem State.newFree_nextId (s : State) : s.newFree.2.nextId = s.nextId := rfl
@[simp] theorem State.newFree_wrote (s : State) : s.newFree.2.wrote = s.wrote := rfl
@[simp] theorem State.newFree_ctxs (s : State) : s.newFree.2.ctxs = s.ctxs := rfl
@[simp] theorem State.newFree_ranges (s : State) : s.newFree.2.ranges = s.ranges := rfl
@[simp] theorem State.newFree_launches (s : State) : s.newFree.2.launches = s.launches := rfl
@[simp] theorem State.newFree_launchCount (s : State) : s.newFree.2.launchCount = s.launchCount := rfl
@[simp] theorem State.newFree_ops (s : State) : s.newFree.2.ops = s.ops := rfl
@[simp] theorem State.newFree_xfers (s : State) : s.newFree.2.xfers = s.xfers := rfl
@[simp] theorem State.newFree_lastStamps (s : State) : s.newFree.2.lastStamps = s.lastStamps := rfl
@[simp] theorem State.newFree_cycles (s : State) : s.newFree.2.cycles = s.cycles := rfl
@[simp] theorem State.newFree_mem (s : State) : s.newFree.2.mem = s.mem := rfl
@[simp] theorem State.newFree_disp (s : State) : s.newFree.2.disp = s.disp := rfl
@[simp] theorem State.newFree_accts (s : State) : s.newFree.2.accts = s.accts := rfl
@[simp] theorem State.newFree_procs (s : State) : s.newFree.2.procs = s.procs := rfl
@[simp] theorem State.newFree_energy (s : State) : s.newFree.2.energy = s.energy := rfl
@[simp] theorem State.newFree_mer (s : State) : s.newFree.2.mer = s.mer := rfl
@[simp] theorem State.newFree_fabric (s : State) : s.newFree.2.fabric = s.fabric := rfl
@[simp] theorem State.newFree_sends (s : State) : s.newFree.2.sends = s.sends := rfl
@[simp] theorem State.newFree_host (s : State) : s.newFree.2.host = s.host := rfl
@[simp] theorem State.newFree_svc (s : State) : s.newFree.2.svc = s.svc := rfl
@[simp] theorem State.newFree_images (s : State) : s.newFree.2.images = s.images := rfl

end Sys2Proof.Machine
end

