-- ==== Sys2Proof/Laws/Issue.lean ====
section
/-! SUPPORT. What the issue of a word does, said once: when it runs its body, and each way it ends without. -/

namespace Sys2Proof.Machine

/-- A word that nothing stops runs its body and ends by the body's outcome. -/
theorem issueWord_of {op words : Nat} {odds : List Nat} {g : Guard} {h : Hints} {cycles : Iss → Nat} {legal : Ctx → Launch → Bool}
    {avail : Ctx → Option Nat} {repro : Ctx → Bool} {off : Option (Iss → State → State)} {body : Iss → State → Res}
    {s : State} {i : Iss} (hi : issueOn words odds g h legal avail repro s = some i) :
    issueWord op words odds g h cycles legal avail repro off body s = .next (finish i op (cycles i) (body i i.s)) := by
  unfold issueOn at hi
  unfold issueWord
  split at hi
  · cases hi
  · rename_i c hc
    split at hi
    · rename_i r l pc issuing hr hl hn
      split at hi
      · rename_i lanes hg
        split at hi
        · rename_i hok
          simp only [Bool.and_eq_true, Bool.not_eq_true', Option.isNone_iff_eq_none] at hok
          obtain ⟨⟨⟨⟨h1, h2⟩, h3⟩, h4⟩, h5⟩ := hok
          cases hi
          simp only [hc, hr, hl, hn, h1, h2, h3, h4, hg, h5, Bool.not_true, Bool.false_eq_true, if_false]
        · cases hi
      · cases hi
    · cases hi

theorem issueF_of {op : Nat} {f : Fields} {body : Iss → State → Res} {s : State} {i : Iss} (hi : issueOf op f s = some i) :
    issueF op f body s = .next (finish i op (i.cycles op f) (body i i.s)) := issueWord_of hi

theorem issueO_of {op : Nat} {f : OffFields} {body : Iss → State → Res} {s : State} {i : Iss}
    (hi : issueOffOf op f s = some i) : issueO op f body s = .next (finish i op 1 (body i i.s)) := issueWord_of hi

/-- A body that is done ends the issue with its effect. -/
theorem issueF_ends {op : Nat} {f : Fields} {body : Iss → State → Res} {s s' : State} {i : Iss}
    (hi : issueOf op f s = some i) (hb : body i i.s = .done s') : issueF op f body s = i.ends op f s' := by
  rw [issueF_of hi, hb]; rfl

/-- A body that has placed the PCs. -/
theorem issueF_moves {op : Nat} {f : Fields} {body : Iss → State → Res} {s s' : State} {i : Iss}
    (hi : issueOf op f s = some i) (hb : body i i.s = .moved s') :
    issueF op f body s = i.movesTo op (i.cycles op f) s' := by
  rw [issueF_of hi, hb]; rfl

theorem issueO_moves {op : Nat} {f : OffFields} {body : Iss → State → Res} {s s' : State} {i : Iss}
    (hi : issueOffOf op f s = some i) (hb : body i i.s = .moved s') : issueO op f body s = i.movesTo op 1 s' := by
  rw [issueO_of hi, hb]; rfl

end Sys2Proof.Machine
end

