-- ==== Sys2Proof/Laws/Alu.lean ====
section
/-! SUPPORT. The rule of a value instruction follows from its operation. -/

namespace Sys2Proof.Machine

/-- An instruction that issues `aluBody` of an operation satisfies the rule of its row. -/
theorem ValRow.rule_of {e : ValRow} {o : Fields → AluOp}
    (hx : ∀ f, exec (e.con f) = issueF e.op f (aluBody f (o f)))
    (h1 : ∀ f, (o f).wa = e.wa f) (h2 : ∀ f, (o f).wb = e.wb f) (h3 : ∀ f, (o f).rt = e.rt f)
    (h4 : ∀ f, (o f).usesX = e.usesX) (h5 : ∀ f, (o f).usesD = e.usesD)
    (h6 : ∀ f a b x d, (o f).fn a b x d = e.val f a b x d) (h7 : ∀ f, (o f).usesB = e.usesB)
    (h8 : ∀ f lo hi fa fb fx, fa = .m ∨ (o f).usesB = true ∧ fb = .m ∨ (o f).usesX = true ∧ fx = .m →
      (o f).aff lo hi fa fb fx = .m) : e.Rule := by
  intro f s i hi wd uniform
  have hu : ∀ a b x d, uniform a b x d → i.aluForm f (o f) = .u (regBits (e.rt f) (e.val f a b x d)) := by
    rintro a b x d ⟨ha, hb, hx', hd⟩
    unfold Iss.formIf at hb hx' hd
    simp only [Iss.aluForm, h1, h2, h3, h4, h5, h7, ha, hb, hx', hd, wd, AluOp.result, h6]
  have hm : (i.form 0 (e.wa f) f.a = .m ∨ i.formIf e.usesB 1 (e.wb f) f.b = .m ∨ i.formIf e.usesX 2 wd (.v f.x) = .m ∨
      i.formIf e.usesD 3 wd f.d = .m) → i.aluForm f (o f) = .m := by
    intro hm
    have hwd : (o f).rt.is64 = wd := by rw [h3]
    have hr : i.aluForm f (o f) = (o f).result i.c.bounds.1 i.c.bounds.2 (i.form 0 (e.wa f) f.a)
        (i.formIf e.usesB 1 (e.wb f) f.b) (i.formIf e.usesX 2 wd (.v f.x)) (i.formIf e.usesD 3 wd f.d) := by
      simp only [Iss.aluForm, Iss.formIf, h1, h2, h4, h5, h7, hwd]
    rw [hr]
    have hb : i.formIf e.usesB 1 (e.wb f) f.b = .m → (o f).usesB = true := by
      unfold Iss.formIf; rw [h7]; split <;> simp_all
    have hx' : i.formIf e.usesX 2 wd (.v f.x) = .m → (o f).usesX = true := by
      unfold Iss.formIf; rw [h4]; split <;> simp_all
    unfold AluOp.result
    split
    · simp_all
    · rename_i heq _
      refine h8 _ _ _ _ _ _ ?_
      rcases hm with hm | hm | hm | hm
      · exact .inl hm
      · exact .inr (.inl ⟨hb hm, hm⟩)
      · exact .inr (.inr ⟨hx' hm, hm⟩)
      · rw [hm] at heq; cases heq
    · rfl
  refine ⟨fun r hr => ?_, fun hd hk => ⟨i.aluForm f (o f), hu, ?_⟩, fun lo hi' a b x d hd hk hf hsp => ?_,
    fun lo hi' hd hk hf => ?_, ?_⟩
  · rw [hx]
    refine issueF_ends hi ?_
    simp only [aluBody, hr, h3, h6]; rfl
  · rw [hx]
    refine issueF_ends hi ?_
    simp only [aluBody, hd, hk, h1, h2, h3, h6, Iss.srcs]; rfl
  · rw [hx]
    refine issueF_ends hi ?_
    have hsp : i.c.splitsPair (destReg f.d) (e.rt f).is64 = false := hsp
    simp only [aluBody, hd, hk, h3, hu a b x d hf, hsp]; rfl
  · rw [hx, issueF_of hi]
    simp only [aluBody, hd, hk, hm hf, Iss.needLanes, Iss.materialises]
    by_cases ht : i.c.trap = .slot
    · simp [ht]; rfl
    · simp [ht, finish]
  · rw [hx]; exact ⟨_, issueF_of hi⟩

end Sys2Proof.Machine
end

