-- ==== Sys2Proof/Laws/Memory.lean ====
section
/-! SUPPORT. The laws of maps and of the byte memory: a read after a write, what a write leaves alone, and that every
memory operation keeps the canonical form. -/

namespace Sys2Proof.Machine

/-! ## Maps -/

@[simp] theorem kget_nil {α : Type} (k : Nat) : kget ([] : List (Nat × α)) k = none := rfl

theorem kget_cons {α : Type} (j : Nat) (w : α) (m : List (Nat × α)) (k : Nat) :
    kget ((j, w) :: m) k = if j = k then some w else kget m k := by
  unfold kget; by_cases h : j = k <;> simp [h]

@[simp] theorem kget_kset_same {α : Type} (m : List (Nat × α)) (k : Nat) (v : α) : kget (kset m k v) k = some v := by
  induction m with
  | nil => simp [kset, kget]
  | cons p t ih =>
    obtain ⟨j, w⟩ := p
    unfold kset
    split
    · simp [kget]
    · split
      · simp [kget]
      · rename_i h1 h2; rw [kget_cons, if_neg (fun h => h2 h.symm), ih]

theorem kget_kset_other {α : Type} (m : List (Nat × α)) {k k' : Nat} (v : α) (h : k' ≠ k) :
    kget (kset m k v) k' = kget m k' := by
  induction m with
  | nil => simp [kset, kget_cons, Ne.symm h]
  | cons p t ih =>
    obtain ⟨j, w⟩ := p
    unfold kset
    split
    · rw [kget_cons, if_neg (Ne.symm h)]
    · split
      · rename_i h1 h2; subst h2; rw [kget_cons, kget_cons, if_neg (Ne.symm h), if_neg (Ne.symm h)]
      · rw [kget_cons, kget_cons, ih]

@[simp] theorem kget_kdel_same {α : Type} (m : List (Nat × α)) (k : Nat) : kget (kdel m k) k = none := by
  simp [kget, kdel, List.find?_filter]

theorem kget_kdel_other {α : Type} (m : List (Nat × α)) {k k' : Nat} (h : k' ≠ k) : kget (kdel m k) k' = kget m k' := by
  induction m with
  | nil => rfl
  | cons p t ih =>
    obtain ⟨j, w⟩ := p
    unfold kdel at ih ⊢
    by_cases hj : j = k
    · subst hj; rw [List.filter_cons_of_neg (by simp), ih, kget_cons, if_neg (Ne.symm h)]
    · rw [List.filter_cons_of_pos (by simp [hj]), kget_cons, kget_cons, ih]

/-! ## Bytes -/

@[simp] theorem Memory.read_write_same (m : Memory) (a : Nat) (b : Byte) : (m.write a b).read a = b := by
  unfold Memory.write Memory.read
  split
  · rename_i h; simp [h]
  · simp

theorem Memory.read_write_other (m : Memory) {a a' : Nat} (b : Byte) (h : a' ≠ a) : (m.write a b).read a' = m.read a' := by
  unfold Memory.write Memory.read
  split
  · rw [kget_kdel_other m h]
  · rw [kget_kset_other m b h]

/-- A byte outside the bytes written is as before. -/
theorem Memory.read_writeN_outside (bs : List Byte) (m : Memory) (a k : Nat) (h : k < a ∨ a + bs.length ≤ k) :
    (m.writeN a bs).read k = m.read k := by
  induction bs generalizing m a with
  | nil => rfl
  | cons b bs ih =>
    simp only [List.length_cons] at h
    rw [Memory.writeN, ih _ _ (by omega), Memory.read_write_other m b (by omega)]

/-- A byte that is written reads back. -/
theorem Memory.read_writeN_inside (bs : List Byte) (m : Memory) (a k : Nat) (h : k < bs.length) :
    (m.writeN a bs).read (a + k) = bs[k] := by
  induction bs generalizing m a k with
  | nil => simp at h
  | cons b bs ih =>
    rw [Memory.writeN]
    cases k with
    | zero => rw [Memory.read_writeN_outside bs _ _ _ (by omega)]; simp
    | succ k =>
      have := ih (m.write a b) (a + 1) k (by simpa using h)
      rw [show a + (k + 1) = a + 1 + k by omega, this]; rfl

@[simp] theorem Memory.readN_length (m : Memory) (a n : Nat) : (m.readN a n).length = n := by simp [Memory.readN]

/-- The bytes written read back. -/
theorem Memory.readN_writeN (bs : List Byte) (m : Memory) (a : Nat) : (m.writeN a bs).readN a bs.length = bs := by
  refine List.ext_getElem (by simp) fun k h1 h2 => ?_
  simp only [Memory.readN, List.getElem_map, List.getElem_range]
  exact Memory.read_writeN_inside bs m a k h2

/-! ## The canonical form -/

theorem mem_kset {α : Type} {m : List (Nat × α)} {k : Nat} {v : α} {p : Nat × α} (h : p ∈ kset m k v) :
    p = (k, v) ∨ p ∈ m := by
  induction m with
  | nil => simpa [kset] using h
  | cons q t ih =>
    obtain ⟨j, w⟩ := q
    unfold kset at h
    split at h
    · simpa using h
    · split at h
      · rcases List.mem_cons.1 h with h | h
        · exact .inl h
        · exact .inr (List.mem_cons_of_mem _ h)
      · rcases List.mem_cons.1 h with h | h
        · exact .inr (h ▸ List.mem_cons_self)
        · rcases ih h with h | h
          · exact .inl h
          · exact .inr (List.mem_cons_of_mem _ h)

theorem Sorted.kset {α : Type} {m : List (Nat × α)} (hm : Sorted m) (k : Nat) (v : α) : Sorted (kset m k v) := by
  induction m with
  | nil => simp [Machine.kset, Sorted]
  | cons q t ih =>
    obtain ⟨j, w⟩ := q
    have ht := List.pairwise_cons.1 hm
    unfold Machine.kset
    split
    · rename_i hk
      refine List.pairwise_cons.2 ⟨fun x hx => ?_, hm⟩
      rcases List.mem_cons.1 hx with rfl | hx
      · exact hk
      · exact Nat.lt_trans hk (ht.1 x hx)
    · split
      · rename_i h1 h2; subst h2; exact hm
      · rename_i h1 h2
        refine List.pairwise_cons.2 ⟨fun x hx => ?_, ih ht.2⟩
        obtain ⟨p, hp, rfl⟩ := List.mem_map.1 hx
        rcases mem_kset hp with rfl | hp
        · show j < k; omega
        · exact ht.1 _ (List.mem_map_of_mem hp)

theorem Sorted.filter {α : Type} {m : List (Nat × α)} (hm : Sorted m) (q : Nat × α → Bool) : Sorted (m.filter q) :=
  List.Pairwise.sublist (List.Sublist.map _ List.filter_sublist) hm

theorem Sorted.kdel {α : Type} {m : List (Nat × α)} (hm : Sorted m) (k : Nat) : Sorted (kdel m k) := hm.filter _

/-- A write of one byte keeps the canonical form. -/
theorem Memory.wf_write {m : Memory} (hm : m.wf) (a : Nat) (b : Byte) : (m.write a b).wf := by
  unfold Memory.write
  split
  · exact ⟨Sorted.kdel hm.1 a, fun c hc => hm.2 c (List.mem_filter.1 hc).1⟩
  · rename_i h
    refine ⟨Sorted.kset hm.1 a b, fun c hc => ?_⟩
    rcases mem_kset hc with rfl | hc
    · exact h
    · exact hm.2 c hc

/-- A write of several bytes keeps it. -/
theorem Memory.wf_writeN (bs : List Byte) {m : Memory} (hm : m.wf) (a : Nat) : (m.writeN a bs).wf := by
  induction bs generalizing m a with
  | nil => exact hm
  | cons b bs ih => exact ih (Memory.wf_write hm a b) _

/-- So does leaving out entries. -/
theorem Memory.wf_filter {m : Memory} (hm : m.wf) (q : Host.Cell → Bool) : Memory.wf (m.filter q) :=
  ⟨Sorted.filter hm.1 q, fun c hc => hm.2 c (List.mem_filter.1 hc).1⟩

theorem Memory.wf_nil : Memory.wf [] := by decide

/-- Equal reads are equal memories. -/
theorem Memory.ext_of_wf : ∀ {m n : Memory}, m.wf → n.wf → (∀ a, m.read a = n.read a) → m = n := by
  have key : ∀ {m : Memory}, m.wf → ∀ a b, (a, b) ∈ m ↔ b ≠ 0 ∧ m.read a = b := by
    intro m
    induction m with
    | nil => exact fun _ a b => ⟨fun h => absurd h List.not_mem_nil, fun h => absurd h.2.symm h.1⟩
    | cons p t ih =>
      obtain ⟨j, w⟩ := p
      intro hm a b
      have ht := List.pairwise_cons.1 hm.1
      have iht := ih ⟨ht.2, fun c hc => hm.2 c (List.mem_cons_of_mem _ hc)⟩ a b
      have hw : w ≠ 0 := hm.2 (j, w) List.mem_cons_self
      have hr : Memory.read ((j, w) :: t) a = if j = a then w else Memory.read t a := by
        unfold Memory.read; rw [kget_cons]; split <;> rfl
      rw [List.mem_cons, hr]
      by_cases hj : j = a
      · subst hj
        rw [if_pos rfl]
        constructor
        · rintro (h | h)
          · cases h; exact ⟨hw, rfl⟩
          · exact absurd (ht.1 j (List.mem_map_of_mem h)) (Nat.lt_irrefl _)
        · rintro ⟨_, rfl⟩; exact .inl rfl
      · rw [if_neg hj]
        constructor
        · rintro (h | h)
          · cases h; exact absurd rfl hj
          · exact iht.1 h
        · exact fun h => .inr (iht.2 h)
  intro m n hm hn h
  have hp : m.Perm n := by
    have nd : ∀ {m : Memory}, m.wf → m.Nodup := fun hm => ((hm.1.imp Nat.ne_of_lt).of_map _ fun _ _ h e => h (e ▸ rfl))
    refine (List.perm_ext_iff_of_nodup (nd hm) (nd hn)).2 fun p => ?_
    obtain ⟨a, b⟩ := p
    rw [key hm, key hn, h]
  refine hp.eq_of_pairwise (le := fun x y : Host.Cell => x.1 < y.1) (fun x y _ _ h1 h2 => ?_)
    (List.pairwise_map.1 hm.1) (List.pairwise_map.1 hn.1)
  omega

/-! ## The homes -/

theorem State.homeWrite_memWf {s : State} (h : s.memWf) (pa : Nat) (b : Byte) : (s.homeWrite pa b).memWf :=
  Memory.wf_write h pa b

/-- Noting a write changes no byte. -/
@[simp] theorem State.note_mem (s : State) (range : Nat) (loc : Loc) : (s.note range loc).mem = s.mem := rfl

theorem State.note_memWf {s : State} (h : s.memWf) (range : Nat) (loc : Loc) : (s.note range loc).memWf := h

theorem State.homeWriteN_memWf (bs : List Byte) {s : State} (h : s.memWf) (pa : Nat) : (s.homeWriteN pa bs).memWf := by
  induction bs generalizing s pa with
  | nil => exact h
  | cons b bs ih => exact ih (State.note_memWf (State.homeWrite_memWf h pa b) _ _) _

/-- A fold of steps that keep the form keeps it. -/
theorem State.foldl_memWf {α : Type} (f : State → α → State) (hf : ∀ s a, s.memWf → (f s a).memWf) (xs : List α) {s : State}
    (h : s.memWf) : (xs.foldl f s).memWf := by
  induction xs generalizing s with
  | nil => exact h
  | cons x xs ih => exact ih (hf s x h)

/-- A home byte reads back, and every other byte is as before. -/
@[simp] theorem State.homeRead_homeWrite (s : State) (pa q : Nat) (b : Byte) :
    (s.homeWrite pa b).homeRead q = if q = pa then b else s.homeRead q := by
  show Memory.read (Memory.write s.mem.home pa b) q = _
  split
  · rename_i h; subst h; simp
  · rename_i h; exact Memory.read_write_other _ b h

theorem State.homeRead_homeWriteN (bs : List Byte) (s : State) (pa q : Nat) (h : q < pa ∨ pa + bs.length ≤ q) :
    (s.homeWriteN pa bs).homeRead q = s.homeRead q := by
  induction bs generalizing s pa with
  | nil => rfl
  | cons b bs ih =>
    simp only [List.length_cons] at h
    rw [State.homeWriteN, ih _ _ (by omega), State.homeRead, State.note_mem, ← State.homeRead, State.homeRead_homeWrite,
      if_neg (by omega)]

theorem State.evictL2_memWf {s : State} (h : s.memWf) (pa : Nat) (p : Bool) : (s.evictL2 pa p).memWf := by
  unfold State.evictL2; split
  · exact h
  · dsimp only; repeat' split
    all_goals first | exact h | exact Memory.wf_write h pa _

theorem State.evictLine_memWf {s : State} (h : s.memWf) (line : Nat) : (s.evictLine line).memWf := by
  unfold State.evictLine; dsimp only
  refine State.foldl_memWf _ (fun s pa h => State.evictL2_memWf h pa _) _ ?_
  split
  · unfold State.sendCxl; split <;> exact h
  · exact h

theorem State.makeRoom_memWf {s : State} (h : s.memWf) (pa : Nat) : (s.makeRoom pa).memWf := by
  unfold State.makeRoom; split
  · exact h
  · simp only []
    split
    · exact h
    · exact State.evictLine_memWf (s := s.newFree.2) h _

theorem State.putL2_memWf {s : State} (h : s.memWf) (pa : Nat) (c : CByte) : (s.putL2 pa c).memWf := State.makeRoom_memWf h pa

theorem State.sliceWrite_memWf {s : State} (h : s.memWf) (pa : Nat) (b : Byte) : (s.sliceWrite pa b).memWf := by
  unfold State.sliceWrite; split
  · exact State.putL2_memWf h _ _
  · split
    · split
      · exact Memory.wf_write (State.putL2_memWf h pa ⟨b, false⟩) pa b
      · exact State.putL2_memWf h _ _
    · exact State.homeWrite_memWf h pa b

theorem State.sliceWriteN_memWf (bs : List Byte) {s : State} (h : s.memWf) (pa : Nat) : (s.sliceWriteN pa bs).memWf := by
  induction bs generalizing s pa with
  | nil => exact h
  | cons b bs ih => exact ih (State.note_memWf (State.sliceWrite_memWf h pa b) _ _) _

theorem State.applyDelta_memWf {s : State} (h : s.memWf) (d : Delta) : (s.applyDelta d).memWf :=
  State.sliceWriteN_memWf _ h _

theorem State.collect_memWf {s : State} (h : s.memWf) (q : Delta → Bool) : (s.collect q).memWf :=
  State.foldl_memWf State.applyDelta (fun _ d h => State.applyDelta_memWf h d) _ h

theorem State.cleanByte_memWf {s : State} (h : s.memWf) (clu pa : Nat) : (s.cleanByte clu pa).memWf := by
  unfold State.cleanByte; split
  · split
    · exact State.sliceWrite_memWf h pa _
    · exact h
  · exact h

theorem State.writeBackL1_memWf {s : State} (h : s.memWf) (clu : Nat) : (s.writeBackL1 clu).memWf :=
  State.foldl_memWf (fun s pa => s.cleanByte clu pa) (fun _ pa h => State.cleanByte_memWf h clu pa) _
    (State.collect_memWf h _)

theorem State.cleanLow_memWf {s : State} (h : s.memWf) (pa : Nat) : (s.cleanLow pa).memWf := by
  unfold State.cleanLow; dsimp only; repeat' split
  all_goals first | exact h | exact State.homeWrite_memWf h pa _

theorem State.putLine_memWf {s : State} (h : s.memWf) (line : Nat) (l : SLine) : (s.putLine line l).memWf :=
  Memory.wf_writeN _ h _

/-- Marking a line as stamped sends what the slice holds dirty of it home, and nothing else. -/
theorem State.markStamped_memWf {s : State} (h : s.memWf) (pa : Nat) : (s.markStamped pa).memWf := by
  have key : State.memWf (if s.lowCached pa then ((List.range 64).map (64 * (pa / 64) + ·)).foldl State.cleanLow s else s) := by
    split
    · exact State.foldl_memWf State.cleanLow (fun _ p h => State.cleanLow_memWf h p) _ h
    · exact h
  unfold State.markStamped
  dsimp only
  split
  · exact h
  · exact key

/-- A fill may make another line leave the L2 for its home (R2, R183). -/
theorem State.fillL2_memWf {s : State} (h : s.memWf) (pa : Nat) (b : Byte) : (s.fillL2 pa b).memWf := by
  unfold State.fillL2; split
  · exact h
  · exact State.putL2_memWf h _ _

theorem State.l1Fill_memWf {s : State} (h : s.memWf) (clu pa : Nat) : (s.l1Fill clu pa).memWf := by
  unfold State.l1Fill
  refine State.foldl_memWf _ (fun u k hu => ?_) _ h
  dsimp only; split
  · exact hu
  · exact hu
  · split
    · exact State.fillL2_memWf hu _ _
    · exact hu

/-! ## What leaves the homes alone -/

@[simp] theorem State.dropByte_home (s : State) (clu pa : Nat) : (s.dropByte clu pa).mem.home = s.mem.home := rfl
@[simp] theorem State.dropClean_home (s : State) (clu : Nat) : (s.dropClean clu).mem.home = s.mem.home := rfl
@[simp] theorem State.l1Write_home (s : State) (clu pa : Nat) (b : Byte) : (s.l1Write clu pa b).mem.home = s.mem.home := rfl
@[simp] theorem State.markCached_home (s : State) (pa : Nat) (c : Bool) : (s.markCached pa c).mem.home = s.mem.home := by
  unfold State.markCached; split <;> rfl
@[simp] theorem State.tlbFill_home (s : State) (clu : Nat) (e : Bool) (vf proc : Nat) (va : W64) :
    (s.tlbFill clu e vf proc va).mem.home = s.mem.home := by
  unfold State.tlbFill; split
  · simp
  · split
    · simp
    · rfl
@[simp] theorem State.notify_mem (s : State) (vf : Nat) (n : Notice) : (s.notify vf n).mem = s.mem := rfl
@[simp] theorem State.faultMsg_mem (s : State) (vf proc : Nat) (page : W64) (k j p : Nat) :
    (s.faultMsg vf proc page k j p).mem = s.mem := by
  unfold State.faultMsg; dsimp only; split <;> rfl
@[simp] theorem State.nextFresh_mem (s : State) : s.nextFresh.mem = s.mem := rfl
@[simp] theorem State.charge_mem (s : State) (tile vf proc id : Nat) (r : Bool) (raw : Nat) :
    (s.charge tile vf proc id r raw).1.mem = s.mem := rfl
@[simp] theorem State.chargeCtx_mem (s : State) (c : Ctx) (tile cls n : Nat) : (s.chargeCtx c tile cls n).mem = s.mem := by
  unfold State.chargeCtx; split <;> rfl
@[simp] theorem State.bill_mem (s : State) (c : Ctx) (cycles present : Nat) : (s.bill c cycles present).mem = s.mem := by
  unfold State.bill; dsimp only; repeat' split
  all_goals first | rfl | simp
@[simp] theorem State.afterIssue_mem (s : State) (c : Ctx) (cycles present : Nat) (yld : Bool) :
    (s.afterIssue c cycles present yld).mem = s.mem := by
  unfold State.afterIssue; simp only [State.modCtx_mem]; split <;> simp
@[simp] theorem State.takeTrap_mem (s : State) (id cls detail mask : Nat) (pc next : W64) :
    (s.takeTrap id cls detail mask pc next).mem = s.mem := by
  unfold State.takeTrap; split
  · rfl
  · split
    · rfl
    · dsimp only
      repeat' split
      all_goals rfl

/-! ## What other packages do -/

@[simp] theorem State.learnImage_mem (s : State) (im : Image) : (s.learnImage im).mem = s.mem := rfl

theorem State.peerStore_memWf {s : State} (h : s.memWf) (pa : Nat) (bs : List Byte) : (s.peerStore pa bs).memWf := by
  unfold State.peerStore; split
  · exact Memory.wf_writeN _ h _
  · exact h

theorem State.mergeLine_memWf {s : State} (h : s.memWf) (pa : Nat) (bs : List (Option Byte)) : (s.mergeLine pa bs).memWf := by
  unfold State.mergeLine
  refine State.foldl_memWf _ (fun s x h => ?_) _ h
  split
  · exact State.sliceWrite_memWf h _ _
  · exact h

/-! ## Results that become free (R208) -/

/-- A spoiled result changes tiles, scratch areas, and, for an MSTO, the bytes that it stored. -/
theorem State.spoil_memWf {s : State} (h : s.memWf) (r : Range) (e : MqEntry) (rows : Nat) : (s.spoil r e rows).memWf := by
  unfold State.spoil; dsimp only; split
  · refine State.foldl_memWf _ (fun u d hu => ?_) _ h
    refine State.foldl_memWf _ (fun v k hv => ?_) _ hu
    split
    · exact State.sliceWrite_memWf (show (v.dropByte _ _).memWf from hv) _ _
    · exact hv
    · exact hv
  · exact h

theorem State.noteWrites_memWf {t : State} (h : t.memWf) (s : State) : (t.noteWrites s).memWf := by
  unfold State.noteWrites
  refine State.foldl_memWf _ (fun t r h => ?_) _ h
  split
  · have h1 : ∀ (es : List MqEntry) {u : State}, u.memWf → (es.foldl (fun (t : State) e => t.spoil r e 64) u).memWf :=
      fun es _ h => State.foldl_memWf _ (fun _ e h => State.spoil_memWf h r e 64) es h
    dsimp only
    have h2 := State.foldl_memWf (fun (t : State) e => if e.op == 0xB4 && e.acks.isNone then t
        else t.spoil r e (if e.done then 64 else if e.started then 8 * (r.prog[e.tile]?).getD 0 else 0))
      (fun t e h => by split; exact h; exact State.spoil_memWf h r e _)
    split
    · exact h2 _ (h1 _ h)
    · exact h2 _ (h1 _ h)
  · exact h

end Sys2Proof.Machine
end

