-- ==== Sys2Proof/Laws/Ops.lean ====
section
/-! SUPPORT. What the shared operations on contexts do: look-ups after an update, the end of an issue, the advance of the
PCs, and taking a trap. -/

namespace Sys2Proof.Machine

/-! ## Look-ups -/

theorem State.ctx_id {s : State} {id : Nat} {c : Ctx} (h : s.ctx id = some c) : c.id = id := by
  simpa using List.find?_some h

theorem State.ctx_mem {s : State} {id : Nat} {c : Ctx} (h : s.ctx id = some c) : c ∈ s.ctxs := List.mem_of_find?_eq_some h

theorem State.launch_id {s : State} {id : Nat} {l : Launch} (h : s.launch id = some l) : l.id = id := by
  simpa using List.find?_some h

theorem State.launchOf_launch {s : State} {c : Ctx} {l : Launch} (h : s.launchOf c = some l) : s.launch l.id = some l := by
  unfold State.launchOf at h
  split at h
  · rw [State.launch_id h]; exact h
  · cases h

/-- A look-up by number after an update of one record that keeps its number. -/
theorem find_map_id {α : Type} (ident : α → Nat) (f : α → α) (id k : Nat) (hf : ∀ x, ident x = id → ident (f x) = id)
    (xs : List α) :
    (xs.map fun x => if ident x == id then f x else x).find? (fun x => ident x == k) =
      (xs.find? fun x => ident x == k).map fun x => if k = id then f x else x := by
  induction xs with
  | nil => rfl
  | cons x xs ih =>
    rw [List.map_cons, List.find?_cons, List.find?_cons]
    by_cases hx : ident x = id
    · rw [if_pos (by simpa using hx), hf x hx]
      by_cases hk : id = k
      · simp [hk, hx]
      · have hb : (id == k) = false := by simpa using hk
        simp only [hb, hx]; exact ih
    · rw [if_neg (by simpa using hx)]
      by_cases hk : ident x = k
      · have : k ≠ id := fun h => hx (hk.trans h)
        simp [hk, this]
      · have hb : (ident x == k) = false := by simpa using hk
        simp only [hb]; exact ih

theorem State.ctx_modCtx (s : State) (id k : Nat) (f : Ctx → Ctx) (hf : ∀ c, c.id = id → (f c).id = id) :
    (s.modCtx id f).ctx k = (s.ctx k).map fun c => if k = id then f c else c :=
  find_map_id Ctx.id f id k hf s.ctxs

theorem State.ctx_modCtx_same {s : State} {id : Nat} {c : Ctx} (h : s.ctx id = some c) (f : Ctx → Ctx)
    (hf : ∀ c, c.id = id → (f c).id = id) : (s.modCtx id f).ctx id = some (f c) := by
  rw [State.ctx_modCtx s id id f hf, h]; simp

theorem State.ctx_modCtx_other (s : State) {id k : Nat} (f : Ctx → Ctx) (hf : ∀ c, c.id = id → (f c).id = id) (h : k ≠ id) :
    (s.modCtx id f).ctx k = s.ctx k := by
  rw [State.ctx_modCtx s id k f hf]; simp [h]

theorem State.ctx_setCtx_same {s : State} {c d : Ctx} (h : s.ctx d.id = some c) : (s.setCtx d).ctx d.id = some d :=
  State.ctx_modCtx_same h _ fun _ _ => rfl

theorem State.ctx_setCtx_other (s : State) (d : Ctx) {k : Nat} (h : k ≠ d.id) : (s.setCtx d).ctx k = s.ctx k :=
  State.ctx_modCtx_other s _ (fun _ _ => rfl) h

theorem State.launch_modLaunch_same {s : State} {id : Nat} {l : Launch} (h : s.launch id = some l) (f : Launch → Launch)
    (hf : ∀ l, l.id = id → (f l).id = id) : (s.modLaunch id f).launch id = some (f l) := by
  have := find_map_id Launch.id f id id hf s.launches
  show (s.modLaunch id f).launches.find? _ = _
  rw [State.modLaunch, this, show s.launches.find? (fun x => x.id == id) = some l from h]; simp

@[simp] theorem State.launchOf_modCtx (s : State) (id : Nat) (f : Ctx → Ctx) (c : Ctx) :
    (s.modCtx id f).launchOf c = s.launchOf c := rfl

@[simp] theorem State.coreNumber_modCtx (s : State) (id : Nat) (f : Ctx → Ctx) (c : Ctx) :
    (s.modCtx id f).coreNumber c = s.coreNumber c := rfl

/-! ## The PCs -/

@[simp] theorem Ctx.setPcs_id (c : Ctx) (ls : List Nat) (pc : W64) : (c.setPcs ls pc).id = c.id := rfl

theorem Ctx.setPcs_lane (c : Ctx) (ls : List Nat) (pc : W64) (l : Nat) :
    (c.setPcs ls pc).lanes[l]? =
      (c.lanes[l]?).map fun x => if ls.contains l && x.item.isSome then { x with pc := pc } else x := by
  unfold Ctx.setPcs
  simp only [List.getElem?_zipWith]
  by_cases h : l < c.lanes.length
  · simp [h]
  · simp [h]

/-- What an advance or a move of PCs leaves of every lane. -/
theorem Ctx.setPcs_keeps {β : Type} (g : Lane → β) (hg : ∀ (x : Lane) (pc : W64), g { x with pc := pc } = g x) (c : Ctx)
    (ls : List Nat) (pc : W64) : (c.setPcs ls pc).lanes.map g = c.lanes.map g := by
  refine List.ext_getElem? fun l => ?_
  rw [List.getElem?_map, List.getElem?_map, Ctx.setPcs_lane, Option.map_map]
  congr 1
  funext x
  simp only [Function.comp]
  split
  · exact hg x pc
  · rfl

/-- An advance changes the PCs and the REP state alone. -/
theorem Ctx.advance_keeps (c : Ctx) (issuing : List Nat) (next : W64) :
    ({ c.advance issuing next with lanes := c.lanes, rep := c.rep, pc := c.pc } : Ctx) = c := by
  unfold Ctx.advance; split <;> rfl

@[simp] theorem Ctx.advance_id (c : Ctx) (issuing : List Nat) (next : W64) : (c.advance issuing next).id = c.id := by
  unfold Ctx.advance; split <;> rfl

theorem Ctx.advance_lanes {β : Type} (g : Lane → β) (hg : ∀ (x : Lane) (pc : W64), g { x with pc := pc } = g x) (c : Ctx)
    (issuing : List Nat) (next : W64) : (c.advance issuing next).lanes.map g = c.lanes.map g := by
  unfold Ctx.advance; split <;> exact Ctx.setPcs_keeps g hg _ _ _

/-! ## The end of an issue -/

/-- What an issue charges: the free choices and the energy, and the sub-meters of its own context. -/
theorem State.chargeCtx_frame (s : State) (c : Ctx) (tile cls n : Nat) :
    ({ s.chargeCtx c tile cls n with ctxs := s.ctxs, fresh := s.fresh, energy := s.energy } : State) = s := by
  unfold State.chargeCtx; split <;> rfl

theorem State.chargeCtx_ctxs (s : State) (c : Ctx) (tile cls n : Nat) :
    ∃ h : List Sub → List Sub, (s.chargeCtx c tile cls n).ctxs =
      s.ctxs.map fun (d : Ctx) => if d.id == c.id then { d with subs := h d.subs } else d := by
  unfold State.chargeCtx
  split
  · exact ⟨id, by simp⟩
  · dsimp only; exact ⟨_, rfl⟩

/-- A bill changes the contexts, the clocks, the free choices and the energy alone. -/
theorem State.bill_frame (s : State) (c : Ctx) (cycles present : Nat) :
    ({ s.bill c cycles present with
      ctxs := s.ctxs, cycles := s.cycles, fresh := s.fresh, energy := s.energy } : State) = s := by
  unfold State.bill State.chargeCtx State.charge
  dsimp only
  repeat' split
  all_goals rfl

theorem State.bill_cycles (s : State) (c : Ctx) (cycles present : Nat) :
    (s.bill c cycles present).cycles =
      kset s.cycles (s.coreNumber c)
        ((kget s.cycles (s.coreNumber c)).getD 0 + cycles + Config.freeCycles s.fresh) := by
  unfold State.bill State.chargeCtx State.charge
  dsimp only
  repeat' split
  all_goals rfl

/-- The state with the cycles of the core of a context advanced by an issue. -/
def State.clocked (s : State) (c : Ctx) (cycles : Nat) : State :=
  { s with
    cycles := kset s.cycles (s.coreNumber c)
      ((kget s.cycles (s.coreNumber c)).getD 0 + cycles + Config.freeCycles s.fresh) }

/-- Of the contexts, a bill changes its own: ISSUED and the sub-meters. -/
theorem State.bill_ctxs (s : State) (c : Ctx) (cycles present : Nat) :
    ∃ h : List Sub → List Sub, (s.bill c cycles present).ctxs =
      s.ctxs.map fun (d : Ctx) => if d.id == c.id then { d with subs := h d.subs, issued := d.issued + 1 } else d := by
  have key : ∀ (t : State) (h : List Sub → List Sub),
      (t.ctxs = s.ctxs.map fun (d : Ctx) => if d.id == c.id then { d with subs := h d.subs } else d) →
      (t.modCtx c.id fun c => { c with issued := c.issued + 1 }).ctxs =
        s.ctxs.map fun (d : Ctx) => if d.id == c.id then { d with subs := h d.subs, issued := d.issued + 1 } else d := by
    intro t h ht
    show t.ctxs.map _ = _
    rw [ht, List.map_map]
    refine List.map_congr_left fun d _ => ?_
    by_cases hd : d.id = c.id <;> simp [hd]
  unfold State.bill
  dsimp only
  split
  · split
    · exact ⟨id, key _ id (by simp)⟩
    · exact (State.chargeCtx_ctxs (s.clocked c cycles) c (clusterTile (s.cluOf c)) 1 (2 * present * cycles)).elim
        fun h he => ⟨h, key _ h he⟩
  · exact (State.chargeCtx_ctxs (s.clocked c cycles) c (clusterTile (s.cluOf c)) 0 2).elim fun h he => ⟨h, key _ h he⟩

/-- The end of an issue changes the contexts, the clocks, the free choices and the energy alone. -/
theorem State.afterIssue_frame (s : State) (c : Ctx) (cycles present : Nat) (yld : Bool) :
    ({ s.afterIssue c cycles present yld with
      ctxs := s.ctxs, cycles := s.cycles, fresh := s.fresh, energy := s.energy } : State) = s := by
  unfold State.afterIssue; split
  · rfl
  · exact State.bill_frame s c cycles present

/-- Of the contexts, it changes its own: the bill, unless the word was billed when it began to wait, and the active slot. -/
theorem State.afterIssue_ctxs (s : State) (c : Ctx) (cycles present : Nat) (yld : Bool) :
    ∃ h : List Sub → List Sub, (s.afterIssue c cycles present yld).ctxs =
      s.ctxs.map fun (d : Ctx) => if d.id == c.id then
        { d with
          subs := h d.subs, issued := d.issued + (!c.billed).toNat, billed := false
          active := d.active && !(yld && d.trap != .slot) } else d := by
  unfold State.afterIssue; split
  · rename_i hb
    refine ⟨id, List.map_congr_left fun d _ => ?_⟩
    simp [hb]
  · rename_i hb
    obtain ⟨h, he⟩ := State.bill_ctxs s c cycles present
    refine ⟨h, ?_⟩
    show (s.bill c cycles present).ctxs.map _ = _
    rw [he, List.map_map]
    refine List.map_congr_left fun d _ => ?_
    by_cases hd : d.id = c.id <;> simp [hd, hb]

/-! ## Taking a trap -/

/-- Taking a trap changes the contexts, the launches and the next fresh number alone. -/
theorem State.takeTrap_frame (s : State) (id cls detail mask : Nat) (pc next : W64) :
    ({ s.takeTrap id cls detail mask pc next with
      ctxs := s.ctxs, launches := s.launches, nextId := s.nextId } : State) = s := by
  unfold State.takeTrap; split
  · rfl
  · split
    · rfl
    · dsimp only
      repeat' split
      all_goals rfl

/-- Of the contexts, it changes the one that traps. -/
theorem State.takeTrap_ctx_other (s : State) (id cls detail mask : Nat) (pc next : W64) {k : Nat} (h : k ≠ id) :
    (s.takeTrap id cls detail mask pc next).ctx k = s.ctx k := by
  unfold State.takeTrap; split
  · rfl
  · rename_i c hc
    have hid := State.ctx_id hc
    have key : ∀ d : Ctx, d.id = c.id → (s.setCtx d).ctx k = s.ctx k := fun d hd =>
      State.ctx_setCtx_other s d (by rw [hd, hid]; exact h)
    split
    · rfl
    · dsimp only
      repeat' split
      all_goals exact key _ rfl

/-- The context as a trap leaves it before it finds its place: the frame written and its masks and PCs saved. -/
def Ctx.trapped (c : Ctx) (cls detail mask : Nat) (pc next : W64) : Ctx :=
  { c with
    priv := Memory.writeN c.priv 0 (c.frameHead cls detail mask pc next ++ List.replicate 40 0 ++ c.framePcs)
    active := false, billed := false, visited := []
    save := some { pc := pc, next := next, mask := mask, lanePcs := c.lanes.map (·.pc)
                   waiting := c.lanes.map (·.waiting), bars := c.bars, rep := c.rep
                   compact := c.kind != .strand, wait := c.wait } }

@[simp] theorem State.slotOpen_modLaunch (s : State) (id range core : Nat) (f : Launch → Launch) :
    (s.modLaunch id f).slotOpen range core = s.slotOpen range core := rfl

/-- With a trap entry and the slot open, the context enters its handler. -/
theorem State.takeTrap_slot {s : State} {id : Nat} {c : Ctx} {l : Launch} {entry : W64} (cls detail mask : Nat)
    (pc next : W64) (hc : s.ctx id = some c) (hl : s.launchOf c = some l) (ht : c.trap ≠ .slot) (hk : c.kind ≠ .control)
    (he : l.trapEntry = some entry) (hf : s.slotOpen c.range c.core = true) :
    (s.takeTrap id cls detail mask pc next).ctx id = some ((c.trapped cls detail mask pc next).enterSlot entry) := by
  have hid := State.ctx_id hc
  have key : ∀ t : State, t.ctxs = s.ctxs → ∀ d : Ctx, d.id = c.id → (t.setCtx d).ctx id = some d := fun t ht d hd => by
    have : t.ctx d.id = some c := by rw [hd, hid, ← hc]; simp only [State.ctx, ht]
    have := State.ctx_setCtx_same this
    rwa [hd, hid] at this
  unfold State.takeTrap
  simp only [hc, hl, hk, he, beq_iff_eq, ht, if_false]
  by_cases h2 : cls = 2
  · simp only [h2, if_true, State.slotOpen_modLaunch, hf]
    exact key (s.modLaunch _ _) rfl _ rfl
  · simp only [h2, if_false, hf, if_true]
    exact key s rfl _ rfl

/-- With the slot held, or others before it, it waits for its turn. -/
theorem State.takeTrap_queued {s : State} {id : Nat} {c : Ctx} {l : Launch} {entry : W64} (cls detail mask : Nat)
    (pc next : W64) (hc : s.ctx id = some c) (hl : s.launchOf c = some l) (ht : c.trap ≠ .slot) (hk : c.kind ≠ .control)
    (he : l.trapEntry = some entry) (hf : s.slotOpen c.range c.core = false) :
    (s.takeTrap id cls detail mask pc next).ctx id =
      some { c.trapped cls detail mask pc next with trap := .queued s.nextId, wait := .none } := by
  have hid := State.ctx_id hc
  have key : ∀ t : State, t.ctxs = s.ctxs → ∀ d : Ctx, d.id = c.id → (t.setCtx d).ctx id = some d := fun t ht d hd => by
    have : t.ctx d.id = some c := by rw [hd, hid, ← hc]; simp only [State.ctx, ht]
    have := State.ctx_setCtx_same this
    rwa [hd, hid] at this
  have key2 : ∀ (t : State) (d : Ctx) (n : Nat), t.ctxs = s.ctxs → d.id = c.id →
      ({ t.setCtx d with nextId := n } : State).ctx id = some d := fun t d n ht hd => key t ht d hd
  unfold State.takeTrap Ctx.trapped
  simp only [hc, hl, hk, he, beq_iff_eq, ht, if_false]
  by_cases h2 : cls = 2
  · simp only [h2, if_true, State.slotOpen_modLaunch, hf, Bool.false_eq_true, if_false, State.modLaunch_nextId]
    exact key2 _ _ _ (State.modLaunch_ctxs s _ _) rfl
  · simp only [h2, if_false, hf, Bool.false_eq_true]
    exact key2 _ _ _ rfl rfl

end Sys2Proof.Machine
end

