-- ==== Sys2Proof/Laws/PerInstr.lean ====
section
/-! SUPPORT. One lemma for every constructor: the opcode that the encoder gives an instruction leads the decoder back to
its constructor, and an event has no word. -/

namespace Sys2Proof.Laws.Opcode

/-- The opcode of the instruction's word is one byte and names its constructor. -/
def Statement (i : Instr) : Prop :=
  (∀ op f, i.word = some (op, f) → op < 256 ∧ Instr.ofWord op f = some i) ∧
  (∀ op f, i.offWord = some (op, f) → op < 256 ∧ Instr.ofOffWord op f = some i)

theorem nop (f : Fields) : Statement (.nop f) :=
  ⟨fun _ _ h => by cases h; exact ⟨by decide, rfl⟩, fun _ _ h => (by cases h)⟩

theorem bra (f : OffFields) : Statement (.bra f) :=
  ⟨fun _ _ h => (by cases h), fun _ _ h => by cases h; exact ⟨by decide, rfl⟩⟩

theorem brx (f : Fields) : Statement (.brx f) :=
  ⟨fun _ _ h => by cases h; exact ⟨by decide, rfl⟩, fun _ _ h => (by cases h)⟩

theorem call (f : OffFields) : Statement (.call f) :=
  ⟨fun _ _ h => (by cases h), fun _ _ h => by cases h; exact ⟨by decide, rfl⟩⟩

theorem ret (f : Fields) : Statement (.ret f) :=
  ⟨fun _ _ h => by cases h; exact ⟨by decide, rfl⟩, fun _ _ h => (by cases h)⟩

theorem exit (f : Fields) : Statement (.exit f) :=
  ⟨fun _ _ h => by cases h; exact ⟨by decide, rfl⟩, fun _ _ h => (by cases h)⟩

theorem yield (f : Fields) : Statement (.yield f) :=
  ⟨fun _ _ h => by cases h; exact ⟨by decide, rfl⟩, fun _ _ h => (by cases h)⟩

theorem rep (f : Fields) : Statement (.rep f) :=
  ⟨fun _ _ h => by cases h; exact ⟨by decide, rfl⟩, fun _ _ h => (by cases h)⟩

theorem trap (f : Fields) : Statement (.trap f) :=
  ⟨fun _ _ h => by cases h; exact ⟨by decide, rfl⟩, fun _ _ h => (by cases h)⟩

theorem brk (f : Fields) : Statement (.brk f) :=
  ⟨fun _ _ h => by cases h; exact ⟨by decide, rfl⟩, fun _ _ h => (by cases h)⟩

theorem rte (f : Fields) : Statement (.rte f) :=
  ⟨fun _ _ h => by cases h; exact ⟨by decide, rfl⟩, fun _ _ h => (by cases h)⟩

theorem mfsr (f : Fields) : Statement (.mfsr f) :=
  ⟨fun _ _ h => by cases h; exact ⟨by decide, rfl⟩, fun _ _ h => (by cases h)⟩

theorem mtsr (f : Fields) : Statement (.mtsr f) :=
  ⟨fun _ _ h => by cases h; exact ⟨by decide, rfl⟩, fun _ _ h => (by cases h)⟩

theorem waitk (f : Fields) : Statement (.waitk f) :=
  ⟨fun _ _ h => by cases h; exact ⟨by decide, rfl⟩, fun _ _ h => (by cases h)⟩

theorem split (f : Fields) : Statement (.split f) :=
  ⟨fun _ _ h => by cases h; exact ⟨by decide, rfl⟩, fun _ _ h => (by cases h)⟩

theorem join (f : Fields) : Statement (.join f) :=
  ⟨fun _ _ h => by cases h; exact ⟨by decide, rfl⟩, fun _ _ h => (by cases h)⟩

theorem refill (f : OffFields) : Statement (.refill f) :=
  ⟨fun _ _ h => (by cases h), fun _ _ h => by cases h; exact ⟨by decide, rfl⟩⟩

theorem bmark (f : Fields) : Statement (.bmark f) :=
  ⟨fun _ _ h => by cases h; exact ⟨by decide, rfl⟩, fun _ _ h => (by cases h)⟩

theorem rjoin (f : Fields) : Statement (.rjoin f) :=
  ⟨fun _ _ h => by cases h; exact ⟨by decide, rfl⟩, fun _ _ h => (by cases h)⟩

theorem spanq (f : OffFields) : Statement (.spanq f) :=
  ⟨fun _ _ h => (by cases h), fun _ _ h => by cases h; exact ⟨by decide, rfl⟩⟩

theorem rgrow (f : Fields) : Statement (.rgrow f) :=
  ⟨fun _ _ h => by cases h; exact ⟨by decide, rfl⟩, fun _ _ h => (by cases h)⟩

theorem form (f : Fields) : Statement (.form f) :=
  ⟨fun _ _ h => by cases h; exact ⟨by decide, rfl⟩, fun _ _ h => (by cases h)⟩

theorem iadd (f : Fields) : Statement (.iadd f) :=
  ⟨fun _ _ h => by cases h; exact ⟨by decide, rfl⟩, fun _ _ h => (by cases h)⟩

theorem isub (f : Fields) : Statement (.isub f) :=
  ⟨fun _ _ h => by cases h; exact ⟨by decide, rfl⟩, fun _ _ h => (by cases h)⟩

theorem imul (f : Fields) : Statement (.imul f) :=
  ⟨fun _ _ h => by cases h; exact ⟨by decide, rfl⟩, fun _ _ h => (by cases h)⟩

theorem imad (f : Fields) : Statement (.imad f) :=
  ⟨fun _ _ h => by cases h; exact ⟨by decide, rfl⟩, fun _ _ h => (by cases h)⟩

theorem idiv (f : Fields) : Statement (.idiv f) :=
  ⟨fun _ _ h => by cases h; exact ⟨by decide, rfl⟩, fun _ _ h => (by cases h)⟩

theorem irem (f : Fields) : Statement (.irem f) :=
  ⟨fun _ _ h => by cases h; exact ⟨by decide, rfl⟩, fun _ _ h => (by cases h)⟩

theorem imin (f : Fields) : Statement (.imin f) :=
  ⟨fun _ _ h => by cases h; exact ⟨by decide, rfl⟩, fun _ _ h => (by cases h)⟩

theorem imax (f : Fields) : Statement (.imax f) :=
  ⟨fun _ _ h => by cases h; exact ⟨by decide, rfl⟩, fun _ _ h => (by cases h)⟩

theorem iabs (f : Fields) : Statement (.iabs f) :=
  ⟨fun _ _ h => by cases h; exact ⟨by decide, rfl⟩, fun _ _ h => (by cases h)⟩

theorem ineg (f : Fields) : Statement (.ineg f) :=
  ⟨fun _ _ h => by cases h; exact ⟨by decide, rfl⟩, fun _ _ h => (by cases h)⟩

theorem iaddx (f : Fields) : Statement (.iaddx f) :=
  ⟨fun _ _ h => by cases h; exact ⟨by decide, rfl⟩, fun _ _ h => (by cases h)⟩

theorem and (f : Fields) : Statement (.and f) :=
  ⟨fun _ _ h => by cases h; exact ⟨by decide, rfl⟩, fun _ _ h => (by cases h)⟩

theorem or (f : Fields) : Statement (.or f) :=
  ⟨fun _ _ h => by cases h; exact ⟨by decide, rfl⟩, fun _ _ h => (by cases h)⟩

theorem xor (f : Fields) : Statement (.xor f) :=
  ⟨fun _ _ h => by cases h; exact ⟨by decide, rfl⟩, fun _ _ h => (by cases h)⟩

theorem not (f : Fields) : Statement (.not f) :=
  ⟨fun _ _ h => by cases h; exact ⟨by decide, rfl⟩, fun _ _ h => (by cases h)⟩

theorem andn (f : Fields) : Statement (.andn f) :=
  ⟨fun _ _ h => by cases h; exact ⟨by decide, rfl⟩, fun _ _ h => (by cases h)⟩

theorem shl (f : Fields) : Statement (.shl f) :=
  ⟨fun _ _ h => by cases h; exact ⟨by decide, rfl⟩, fun _ _ h => (by cases h)⟩

theorem shr (f : Fields) : Statement (.shr f) :=
  ⟨fun _ _ h => by cases h; exact ⟨by decide, rfl⟩, fun _ _ h => (by cases h)⟩

theorem rot (f : Fields) : Statement (.rot f) :=
  ⟨fun _ _ h => by cases h; exact ⟨by decide, rfl⟩, fun _ _ h => (by cases h)⟩

theorem bfx (f : Fields) : Statement (.bfx f) :=
  ⟨fun _ _ h => by cases h; exact ⟨by decide, rfl⟩, fun _ _ h => (by cases h)⟩

theorem bfi (f : Fields) : Statement (.bfi f) :=
  ⟨fun _ _ h => by cases h; exact ⟨by decide, rfl⟩, fun _ _ h => (by cases h)⟩

theorem popc (f : Fields) : Statement (.popc f) :=
  ⟨fun _ _ h => by cases h; exact ⟨by decide, rfl⟩, fun _ _ h => (by cases h)⟩

theorem clz (f : Fields) : Statement (.clz f) :=
  ⟨fun _ _ h => by cases h; exact ⟨by decide, rfl⟩, fun _ _ h => (by cases h)⟩

theorem brev (f : Fields) : Statement (.brev f) :=
  ⟨fun _ _ h => by cases h; exact ⟨by decide, rfl⟩, fun _ _ h => (by cases h)⟩

theorem prm (f : Fields) : Statement (.prm f) :=
  ⟨fun _ _ h => by cases h; exact ⟨by decide, rfl⟩, fun _ _ h => (by cases h)⟩

theorem icmp (f : Fields) : Statement (.icmp f) :=
  ⟨fun _ _ h => by cases h; exact ⟨by decide, rfl⟩, fun _ _ h => (by cases h)⟩

theorem fcmp (f : Fields) : Statement (.fcmp f) :=
  ⟨fun _ _ h => by cases h; exact ⟨by decide, rfl⟩, fun _ _ h => (by cases h)⟩

theorem sel (f : Fields) : Statement (.sel f) :=
  ⟨fun _ _ h => by cases h; exact ⟨by decide, rfl⟩, fun _ _ h => (by cases h)⟩

theorem mov (f : Fields) : Statement (.mov f) :=
  ⟨fun _ _ h => by cases h; exact ⟨by decide, rfl⟩, fun _ _ h => (by cases h)⟩

theorem plog (f : Fields) : Statement (.plog f) :=
  ⟨fun _ _ h => by cases h; exact ⟨by decide, rfl⟩, fun _ _ h => (by cases h)⟩

theorem pmov (f : Fields) : Statement (.pmov f) :=
  ⟨fun _ _ h => by cases h; exact ⟨by decide, rfl⟩, fun _ _ h => (by cases h)⟩

theorem fadd (f : Fields) : Statement (.fadd f) :=
  ⟨fun _ _ h => by cases h; exact ⟨by decide, rfl⟩, fun _ _ h => (by cases h)⟩

theorem fsub (f : Fields) : Statement (.fsub f) :=
  ⟨fun _ _ h => by cases h; exact ⟨by decide, rfl⟩, fun _ _ h => (by cases h)⟩

theorem fmul (f : Fields) : Statement (.fmul f) :=
  ⟨fun _ _ h => by cases h; exact ⟨by decide, rfl⟩, fun _ _ h => (by cases h)⟩

theorem ffma (f : Fields) : Statement (.ffma f) :=
  ⟨fun _ _ h => by cases h; exact ⟨by decide, rfl⟩, fun _ _ h => (by cases h)⟩

theorem fmin (f : Fields) : Statement (.fmin f) :=
  ⟨fun _ _ h => by cases h; exact ⟨by decide, rfl⟩, fun _ _ h => (by cases h)⟩

theorem fmax (f : Fields) : Statement (.fmax f) :=
  ⟨fun _ _ h => by cases h; exact ⟨by decide, rfl⟩, fun _ _ h => (by cases h)⟩

theorem fsgn (f : Fields) : Statement (.fsgn f) :=
  ⟨fun _ _ h => by cases h; exact ⟨by decide, rfl⟩, fun _ _ h => (by cases h)⟩

theorem fclass (f : Fields) : Statement (.fclass f) :=
  ⟨fun _ _ h => by cases h; exact ⟨by decide, rfl⟩, fun _ _ h => (by cases h)⟩

theorem frnd (f : Fields) : Statement (.frnd f) :=
  ⟨fun _ _ h => by cases h; exact ⟨by decide, rfl⟩, fun _ _ h => (by cases h)⟩

theorem frcp (f : Fields) : Statement (.frcp f) :=
  ⟨fun _ _ h => by cases h; exact ⟨by decide, rfl⟩, fun _ _ h => (by cases h)⟩

theorem frsq (f : Fields) : Statement (.frsq f) :=
  ⟨fun _ _ h => by cases h; exact ⟨by decide, rfl⟩, fun _ _ h => (by cases h)⟩

theorem fsqrt (f : Fields) : Statement (.fsqrt f) :=
  ⟨fun _ _ h => by cases h; exact ⟨by decide, rfl⟩, fun _ _ h => (by cases h)⟩

theorem fdiv (f : Fields) : Statement (.fdiv f) :=
  ⟨fun _ _ h => by cases h; exact ⟨by decide, rfl⟩, fun _ _ h => (by cases h)⟩

theorem fexp2 (f : Fields) : Statement (.fexp2 f) :=
  ⟨fun _ _ h => by cases h; exact ⟨by decide, rfl⟩, fun _ _ h => (by cases h)⟩

theorem flog2 (f : Fields) : Statement (.flog2 f) :=
  ⟨fun _ _ h => by cases h; exact ⟨by decide, rfl⟩, fun _ _ h => (by cases h)⟩

theorem fsin (f : Fields) : Statement (.fsin f) :=
  ⟨fun _ _ h => by cases h; exact ⟨by decide, rfl⟩, fun _ _ h => (by cases h)⟩

theorem fcos (f : Fields) : Statement (.fcos f) :=
  ⟨fun _ _ h => by cases h; exact ⟨by decide, rfl⟩, fun _ _ h => (by cases h)⟩

theorem cvt (f : Fields) : Statement (.cvt f) :=
  ⟨fun _ _ h => by cases h; exact ⟨by decide, rfl⟩, fun _ _ h => (by cases h)⟩

theorem pack (f : Fields) : Statement (.pack f) :=
  ⟨fun _ _ h => by cases h; exact ⟨by decide, rfl⟩, fun _ _ h => (by cases h)⟩

theorem unpk (f : Fields) : Statement (.unpk f) :=
  ⟨fun _ _ h => by cases h; exact ⟨by decide, rfl⟩, fun _ _ h => (by cases h)⟩

theorem sclb (f : Fields) : Statement (.sclb f) :=
  ⟨fun _ _ h => by cases h; exact ⟨by decide, rfl⟩, fun _ _ h => (by cases h)⟩

theorem shfl (f : Fields) : Statement (.shfl f) :=
  ⟨fun _ _ h => by cases h; exact ⟨by decide, rfl⟩, fun _ _ h => (by cases h)⟩

theorem vote (f : Fields) : Statement (.vote f) :=
  ⟨fun _ _ h => by cases h; exact ⟨by decide, rfl⟩, fun _ _ h => (by cases h)⟩

theorem rdx (f : Fields) : Statement (.rdx f) :=
  ⟨fun _ _ h => by cases h; exact ⟨by decide, rfl⟩, fun _ _ h => (by cases h)⟩

theorem scan (f : Fields) : Statement (.scan f) :=
  ⟨fun _ _ h => by cases h; exact ⟨by decide, rfl⟩, fun _ _ h => (by cases h)⟩

theorem elect (f : Fields) : Statement (.elect f) :=
  ⟨fun _ _ h => by cases h; exact ⟨by decide, rfl⟩, fun _ _ h => (by cases h)⟩

theorem rndx (f : Fields) : Statement (.rndx f) :=
  ⟨fun _ _ h => by cases h; exact ⟨by decide, rfl⟩, fun _ _ h => (by cases h)⟩

theorem ld (f : Fields) : Statement (.ld f) :=
  ⟨fun _ _ h => by cases h; exact ⟨by decide, rfl⟩, fun _ _ h => (by cases h)⟩

theorem st (f : Fields) : Statement (.st f) :=
  ⟨fun _ _ h => by cases h; exact ⟨by decide, rfl⟩, fun _ _ h => (by cases h)⟩

theorem pref (f : Fields) : Statement (.pref f) :=
  ⟨fun _ _ h => by cases h; exact ⟨by decide, rfl⟩, fun _ _ h => (by cases h)⟩

theorem crng (f : Fields) : Statement (.crng f) :=
  ⟨fun _ _ h => by cases h; exact ⟨by decide, rfl⟩, fun _ _ h => (by cases h)⟩

theorem fence (f : Fields) : Statement (.fence f) :=
  ⟨fun _ _ h => by cases h; exact ⟨by decide, rfl⟩, fun _ _ h => (by cases h)⟩

theorem atom (f : Fields) : Statement (.atom f) :=
  ⟨fun _ _ h => by cases h; exact ⟨by decide, rfl⟩, fun _ _ h => (by cases h)⟩

theorem cas (f : Fields) : Statement (.cas f) :=
  ⟨fun _ _ h => by cases h; exact ⟨by decide, rfl⟩, fun _ _ h => (by cases h)⟩

theorem red (f : Fields) : Statement (.red f) :=
  ⟨fun _ _ h => by cases h; exact ⟨by decide, rfl⟩, fun _ _ h => (by cases h)⟩

theorem lkrd (f : Fields) : Statement (.lkrd f) :=
  ⟨fun _ _ h => by cases h; exact ⟨by decide, rfl⟩, fun _ _ h => (by cases h)⟩

theorem lkwr (f : Fields) : Statement (.lkwr f) :=
  ⟨fun _ _ h => by cases h; exact ⟨by decide, rfl⟩, fun _ _ h => (by cases h)⟩

theorem ulrd (f : Fields) : Statement (.ulrd f) :=
  ⟨fun _ _ h => by cases h; exact ⟨by decide, rfl⟩, fun _ _ h => (by cases h)⟩

theorem ulwr (f : Fields) : Statement (.ulwr f) :=
  ⟨fun _ _ h => by cases h; exact ⟨by decide, rfl⟩, fun _ _ h => (by cases h)⟩

theorem cpy (f : Fields) : Statement (.cpy f) :=
  ⟨fun _ _ h => by cases h; exact ⟨by decide, rfl⟩, fun _ _ h => (by cases h)⟩

theorem chain (f : Fields) : Statement (.chain f) :=
  ⟨fun _ _ h => by cases h; exact ⟨by decide, rfl⟩, fun _ _ h => (by cases h)⟩

theorem chq (f : Fields) : Statement (.chq f) :=
  ⟨fun _ _ h => by cases h; exact ⟨by decide, rfl⟩, fun _ _ h => (by cases h)⟩

theorem mcst (f : Fields) : Statement (.mcst f) :=
  ⟨fun _ _ h => by cases h; exact ⟨by decide, rfl⟩, fun _ _ h => (by cases h)⟩

theorem ainit (f : Fields) : Statement (.ainit f) :=
  ⟨fun _ _ h => by cases h; exact ⟨by decide, rfl⟩, fun _ _ h => (by cases h)⟩

theorem arv (f : Fields) : Statement (.arv f) :=
  ⟨fun _ _ h => by cases h; exact ⟨by decide, rfl⟩, fun _ _ h => (by cases h)⟩

theorem await (f : Fields) : Statement (.await f) :=
  ⟨fun _ _ h => by cases h; exact ⟨by decide, rfl⟩, fun _ _ h => (by cases h)⟩

theorem mma (f : Fields) : Statement (.mma f) :=
  ⟨fun _ _ h => by cases h; exact ⟨by decide, rfl⟩, fun _ _ h => (by cases h)⟩

theorem mmas (f : Fields) : Statement (.mmas f) :=
  ⟨fun _ _ h => by cases h; exact ⟨by decide, rfl⟩, fun _ _ h => (by cases h)⟩

theorem mzero (f : Fields) : Statement (.mzero f) :=
  ⟨fun _ _ h => by cases h; exact ⟨by decide, rfl⟩, fun _ _ h => (by cases h)⟩

theorem mldc (f : Fields) : Statement (.mldc f) :=
  ⟨fun _ _ h => by cases h; exact ⟨by decide, rfl⟩, fun _ _ h => (by cases h)⟩

theorem msto (f : Fields) : Statement (.msto f) :=
  ⟨fun _ _ h => by cases h; exact ⟨by decide, rfl⟩, fun _ _ h => (by cases h)⟩

theorem mfen (f : Fields) : Statement (.mfen f) :=
  ⟨fun _ _ h => by cases h; exact ⟨by decide, rfl⟩, fun _ _ h => (by cases h)⟩

theorem mprg (f : Fields) : Statement (.mprg f) :=
  ⟨fun _ _ h => by cases h; exact ⟨by decide, rfl⟩, fun _ _ h => (by cases h)⟩

theorem barg (f : Fields) : Statement (.barg f) :=
  ⟨fun _ _ h => by cases h; exact ⟨by decide, rfl⟩, fun _ _ h => (by cases h)⟩

theorem grpq (f : Fields) : Statement (.grpq f) :=
  ⟨fun _ _ h => by cases h; exact ⟨by decide, rfl⟩, fun _ _ h => (by cases h)⟩

theorem sendg (f : Fields) : Statement (.sendg f) :=
  ⟨fun _ _ h => by cases h; exact ⟨by decide, rfl⟩, fun _ _ h => (by cases h)⟩

theorem offer (f : Fields) : Statement (.offer f) :=
  ⟨fun _ _ h => by cases h; exact ⟨by decide, rfl⟩, fun _ _ h => (by cases h)⟩

theorem wdraw (f : Fields) : Statement (.wdraw f) :=
  ⟨fun _ _ h => by cases h; exact ⟨by decide, rfl⟩, fun _ _ h => (by cases h)⟩

theorem recv (f : Fields) : Statement (.recv f) :=
  ⟨fun _ _ h => by cases h; exact ⟨by decide, rfl⟩, fun _ _ h => (by cases h)⟩

theorem qstat (f : Fields) : Statement (.qstat f) :=
  ⟨fun _ _ h => by cases h; exact ⟨by decide, rfl⟩, fun _ _ h => (by cases h)⟩

theorem time (f : Fields) : Statement (.time f) :=
  ⟨fun _ _ h => by cases h; exact ⟨by decide, rfl⟩, fun _ _ h => (by cases h)⟩

theorem tunc (f : Fields) : Statement (.tunc f) :=
  ⟨fun _ _ h => by cases h; exact ⟨by decide, rfl⟩, fun _ _ h => (by cases h)⟩

theorem sts (f : Fields) : Statement (.sts f) :=
  ⟨fun _ _ h => by cases h; exact ⟨by decide, rfl⟩, fun _ _ h => (by cases h)⟩

theorem ldat (f : Fields) : Statement (.ldat f) :=
  ⟨fun _ _ h => by cases h; exact ⟨by decide, rfl⟩, fun _ _ h => (by cases h)⟩

theorem twait (f : Fields) : Statement (.twait f) :=
  ⟨fun _ _ h => by cases h; exact ⟨by decide, rfl⟩, fun _ _ h => (by cases h)⟩

theorem enrg (f : Fields) : Statement (.enrg f) :=
  ⟨fun _ _ h => by cases h; exact ⟨by decide, rfl⟩, fun _ _ h => (by cases h)⟩

theorem emark (f : Fields) : Statement (.emark f) :=
  ⟨fun _ _ h => by cases h; exact ⟨by decide, rfl⟩, fun _ _ h => (by cases h)⟩

theorem spawn (f : Fields) : Statement (.spawn f) :=
  ⟨fun _ _ h => by cases h; exact ⟨by decide, rfl⟩, fun _ _ h => (by cases h)⟩

theorem grow (f : Fields) : Statement (.grow f) :=
  ⟨fun _ _ h => by cases h; exact ⟨by decide, rfl⟩, fun _ _ h => (by cases h)⟩

theorem lnq (f : Fields) : Statement (.lnq f) :=
  ⟨fun _ _ h => by cases h; exact ⟨by decide, rfl⟩, fun _ _ h => (by cases h)⟩

theorem pstat (f : Fields) : Statement (.pstat f) :=
  ⟨fun _ _ h => by cases h; exact ⟨by decide, rfl⟩, fun _ _ h => (by cases h)⟩

theorem illegalWord : Statement .illegalWord :=
  ⟨fun _ _ h => (by cases h), fun _ _ h => (by cases h)⟩

theorem trapSlotGrant (core : Nat) : Statement (.trapSlotGrant core) :=
  ⟨fun _ _ h => (by cases h), fun _ _ h => (by cases h)⟩

theorem tokenOperationComplete (op : Nat) : Statement (.tokenOperationComplete op) :=
  ⟨fun _ _ h => (by cases h), fun _ _ h => (by cases h)⟩

theorem activeSetPromote (core : Nat) : Statement (.activeSetPromote core) :=
  ⟨fun _ _ h => (by cases h), fun _ _ h => (by cases h)⟩

theorem overdueReplace (core : Nat) : Statement (.overdueReplace core) :=
  ⟨fun _ _ h => (by cases h), fun _ _ h => (by cases h)⟩

theorem joinTimeout (ctx : Nat) : Statement (.joinTimeout ctx) :=
  ⟨fun _ _ h => (by cases h), fun _ _ h => (by cases h)⟩

theorem spaceWaiterSpill (core : Nat) : Statement (.spaceWaiterSpill core) :=
  ⟨fun _ _ h => (by cases h), fun _ _ h => (by cases h)⟩

theorem spilledContextReturn (core : Nat) : Statement (.spilledContextReturn core) :=
  ⟨fun _ _ h => (by cases h), fun _ _ h => (by cases h)⟩

theorem remainderStrandForm (ctx : Nat) : Statement (.remainderStrandForm ctx) :=
  ⟨fun _ _ h => (by cases h), fun _ _ h => (by cases h)⟩

theorem matrixEngineExecute (clu : Nat) : Statement (.matrixEngineExecute clu) :=
  ⟨fun _ _ h => (by cases h), fun _ _ h => (by cases h)⟩

theorem matrixRowGroup (clu : Nat) : Statement (.matrixRowGroup clu) :=
  ⟨fun _ _ h => (by cases h), fun _ _ h => (by cases h)⟩

theorem matrixInstructionComplete (clu : Nat) : Statement (.matrixInstructionComplete clu) :=
  ⟨fun _ _ h => (by cases h), fun _ _ h => (by cases h)⟩

theorem multicastComplete (xfer : Nat) : Statement (.multicastComplete xfer) :=
  ⟨fun _ _ h => (by cases h), fun _ _ h => (by cases h)⟩

theorem copySegment (xfer : Nat) : Statement (.copySegment xfer) :=
  ⟨fun _ _ h => (by cases h), fun _ _ h => (by cases h)⟩

theorem transferComplete (xfer : Nat) : Statement (.transferComplete xfer) :=
  ⟨fun _ _ h => (by cases h), fun _ _ h => (by cases h)⟩

theorem chainRecord (range chan : Nat) : Statement (.chainRecord range chan) :=
  ⟨fun _ _ h => (by cases h), fun _ _ h => (by cases h)⟩

theorem translationWalk (clu : Nat) (engine : Bool) (vf proc : Nat) (va : W64) : Statement (.translationWalk clu engine vf proc va) :=
  ⟨fun _ _ h => (by cases h), fun _ _ h => (by cases h)⟩

theorem shootdown (vf proc : Nat) (va : W64) : Statement (.shootdown vf proc va) :=
  ⟨fun _ _ h => (by cases h), fun _ _ h => (by cases h)⟩

theorem l1Eviction (clu line : Nat) : Statement (.l1Eviction clu line) :=
  ⟨fun _ _ h => (by cases h), fun _ _ h => (by cases h)⟩

theorem l2Eviction (line : Nat) (portion : Bool) : Statement (.l2Eviction line portion) :=
  ⟨fun _ _ h => (by cases h), fun _ _ h => (by cases h)⟩

theorem deltaFlush (clu line : Nat) : Statement (.deltaFlush clu line) :=
  ⟨fun _ _ h => (by cases h), fun _ _ h => (by cases h)⟩

theorem commandTake (queue : Nat) : Statement (.commandTake queue) :=
  ⟨fun _ _ h => (by cases h), fun _ _ h => (by cases h)⟩

theorem dependenceRecheck : Statement .dependenceRecheck :=
  ⟨fun _ _ h => (by cases h), fun _ _ h => (by cases h)⟩

theorem nopCommand (cmd : Nat) : Statement (.nopCommand cmd) :=
  ⟨fun _ _ h => (by cases h), fun _ _ h => (by cases h)⟩

theorem launch (cmd : Nat) : Statement (.launch cmd) :=
  ⟨fun _ _ h => (by cases h), fun _ _ h => (by cases h)⟩

theorem mark (cmd : Nat) : Statement (.mark cmd) :=
  ⟨fun _ _ h => (by cases h), fun _ _ h => (by cases h)⟩

theorem kill (cmd : Nat) : Statement (.kill cmd) :=
  ⟨fun _ _ h => (by cases h), fun _ _ h => (by cases h)⟩

theorem checkpoint (cmd : Nat) : Statement (.checkpoint cmd) :=
  ⟨fun _ _ h => (by cases h), fun _ _ h => (by cases h)⟩

theorem restore (cmd : Nat) : Statement (.restore cmd) :=
  ⟨fun _ _ h => (by cases h), fun _ _ h => (by cases h)⟩

theorem resolve (cmd : Nat) : Statement (.resolve cmd) :=
  ⟨fun _ _ h => (by cases h), fun _ _ h => (by cases h)⟩

theorem refuse (cmd : Nat) : Statement (.refuse cmd) :=
  ⟨fun _ _ h => (by cases h), fun _ _ h => (by cases h)⟩

theorem vfacct (cmd : Nat) : Statement (.vfacct cmd) :=
  ⟨fun _ _ h => (by cases h), fun _ _ h => (by cases h)⟩

theorem partition (cmd : Nat) : Statement (.partition cmd) :=
  ⟨fun _ _ h => (by cases h), fun _ _ h => (by cases h)⟩

theorem preemptvf (cmd : Nat) : Statement (.preemptvf cmd) :=
  ⟨fun _ _ h => (by cases h), fun _ _ h => (by cases h)⟩

theorem procwt (cmd : Nat) : Statement (.procwt cmd) :=
  ⟨fun _ _ h => (by cases h), fun _ _ h => (by cases h)⟩

theorem queueTailWrite (via : Via) (queue : Nat) (tail : W64) : Statement (.queueTailWrite via queue tail) :=
  ⟨fun _ _ h => (by cases h), fun _ _ h => (by cases h)⟩

theorem queueDescriptorWrite (queue : Nat) (desc : BitVec 128) : Statement (.queueDescriptorWrite queue desc) :=
  ⟨fun _ _ h => (by cases h), fun _ _ h => (by cases h)⟩

theorem rangePlace (launchId : Nat) : Statement (.rangePlace launchId) :=
  ⟨fun _ _ h => (by cases h), fun _ _ h => (by cases h)⟩

theorem rangeRetire (range : Nat) : Statement (.rangeRetire range) :=
  ⟨fun _ _ h => (by cases h), fun _ _ h => (by cases h)⟩

theorem launchEnd (launchId : Nat) : Statement (.launchEnd launchId) :=
  ⟨fun _ _ h => (by cases h), fun _ _ h => (by cases h)⟩

theorem barrierArrivalMessage (msg : BarrierMsg) : Statement (.barrierArrivalMessage msg) :=
  ⟨fun _ _ h => (by cases h), fun _ _ h => (by cases h)⟩

theorem barrierRelease (launchId group : Nat) : Statement (.barrierRelease launchId group) :=
  ⟨fun _ _ h => (by cases h), fun _ _ h => (by cases h)⟩

theorem barrierRangeSave (range : Nat) : Statement (.barrierRangeSave range) :=
  ⟨fun _ _ h => (by cases h), fun _ _ h => (by cases h)⟩

theorem rangeRestore (range : Nat) : Statement (.rangeRestore range) :=
  ⟨fun _ _ h => (by cases h), fun _ _ h => (by cases h)⟩

theorem chargePost (tile : Nat) : Statement (.chargePost tile) :=
  ⟨fun _ _ h => (by cases h), fun _ _ h => (by cases h)⟩

theorem vfStopped (vf : Nat) : Statement (.vfStopped vf) :=
  ⟨fun _ _ h => (by cases h), fun _ _ h => (by cases h)⟩

theorem accountingWindowEnd (meas : List TileMeas) (overhead : Int) : Statement (.accountingWindowEnd meas overhead) :=
  ⟨fun _ _ h => (by cases h), fun _ _ h => (by cases h)⟩

theorem sliceEnd (vf : Nat) : Statement (.sliceEnd vf) :=
  ⟨fun _ _ h => (by cases h), fun _ _ h => (by cases h)⟩

theorem blockError (block : Block) (poison : List Nat) : Statement (.blockError block poison) :=
  ⟨fun _ _ h => (by cases h), fun _ _ h => (by cases h)⟩

theorem selfTest (block : Block) (pass destroyed : Bool) : Statement (.selfTest block pass destroyed) :=
  ⟨fun _ _ h => (by cases h), fun _ _ h => (by cases h)⟩

theorem machineCheck (launchId pa : Nat) : Statement (.machineCheck launchId pa) :=
  ⟨fun _ _ h => (by cases h), fun _ _ h => (by cases h)⟩

theorem calibrationLoad (tile : Nat) (coefs : List Nat) : Statement (.calibrationLoad tile coefs) :=
  ⟨fun _ _ h => (by cases h), fun _ _ h => (by cases h)⟩

theorem freeze : Statement .freeze :=
  ⟨fun _ _ h => (by cases h), fun _ _ h => (by cases h)⟩

theorem packageReset (imageOk : Bool) : Statement (.packageReset imageOk) :=
  ⟨fun _ _ h => (by cases h), fun _ _ h => (by cases h)⟩

theorem recoveryImage (image : NewImage) (digest : BitVec 256) : Statement (.recoveryImage image digest) :=
  ⟨fun _ _ h => (by cases h), fun _ _ h => (by cases h)⟩

theorem attestationRequest (nonce : BitVec 256) : Statement (.attestationRequest nonce) :=
  ⟨fun _ _ h => (by cases h), fun _ _ h => (by cases h)⟩

theorem meridianTick : Statement .meridianTick :=
  ⟨fun _ _ h => (by cases h), fun _ _ h => (by cases h)⟩

theorem timingFlitSend (port : Nat) : Statement (.timingFlitSend port) :=
  ⟨fun _ _ h => (by cases h), fun _ _ h => (by cases h)⟩

theorem timingFlit (port : Nat) (lo hi : Nat) : Statement (.timingFlit port lo hi) :=
  ⟨fun _ _ h => (by cases h), fun _ _ h => (by cases h)⟩

theorem referenceInput (present : Bool) (ref : Nat) : Statement (.referenceInput present ref) :=
  ⟨fun _ _ h => (by cases h), fun _ _ h => (by cases h)⟩

theorem oscillatorDisagreement : Statement .oscillatorDisagreement :=
  ⟨fun _ _ h => (by cases h), fun _ _ h => (by cases h)⟩

theorem standbyTakeover (usable : Bool) : Statement (.standbyTakeover usable) :=
  ⟨fun _ _ h => (by cases h), fun _ _ h => (by cases h)⟩

theorem stsCommit (op : Nat) : Statement (.stsCommit op) :=
  ⟨fun _ _ h => (by cases h), fun _ _ h => (by cases h)⟩

theorem stsRecordArrival (rec : StsRec) : Statement (.stsRecordArrival rec) :=
  ⟨fun _ _ h => (by cases h), fun _ _ h => (by cases h)⟩

theorem stsStatusReturn (op status : Nat) : Statement (.stsStatusReturn op status) :=
  ⟨fun _ _ h => (by cases h), fun _ _ h => (by cases h)⟩

theorem recordFold (line : Nat) : Statement (.recordFold line) :=
  ⟨fun _ _ h => (by cases h), fun _ _ h => (by cases h)⟩

theorem ldatAnswer (op : Nat) (remote : Option (Nat × W64)) : Statement (.ldatAnswer op remote) :=
  ⟨fun _ _ h => (by cases h), fun _ _ h => (by cases h)⟩

theorem twaitWake (ctx : Nat) : Statement (.twaitWake ctx) :=
  ⟨fun _ _ h => (by cases h), fun _ _ h => (by cases h)⟩

theorem flitReceive (port : Nat) (flit : RawFlit) : Statement (.flitReceive port flit) :=
  ⟨fun _ _ h => (by cases h), fun _ _ h => (by cases h)⟩

theorem resendRequest (port ctr : Nat) : Statement (.resendRequest port ctr) :=
  ⟨fun _ _ h => (by cases h), fun _ _ h => (by cases h)⟩

theorem laneErasure (port lane : Nat) : Statement (.laneErasure port lane) :=
  ⟨fun _ _ h => (by cases h), fun _ _ h => (by cases h)⟩

theorem portDown (port : Nat) : Statement (.portDown port) :=
  ⟨fun _ _ h => (by cases h), fun _ _ h => (by cases h)⟩

theorem linkTraining (port : Nat) (rho : Option Nat) : Statement (.linkTraining port rho) :=
  ⟨fun _ _ h => (by cases h), fun _ _ h => (by cases h)⟩

theorem pauseUpdate (port : Nat) (vcs : BitVec 8) : Statement (.pauseUpdate port vcs) :=
  ⟨fun _ _ h => (by cases h), fun _ _ h => (by cases h)⟩

theorem keyStage (port : Nat) : Statement (.keyStage port) :=
  ⟨fun _ _ h => (by cases h), fun _ _ h => (by cases h)⟩

theorem keyExhausted (port : Nat) : Statement (.keyExhausted port) :=
  ⟨fun _ _ h => (by cases h), fun _ _ h => (by cases h)⟩

theorem keyTimeout (port : Nat) : Statement (.keyTimeout port) :=
  ⟨fun _ _ h => (by cases h), fun _ _ h => (by cases h)⟩

theorem remoteRequest (req : RemoteReq) : Statement (.remoteRequest req) :=
  ⟨fun _ _ h => (by cases h), fun _ _ h => (by cases h)⟩

theorem transactionResend (r : Resend) : Statement (.transactionResend r) :=
  ⟨fun _ _ h => (by cases h), fun _ _ h => (by cases h)⟩

theorem nodeFailed (f : NodeReport) : Statement (.nodeFailed f) :=
  ⟨fun _ _ h => (by cases h), fun _ _ h => (by cases h)⟩

theorem writeBackMerge (sender : Sender) (pa : Nat) (bytes : List (Option Byte)) (evict : Bool) : Statement (.writeBackMerge sender pa bytes evict) :=
  ⟨fun _ _ h => (by cases h), fun _ _ h => (by cases h)⟩

theorem invalidation (line : Nat) : Statement (.invalidation line) :=
  ⟨fun _ _ h => (by cases h), fun _ _ h => (by cases h)⟩

theorem collapse (vf proc : Nat) (va : W64) (ownerPa : Nat) : Statement (.collapse vf proc va ownerPa) :=
  ⟨fun _ _ h => (by cases h), fun _ _ h => (by cases h)⟩

theorem ownershipRequest (page piece : Nat) (sender : Sender) : Statement (.ownershipRequest page piece sender) :=
  ⟨fun _ _ h => (by cases h), fun _ _ h => (by cases h)⟩

theorem readinessReport (level : Level) (child : Nat) (key : Key) (total : Nat) (live : Bool) : Statement (.readinessReport level child key total live) :=
  ⟨fun _ _ h => (by cases h), fun _ _ h => (by cases h)⟩

theorem messageSteer (msg : Nat) (arrives : Option InMsg) : Statement (.messageSteer msg arrives) :=
  ⟨fun _ _ h => (by cases h), fun _ _ h => (by cases h)⟩

theorem messageTake (msg : Nat) : Statement (.messageTake msg) :=
  ⟨fun _ _ h => (by cases h), fun _ _ h => (by cases h)⟩

theorem parkedWake (key : Key) : Statement (.parkedWake key) :=
  ⟨fun _ _ h => (by cases h), fun _ _ h => (by cases h)⟩

theorem sendStatusReturn (msg status : Nat) : Statement (.sendStatusReturn msg status) :=
  ⟨fun _ _ h => (by cases h), fun _ _ h => (by cases h)⟩

theorem cxlResponse (tag : Nat) (bytes : List Byte) (poison : Bool) : Statement (.cxlResponse tag bytes poison) :=
  ⟨fun _ _ h => (by cases h), fun _ _ h => (by cases h)⟩

theorem cxlTimeout (tag : Nat) : Statement (.cxlTimeout tag) :=
  ⟨fun _ _ h => (by cases h), fun _ _ h => (by cases h)⟩

theorem rmaWrite (window off : Nat) (bytes : List Byte) (via : Via) : Statement (.rmaWrite window off bytes via) :=
  ⟨fun _ _ h => (by cases h), fun _ _ h => (by cases h)⟩

theorem rmaRead (window off len : Nat) (via : Via) : Statement (.rmaRead window off len via) :=
  ⟨fun _ _ h => (by cases h), fun _ _ h => (by cases h)⟩

theorem unsupportedOperation (via : Via) : Statement (.unsupportedOperation via) :=
  ⟨fun _ _ h => (by cases h), fun _ _ h => (by cases h)⟩

theorem notificationHeadWrite (via : Via) (ring : RingHead) : Statement (.notificationHeadWrite via ring) :=
  ⟨fun _ _ h => (by cases h), fun _ _ h => (by cases h)⟩

theorem registerWrite (reg : MgmtWrite) : Statement (.registerWrite reg) :=
  ⟨fun _ _ h => (by cases h), fun _ _ h => (by cases h)⟩

theorem periodStart (vf : Nat) : Statement (.periodStart vf) :=
  ⟨fun _ _ h => (by cases h), fun _ _ h => (by cases h)⟩

theorem tokenOutstandingBeyond64Cycles (ctx : Nat) : Statement (.tokenOutstandingBeyond64Cycles ctx) :=
  ⟨fun _ _ h => (by cases h), fun _ _ h => (by cases h)⟩

theorem serviceCoreFailure : Statement .serviceCoreFailure :=
  ⟨fun _ _ h => (by cases h), fun _ _ h => (by cases h)⟩

theorem cxlRangeConfiguration (ranges : List CxlRange) : Statement (.cxlRangeConfiguration ranges) :=
  ⟨fun _ _ h => (by cases h), fun _ _ h => (by cases h)⟩

end Sys2Proof.Laws.Opcode
end

