-- ==== Sys2Proof/Tests/Slice0.lean ====
section
/-! SUPPORT. The tests: words of the manual, ill-formed terms that the checks refuse, worked examples of the manual, and for
every statement a concrete state and operands that meet its hypotheses. -/

set_option maxRecDepth 100000
set_option exponentiation.threshold 1000

namespace Sys2Proof.Tests

open Sys2Proof.Machine

/-! ## Small states -/

def noHints : Hints := ⟨0, false, 0, false, false, 0, 0, false⟩
def always : Guard := ⟨false, 7⟩
def unused : Opnd := .v 0

/-- A word of the type with its three operands, unguarded and without hints. -/
def w (ty : Ty) (d a b : Opnd) : Fields := ⟨0, ty, always, 0, d, a, b, 0, noHints⟩

/-- Its variant, modifier and X. -/
def wx (var : BitVec 4) (ty : Ty) (mod : BitVec 8) (d a b : Opnd) (x : BitVec 8) : Fields :=
  ⟨var, ty, always, mod, d, a, b, x, noHints⟩

/-- The same under a token. -/
def wt (f : Fields) : Fields := { f with h := { noHints with se := true, setk := 1 } }

def wo (d : Opnd) (off : BitVec 24) : OffFields := ⟨always, d, off, noHints⟩

/-- Strands of 8 lanes, 16 item registers, 64 scalars, a trap entry at word 64; items 0 to 7 are group 1. -/
def launch : Launch :=
  { placeLaunch 1 false with cmd := { placeCmd false with vregs := 15, trapidx := 64, job := 5 }, groups := [⟨1, [⟨0, 8, 1⟩]⟩] }

/-- Scalar k is 64 × k. -/
def scalars : List W64 := (List.range 64).map fun k => BitVec.ofNat 64 (64 * k)

/-- A span [0, 64): v0 to v3 are 10, 3, 0 and 7, v4 is 100 + 4 × item; p0 true, p1 the items from 8 to 23, p2 false. -/
def spanCtx : Ctx :=
  { placeCtx 1 false with
    regs := [.u 10, .u 3, .u 0, .u 7, .a 100 4] ++ List.replicate 11 (.u 0)
    preds := [.u true, .i 8 24, .u false, .u false, .u false, .u false, .u false], scal := scalars }

/-- A strand of items 0 to 7: register r of lane l is 1024 × r + 8 × l; p0 holds in the even lanes, p1 in the first four. -/
def strandCtx : Ctx :=
  { placeCtx 1 false with
    kind := .strand, regs := List.replicate 16 .m, preds := List.replicate 7 .m, scal := scalars
    lanes := (List.range 8).map fun l => ⟨some l, 0, none, (List.range 16).map fun r => BitVec.ofNat 32 (1024 * r + 8 * l),
      [l % 2 == 0, decide (l < 4), true, false, false, false, false]⟩ }

/-- A control program. -/
def controlCtx : Ctx := { placeCtx 1 true with scal := scalars, preds := List.replicate 7 (.u true) }

/-- One placed context; the first 64 KiB are mapped, the next 64 KiB as a stamped page, and bytes 0x400 to 0x407 hold 1
to 8. -/
def stateOf (c : Ctx) : State :=
  { State.reset with
    cur := 1, nextId := 100, ctxs := [c], ranges := [placeRange 1], launches := [launch]
    mem := { Mem.reset with
      home := Memory.writeN [] 0x400 [1, 2, 3, 4, 5, 6, 7, 8]
      tlb := [placeTlb, ⟨0, false, 0, 0, 0x10000, ⟨0x10000, 2 ^ 16, true, true, false, true, false, false, false, 0⟩⟩] }
    mer := { Meridian.reset with
      clo := 1000 * 2 ^ 32, chi := 1010 * 2 ^ 32, lo := 1000, hi := 1010, dielo := 1000, diehi := 1012
      synced := true, state := 0 } }

def span : State := stateOf spanCtx
def strand : State := stateOf strandCtx
def control : State := stateOf controlCtx

/-- The word can issue in the state, and the issue satisfies `q`. -/
def issues (op : Nat) (f : Fields) (s : State) (q : Iss → Bool) : Bool := (issueOf op f s).any q
def issuesOff (op : Nat) (f : OffFields) (s : State) (q : Iss → Bool) : Bool := (issueOffOf op f s).any q

/-- The state after an instruction, when it answers one. -/
def after (i : Instr) (s : State) : Option State :=
  match exec i s with
  | .next t => some t
  | _ => none

def scalAfter (i : Instr) (s : State) (r : Nat) : Option W64 := ((after i s).bind (·.ctx 1)).bind fun c => c.scal[r]?
def ctxAfter (i : Instr) (s : State) : Option Ctx := (after i s).bind (·.ctx 1)
def lanesAfter (i : Instr) (s : State) (r : Nat) : Option (List W32) :=
  (ctxAfter i s).map fun c => c.lanes.map fun x => (x.regs[r]?).getD 0
def predsAfter (i : Instr) (s : State) (p : Nat) : Option (List Bool) :=
  (ctxAfter i s).map fun c => c.lanes.map fun x => (x.preds[p]?).getD false
def pcAfter (i : Instr) (s : State) : Option W64 := (ctxAfter i s).map (·.pc)

/-- The state with scalar r set. -/
def withScal (s : State) (r : Nat) (v : W64) : State := s.modCtx 1 fun c => c.writeScal r v

/-- A reliable packet secured with the key of VF 0 or 1, and a state that has these keys. -/
def via : Via := ⟨0, .reliableUnordered, some 3⟩
def keyed (s : State) : State := { s with host := { s.host with keys := [(0, 3), (1, 4)] } }

def isSpan (c : Ctx) : Bool :=
  match c.kind with
  | .span _ _ => true
  | _ => false
def isU (f : Form) : Bool :=
  match f with
  | .u _ => true
  | _ => false

/-- An operation outstanding under a token. -/
def withOp (s : State) (o : Op) : State := { s with ops := s.ops ++ [o] }
def readyOp : Op := ⟨7, [1], some 1, .ready, 0⟩

/-- An unacknowledged store of the context at node 9. -/
def remoteOp : Op := ⟨8, [1], none, .remote 9 false 1, 0⟩

/-- A span in its handler, and a strand in its handler: saved at word 3, next word 4. -/
def handler (s : State) : State :=
  s.modCtx 1 fun c => { c with
    trap := .slot, active := false
    save := some ⟨36, 48, 255, c.lanes.map (·.pc), c.lanes.map (·.waiting), c.bars, none, c.kind != .strand, .none⟩ }
/-- Word k of a strand, a span with uniform sources, and a control program, for the value instructions. -/
def valWords (d a b : Opnd) (d64 a64 b64 : Opnd) : List (Nat × Fields) :=
  [(0x20, w .s32 d a b), (0x21, w .s32 d a b), (0x22, w .s64 d64 a64 b64), (0x24, w .s32 d a b),
    (0x25, w .n32 d a b), (0x26, w .s32 d a b), (0x27, w .n64 d64 a64 b64), (0x28, w .s32 d a unused), (0x29, w .s32 d a unused),
    (0x30, w .b32 d a b), (0x31, w .b32 d a b), (0x32, w .b64 d64 a64 b64), (0x33, w .b32 d a unused), (0x34, w .b32 d a b),
    (0x35, w .b32 d a b), (0x36, w .s32 d a b), (0x37, w .b32 d a b), (0x38, wx 0 .s32 0 d a b 8), (0x39, wx 0 .b32 0 d a b 8),
    (0x3A, w .b32 d a unused), (0x3B, w .b32 d a unused), (0x3C, w .b32 d a unused), (0x78, w .b64 d64 a64 b64),
    (0x50, w .f32 d a b), (0x51, w .f32 d a b), (0x52, w .f64 d64 a64 b64), (0x54, w .f32 d a b), (0x55, w .f32 d a b),
    (0x56, w .f32 d a b), (0x57, w .f32 d a unused), (0x58, w .f32 d a unused), (0x60, w .f32 d a unused), (0x61, w .f32 d a unused),
    (0x62, w .f32 d a unused), (0x63, w .f32 d a b), (0x64, w .f32 d a unused), (0x65, w .f32 d a unused), (0x66, w .f32 d a unused),
    (0x67, w .f32 d a unused), (0x68, wx 0 .f32 0 d a unused 1), (0x6A, w .f16 d a unused), (0x6B, w .f32 d a b)]

/-- Those that have no scalar destination (R83, R92, R102). -/
def itemWords : List (Nat × Fields) :=
  [(0x23, wx 0 .s32 0 (.v 5) (.v 0) (.v 1) 3), (0x3D, wx 0 .b32 0 (.v 5) (.v 0) (.v 1) 3),
    (0x53, wx 0 .f32 0 (.v 5) (.v 0) (.v 1) 3)]

theorem wit_values_strand : ∀ p ∈ valWords (.v 5) (.v 0) (.v 1) (.v 6) (.v 0) (.v 2) ++ itemWords,
    issues p.1 p.2 strand (fun i => destScal p.2.d == none && i.c.kind == .strand) = true := by decide

theorem wit_values_span : ∀ p ∈ valWords (.v 5) (.v 0) (.v 1) (.v 6) (.v 0) (.v 2) ++ itemWords,
    issues p.1 p.2 span (fun i => destScal p.2.d == none && isSpan i.c && isU (i.form 0 p.2.ty.is64 p.2.a) &&
      isU (i.form 1 false p.2.b) && isU (i.form 2 false (.v p.2.x)) && isU (i.form 3 false p.2.d) &&
      !i.c.splitsPair (destReg p.2.d) p.2.ty.is64) = true := by decide

theorem wit_values_scalar : ∀ p ∈ valWords (.s 5) (.s 0) (.s 1) (.s 6) (.s 0) (.s 2),
    issues p.1 p.2 span (fun _ => (destScal p.2.d).isSome) = true ∧
      issues p.1 p.2 control (fun _ => (destScal p.2.d).isSome) = true := by decide

/-! ## Results of the value instructions, by hand from their rules -/

/-- Scalar 5 of a control program after an instruction on scalars 0 and 1. -/
def scal5 (i : Fields → Instr) (f : Fields) (a b : W64) : Option W64 := scalAfter (i f) (withScal (withScal control 0 a) 1 b) 5
def w3 (ty : Ty) : Fields := w ty (.s 5) (.s 0) (.s 1)
def w2 (ty : Ty) : Fields := w ty (.s 5) (.s 0) unused
/-- Scalar 6 after a 64-bit instruction on scalars 0 and 2. -/
def scal6 (i : Fields → Instr) (f : Fields) (a b : W64) : Option W64 := scalAfter (i f) (withScal (withScal control 0 a) 2 b) 6
def w6 (ty : Ty) : Fields := w ty (.s 6) (.s 0) (.s 2)

theorem test_iadd_wraps : scal5 .iadd (w3 .s32) 0x7FFFFFFF 1 = some (-0x80000000) := by decide
theorem test_isub_wraps : scal5 .isub (w3 .n32) 0 1 = some 0xFFFFFFFF := by decide
theorem test_imul_high : scal6 .imul { w6 .s64 with mod := 1 } (-1) 5 = some (-1) := by decide
theorem test_imul_low : scal5 .imul (w3 .n32) 0x10001 0x10001 = some 0x20001 := by decide
theorem test_idiv_truncates : scal5 .idiv (w3 .s32) (-7) 2 = some (-3) := by decide
theorem test_idiv_zero : scal5 .idiv (w3 .s32) 5 0 = some (-1) := by decide
theorem test_irem_sign : scal5 .irem (w3 .s32) (-7) 2 = some (-1) := by decide
theorem test_irem_least : scal5 .irem (w3 .s32) 0x80000000 (-1) = some 0 := by decide
theorem test_imin_signed : scal5 .imin (w3 .s32) (-1) 1 = some (-1) := by decide
theorem test_imax_unsigned : scal5 .imax (w3 .n32) 0xFFFFFFFF 1 = some 0xFFFFFFFF := by decide
theorem test_iabs_least : scal5 .iabs (w2 .s32) 0x80000000 0 = some (-0x80000000) := by decide
theorem test_ineg_narrow : scal5 .ineg (w2 .s16) 1 0 = some (-1) := by decide
theorem test_and : scal5 .and (w3 .b32) 0xF0F0 0xFF00 = some 0xF000 := by decide
theorem test_or : scal5 .or (w3 .b32) 0xF0F0 0xFF00 = some 0xFFF0 := by decide
theorem test_xor : scal5 .xor (w3 .b32) 0xF0F0 0xFF00 = some 0x0FF0 := by decide
theorem test_andn : scal5 .andn (w3 .b32) 0xF0F0 0xFF00 = some 0x00F0 := by decide
theorem test_not : scal5 .not (w2 .b32) 0xF0F0 0 = some 0xFFFF0F0F := by decide
theorem test_shl_count : scal5 .shl (w3 .b32) 1 33 = some 2 := by decide
theorem test_shr_signed : scal5 .shr (w3 .s32) (-8) 1 = some (-4) := by decide
theorem test_rot_left : scal5 .rot (w3 .b32) 1 31 = some 0x80000000 := by decide
theorem test_bfx_signed : scal5 .bfx { w3 .s32 with x := 4 } 0xF0 4 = some (-1) := by decide
theorem test_bfi : scal5 .bfi { w3 .b32 with x := 4 } 0xA 8 = some 0xA40 := by decide
theorem test_popc : scal5 .popc (w2 .b32) 0xF0F0 0 = some 8 := by decide
theorem test_clz : scal5 .clz (w2 .b32) 1 0 = some 31 := by decide
theorem test_brev : scal5 .brev (w2 .b32) 1 0 = some 0x80000000 := by decide
theorem test_fadd : scal5 .fadd (w3 .f32) 0x3F800000 0x40000000 = some 0x40400000 := by decide
theorem test_fsub : scal5 .fsub (w3 .f32) 0x3F800000 0x40000000 = some 0xBF800000 := by decide
theorem test_fmul : scal5 .fmul (w3 .f32) 0x40400000 0x40000000 = some 0x40C00000 := by decide
theorem test_fmin_nan : scal5 .fmin (w3 .f32) 0x40400000 0x7FC00000 = some 0x40400000 := by decide
theorem test_fmax : scal5 .fmax (w3 .f32) 0x40400000 0x40000000 = some 0x40400000 := by decide
theorem test_fsgn : scal5 .fsgn (w3 .f32) 0x40400000 0x80000000 = some 0xC0400000 := by decide
theorem test_fclass_quiet : scal5 .fclass (w2 .f32) 0x7FC00000 0 = some 0x200 := by decide
/-- R105: `FRND.rne` of 2.5 gives 2.0, and `FRND.ru` of −0.3 gives −0. -/
theorem test_frnd_even : scal5 .frnd (w2 .f32) 0x40200000 0 = some 0x40000000 := by decide
theorem test_frnd_up : scal5 .frnd { w2 .f32 with mod := 3 } 0xBE99999A 0 = some 0x80000000 := by decide
theorem test_frcp : scal5 .frcp (w2 .f32) 0x40000000 0 = some 0x3F000000 := by decide
theorem test_frsq : scal5 .frsq (w2 .f32) 0x40800000 0 = some 0x3F000000 := by decide
theorem test_fsqrt : scal5 .fsqrt (w2 .f32) 0x40800000 0 = some 0x40000000 := by decide
theorem test_fdiv : scal5 .fdiv (w3 .f32) 0x40800000 0x40000000 = some 0x40000000 := by decide
theorem test_fexp2 : scal5 .fexp2 (w2 .f32) 0x40400000 0 = some 0x41000000 := by decide
theorem test_flog2 : scal5 .flog2 (w2 .f32) 0x41000000 0 = some 0x40400000 := by decide
theorem test_fsin_zero : scal5 .fsin (w2 .f32) 0x80000000 0 = some 0x80000000 := by decide
theorem test_fcos_zero : scal5 .fcos (w2 .f32) 0x80000000 0 = some 0x3F800000 := by decide
/-- R51: 470.0 becomes 448 in e4m3; 1.00390625 is a tie and becomes 0x3F80 in bf16. -/
theorem test_cvt_saturates : scal5 .cvt { w2 .e4m3 with x := 3 } 0x43EB0000 0 = some 126 := by decide
theorem test_cvt_tie : scal5 .cvt { w2 .bf16 with x := 3 } 0x3F808000 0 = some 0x3F80 := by decide
theorem test_unpk_half : scal5 .unpk { w2 .f16 with x := 1 } 0x3C000000 0 = some 0x3F800000 := by decide
theorem test_sclb : scal5 .sclb (w3 .f32) 0x3F800000 3 = some 0x41000000 := by decide

/-- The strand with the first registers of every lane set. -/
def withRegs (rs : List W32) : State :=
  strand.modCtx 1 fun c => { c with lanes := c.lanes.map fun x => { x with regs := rs ++ x.regs.drop rs.length } }

/-- R92: selector 0x4567 with a = 0x44332211 and b = 0x88776655 gives 0x55667788. -/
theorem test_prm : (lanesAfter (.prm (wx 0 .b32 0 (.v 5) (.v 0) (.v 1) 3))
    (withRegs [0x44332211, 0x88776655, 0, 0x4567]) 5).map (·[0]?) = some (some 0x55667788) := by decide

/-- 8l × (1024 + 8l) + (3072 + 8l) for l = 1: 8256 + 3080. -/
theorem test_imad : (lanesAfter (.imad (wx 0 .s32 0 (.v 5) (.v 0) (.v 1) 3)) strand 5).map (·[1]?) = some (some 11336) := by
  decide

/-- 2 × 3 + 1 in f32, once rounded. -/
theorem test_ffma : (lanesAfter (.ffma (wx 0 .f32 0 (.v 5) (.v 0) (.v 1) 3)) (withRegs [0x40000000, 0x40400000, 0, 0x3F800000])
    5).map (·[7]?) = some (some 0x40E00000) := by decide

/-- R79: an affine sum and product stay affine. -/
theorem test_affine_sum : (ctxAfter (.iadd (w .s32 (.v 5) (.v 4) (.v 1))) span).map (·.regs[5]?) = some (some (.a 103 4)) := by
  decide
theorem test_affine_product : (ctxAfter (.imul (w .s32 (.v 5) (.v 4) (.v 1))) span).map (·.regs[5]?) = some (some (.a 300 12)) :=
  by decide

/-- R79: the hypothesis of AffineResults is met for every operation that keeps an affine form. -/
theorem wit_affine : affInt .add 32 (.a 100 4) (.u 3) (.u 0) ≠ .m ∧ affInt .mul 32 (.a 100 4) (.u 3) (.u 0) ≠ .m ∧
    affShl 32 (.a 100 4) (.u 2) ≠ .m := by decide

/-- IADDX: 2^32 − 1 plus 1 carries out into p1. -/
theorem test_iaddx_carry : (ctxAfter (.iaddx (wx 0 .n32 0 (.s 5) (.s 0) (.s 1) 0x11))
    (withScal (withScal control 0 0xFFFFFFFF) 1 1)).map (fun c => (c.scal[5]?, c.preds[1]?)) =
      some (some 0, some (.u true)) := by decide

theorem wit_iaddx : issues 0x2A (wx 0 .n32 0 (.v 5) (.v 0) (.v 1) 0x18) strand (fun i => i.c.kind == .strand) = true ∧
    issues 0x2A (wx 0 .n32 0 (.v 5) (.v 0) (.v 1) 0x18) span (fun i => isU (i.form 0 false (.v 0)) &&
      isU (i.form 1 false (.v 1)) && ((i.c.spanPred 0).within 0 64 == .u true) && !i.c.splitsPair 5 false) = true ∧
    issues 0x2A (wx 0 .n32 0 (.s 5) (.s 0) (.s 1) 0x18) control (fun i => i.c.kind == .control) = true := by decide

/-! ## Comparisons, selection, moves and predicates -/

/-- R95: 100 + 4i < 140 for the items below 10. -/
theorem test_icmp_interval : (ctxAfter (.icmp (wx 2 .s32 0 (.p 3) (.v 4) (.imm 140) 0)) span).map (·.preds[3]?) =
    some (some (.i 0 10)) := by decide
theorem test_icmp_lanes : predsAfter (.icmp (wx 2 .s32 0 (.p 3) (.v 0) (.imm 16) 0)) strand 3 =
    some [true, true, false, false, false, false, false, false] := by decide
/-- A NaN is unordered (R94). -/
theorem test_fcmp_nan : predsAfter (.fcmp (wx 6 .f32 0 (.p 3) (.v 0) (.v 1) 0)) (withRegs [0x7FC00000, 0x3F800000]) 3 =
    some (List.replicate 8 true) := by decide

theorem wit_compares : ∀ p ∈ [((0x40 : Nat), wx 2 .s32 0 (.p 3) (.v 0) (.v 1) 0), (0x41, wx 6 .f32 0 (.p 3) (.v 0) (.v 1) 0)],
    issues p.1 p.2 strand (fun i => i.c.kind == .strand) = true ∧
    issues p.1 p.2 span (fun i => isSpan i.c && isU (i.form 0 false p.2.a) && isU (i.form 1 false p.2.b)) = true ∧
    issues p.1 { p.2 with a := .s 0, b := .s 1 } control (fun i => i.c.kind == .control) = true := by decide

/-- The bounds of R95: operand 100 + 4k against 140, over 64 items. -/
theorem wit_compare_interval : cmpRun .lt (100, 4) (140, 0) 64 = some (0, 10) ∧ cmpRun .eq (100, 4) (140, 0) 64 = some (10, 11) ∧
    cmpRun .ge (100, 4) (100, 0) 64 = some (0, 64) := by decide

theorem test_sel_lanes : lanesAfter (.sel (wx 0 .s32 0 (.v 5) (.v 0) (.v 1) 1)) strand 5 =
    some [0, 8, 16, 24, 1056, 1064, 1072, 1080] := by decide
/-- R96: an I predicate cuts the span at 8 and 24. -/
theorem test_sel_cuts : (after (.sel (wx 0 .s32 0 (.v 5) (.v 0) (.v 1) 1)) span).map (fun t => t.ctxs.map (·.kind)) =
    some [.span 0 8, .span 8 24, .span 24 64] := by decide

theorem wit_sel : issues 0x42 (wx 0 .s32 0 (.v 5) (.v 0) (.v 1) 1) span (fun i =>
      ((i.c.spanPred 1).within 0 64 == .i 8 24) && i.c.trap != .slot && i.s.roomToCut i.c i.l (inside 0 64 [8, 24])) = true ∧
    issues 0x42 (wx 0 .s32 0 (.v 5) (.v 0) (.v 1) 8) span (fun i => ((i.c.spanPred 0).within 0 64 == .u true) &&
      isU (i.form 1 false (.v 1)) && destScal (.v 5) == none && !i.c.splitsPair 5 false) = true ∧
    issues 0x42 (wx 0 .s32 0 (.s 5) (.s 0) (.s 1) 0) control (fun i => i.c.kind == .control) = true := by decide

theorem test_mov_affine : (ctxAfter (.mov (w .s32 (.v 5) unused (.v 4))) span).map (·.regs[5]?) = some (some (.a 100 4)) := by decide
theorem test_mov_sign : scal5 .mov (w .s32 (.s 5) unused (.s 0)) 0x80000000 0 = some (-0x80000000) := by decide

theorem wit_mov : issues 0x43 (w .s32 (.v 5) unused (.v 4)) span (fun i => (queueOf (.v 4)).isNone && isSpan i.c &&
      i.form 1 false (.v 4) == .a 100 4 && mkA 32 100 4 == .a 100 4 && !i.c.splitsPair 5 false) = true ∧
    issues 0x43 (w .s32 (.v 5) unused (.v 1)) span (fun i => isU (i.form 1 false (.v 1))) = true ∧
    issues 0x43 (w .s32 (.v 5) unused (.v 1)) strand (fun i => i.c.kind == .strand) = true ∧
    issues 0x43 (w .s32 (.s 5) unused (.s 1)) control (fun _ => (destScal (.s 5)).isSome) = true := by decide

/-- A context with a channel set. -/
def withChan (s : State) (n : Nat) (h : Chan) : State := s.modCtx 1 fun c => c.putChan n h
/-- A record of 16 bytes on channel 0, and 3 offers left for group 1. -/
def fullChan : Chan := ⟨3, 1, 16, [⟨0, [11, 12, 13, 14], 0, false, 0, 3⟩], 16, 48⟩

/-- R97: a pop delivers the next word to every lane, and with nothing to pop or offered it is SEND. -/
theorem test_mov_pops : lanesAfter (.mov (w .n32 (.v 5) unused (.q 0))) (withChan strand 0 fullChan) 5 =
    some (List.replicate 8 11) := by decide
theorem test_mov_nothing : (ctxAfter (.mov (w .n32 (.v 5) unused (.q 0))) strand).map
    (fun c => (c.trap, Memory.readN c.priv 0 2)) = some (.slot, [4, 2]) := by decide

theorem wit_mov_queue : queueOf (.q 0) = some 0 ∧
    issues 0x43 (w .n32 (.v 5) unused (.q 0)) strand (fun i => (i.chan 0).waiting == 0 && (i.chan 0).offered == 0) = true ∧
    issues 0x43 (w .n32 (.v 5) unused (.q 0)) (withChan strand 0 { Chan.reset with offered := 1 })
      (fun i => (i.chan 0).waiting == 0 && (i.chan 0).offered == 1) = true ∧
    issues 0x43 (w .n64 (.v 6) unused (.q 0)) (withChan strand 0 fullChan)
      (fun i => (i.chan 0).waiting == 4 && !i.splits (.v 6) true) = true := by decide

theorem test_plog_andn : (ctxAfter (.plog (wx 3 .b32 0 (.p 3) (.p 0) (.p 1) 0)) (span.modCtx 1 fun c =>
    { c with preds := [.i 0 24, .i 8 24] ++ c.preds.drop 2 })).map (·.preds[3]?) = some (some (.i 0 8)) := by decide
theorem test_pmov : lanesAfter (.pmov (w .b32 (.v 5) (.p 1) unused)) strand 5 = some [1, 1, 1, 1, 0, 0, 0, 0] := by decide

theorem wit_predicates : issues 0x44 (wx 1 .b32 0 (.p 3) (.p 0) (.p 1) 0) strand (fun i => i.c.kind == .strand) = true ∧
    issues 0x44 (wx 1 .b32 0 (.p 3) (.p 0) (.p 1) 0) control (fun i => i.c.kind == .control) = true ∧
    issues 0x44 (wx 1 .b32 0 (.p 3) (.p 0) (.p 1) 0) span (fun i =>
      (plogRun 1 0 64 (i.c.spanPred 0) (i.c.spanPred 1)).isSome) = true ∧
    issues 0x45 (w .b32 (.p 3) (.p 1) unused) strand (fun i => i.c.kind == .strand) = true ∧
    issues 0x45 (w .b32 (.p 3) (.p 1) unused) span (fun i => i.c.kind != .strand) = true ∧
    issues 0x45 (w .b32 (.p 3) (.v 1) unused) strand (fun i => i.c.kind == .strand) = true ∧
    issues 0x45 (w .b32 (.v 5) (.p 1) unused) strand (fun i => i.c.kind == .strand) = true := by decide

/-- R98: an interval result, and two intervals whose union is none. -/
theorem wit_plog_run : plogRun 1 0 64 (.i 0 8) (.i 8 24) = some (.i 0 24) ∧ plogRun 1 0 64 (.i 0 8) (.i 9 24) = none := by decide

/-! ## Numbers -/

theorem wit_special_values : (0 : Nat) < 1 := by decide
/-- Every pattern of e4m3 is below 2^8; 0x7F is its NaN. -/
theorem wit_rounding_exact : (0x7F : Nat) < 2 ^ Ty.e4m3.width ∧ Ty.e4m3.fmt.dec 0x7F = .nan ∧ Ty.f32.fmt.dec 0x3F800000 ≠ .nan := by
  decide
theorem wit_sqrt_negative : (Exact.fin true 4 0).sqrt = .nan := by decide
/-- 5/4 at q = 0 in the five modes' order rne, rz, rd, ru; 3/2 is a tie and goes to the even 2. -/
theorem test_rounding : toGrid false 5 (-2) 0 .rne = 1 ∧ toGrid false 5 (-2) 0 .ru = 2 ∧ toGrid true 5 (-2) 0 .rd = 2 ∧
    toGrid false 6 (-2) 0 .rne = 2 := by decide

/-- PACK.e5m2 with X = 1 writes the upper half of D (R110): 1.0 is 0x3C in e5m2. -/
theorem test_pack_half : (lanesAfter (.pack (wx 0 .e5m2 0 (.v 5) (.v 0) (.v 1) 1))
    (withRegs [0x3F800000, 0x3F800000, 0, 0, 0, 0x1234]) 5).map (·[0]?) = some (some 0x3C3C1234) := by decide

theorem wit_pack : issues 0x69 (w .f16 (.v 5) (.v 0) (.v 1)) strand (fun i => i.c.kind == .strand && Ty.f16.width == 16) = true ∧
    issues 0x69 (wx 0 .e5m2 0 (.v 5) (.v 0) (.v 1) 1) strand (fun i => i.c.kind == .strand) = true ∧
    issues 0x69 (w .nx4 (.v 5) (.v 0) (.v 1)) strand (fun i => i.c.kind == .strand) = true := by decide

/-! ## Control transfers, traps and context registers -/

theorem test_bra_back : pcAfter (.bra (wo unused 0xFFFFFF)) (span.modCtx 1 fun c => { c with pc := 36 }) = some 24 := by decide
theorem test_brx_item : pcAfter (.brx (w .b32 unused (.v 0) unused)) (span.modCtx 1 fun c =>
    { c with regs := [.u 10, .u 0] ++ c.regs.drop 2 }) = some 120 := by decide
theorem test_call_ret : (ctxAfter (.call (wo unused 5)) span).map (fun c => (c.pc, c.rets)) = some (60, [⟨12, 2 ^ 64 - 1⟩]) ∧
    pcAfter (.ret (w .b32 unused unused unused)) (span.modCtx 1 fun c => { c with rets := [⟨12, 2 ^ 64 - 1⟩] }) = some 12 := by
  decide

/-- The context with n return entries for every lane. -/
def withRets (s : State) (n : Nat) : State := s.modCtx 1 fun c => { c with rets := List.replicate n ⟨24, 255⟩ }

theorem wit_control : issuesOff 0x01 (wo unused 3) strand (fun _ => true) = true ∧
    issues 0x02 (w .b32 unused (.v 0) unused) span (fun i => isSpan i.c && isU (i.form 0 true (.v 2))) = true ∧
    issues 0x02 (w .b32 unused (.v 0) unused) strand (fun i => i.c.kind == .strand) = true ∧
    issues 0x02 (w .b32 unused (.s 0) unused) control (fun i => i.c.kind == .control) = true ∧
    issuesOff 0x03 (wo unused 3) (withRets strand 7) (fun i => i.c.rets.length == 7) = true ∧
    issuesOff 0x03 (wo unused 3) (withRets strand 8) (fun i => i.c.rets.length == 8) = true ∧
    issues 0x04 (w .b32 unused unused unused) (withRets span 1) (fun i => isSpan i.c && i.c.rets.length == 1) = true ∧
    issues 0x04 (w .b32 unused unused unused) span (fun i => i.c.rets.isEmpty) = true ∧
    issues 0x04 (w .b32 unused unused unused) strand (fun i => i.c.rets.isEmpty && !i.lanes.isEmpty) = true ∧
    issues 0x04 (w .b32 unused unused unused) (withRets strand 1)
      (fun i => i.lanes.all fun l => i.c.rets.any fun r => bitOf r.mask l) = true := by decide

theorem test_rep_counts : (ctxAfter (.rep (wx 0 .b32 0 unused unused (.imm 3) 0x01)) span).map
    (fun c => (c.pc, c.rep.map fun r => (r.len, r.total, r.pass))) = some (12, some (2, 3, 0)) := by decide
theorem wit_rep : issues 0x07 (wx 0 .b32 0 unused unused (.imm 0) 0x01) span (fun i => (i.uni 1 (.imm 0)).toNat == 0) = true ∧
    issues 0x07 (wx 0 .b32 0 unused unused (.imm 3) 0x01) strand (fun i => (i.uni 1 (.imm 3)).toNat == 3) = true := by decide

theorem test_exit_ends : (after (.exit (w .b32 unused unused unused)) span).map (·.ctxs) = some [] := by decide
theorem wit_exit : issues 0x05 (w .b32 unused unused unused) span (fun i => isSpan i.c) = true ∧
    issues 0x05 (w .b32 unused unused unused) control (fun i => i.c.kind == .control) = true ∧
    issues 0x05 (w .b32 unused unused unused) strand (fun i => i.c.kind == .strand) = true := by decide

/-- R155, R138: class 7 and the code in CAUSE, the lanes in LANEMASK, the next word in NEXTPC; the handler at word 64. -/
theorem test_trap_frame : (ctxAfter (.trap (wx 0 .b32 0 unused unused unused 0x21)) strand).map (fun c =>
    (c.trap, leVal (Memory.readN c.priv 0 2), leVal (Memory.readN c.priv 0x10 8), leVal (Memory.readN c.priv 0x18 8),
      (c.lanes[0]?).map (·.pc))) = some (.slot, 0x2107, 12, 255, some 768) := by decide
theorem test_brk_class : (ctxAfter (.brk (w .b32 unused unused unused)) span).map (fun c =>
    (c.trap, c.pc, leVal (Memory.readN c.priv 0 8))) = some (.slot, 768, 0x20007) := by decide
theorem test_trap_zero : (ctxAfter (.trap (w .b32 unused unused unused)) span).map (fun c =>
    leVal (Memory.readN c.priv 0 2)) = some 1 := by decide

theorem wit_trap_break : issues 0x08 (wx 0 .b32 0 unused unused unused 0x21) strand (fun i =>
      i.c.kind != .control && i.c.trap != .slot && i.c.bars.length == 4 && i.l.trapEntry.isSome &&
      i.s.slotOpen i.c.range i.c.core) = true ∧
    issues 0x09 (w .b32 unused unused unused) { span with ctxs := [spanCtx, { strandCtx with id := 2, trap := .slot }] } (fun i =>
      i.c.trap != .slot && i.l.trapEntry.isSome && !i.s.slotOpen i.c.range i.c.core) = true ∧
    span.canIssue spanCtx = true ∧ spanCtx.nextIssue = some (0, []) ∧ span.launchOf spanCtx = some launch := by decide

theorem test_rte_skips : pcAfter (.rte (w .b32 unused (.imm 0) (.imm 0))) (handler span) = some 48 := by decide
theorem test_rte_replays : pcAfter (.rte (w .b32 unused (.imm 1) (.imm 0))) (handler span) = some 36 := by decide
theorem wit_rte : issues 0x0A (w .b32 unused (.imm 0) (.imm 0)) span (fun i => i.c.trap != .slot) = true ∧
    issues 0x0A (w .b32 unused (.imm 0) (.imm 0)) (handler span) (fun i => i.c.trap == .slot && i.c.save.isSome && isSpan i.c) =
      true ∧
    issues 0x0A (w .b32 unused (.imm 1) (.imm 2)) (handler strand) (fun i => i.c.save.isSome && i.c.kind == .strand) = true := by
  decide

theorem test_mfsr_ctxinfo : scalAfter (.mfsr (wx 0 .b64 0 (.s 5) unused unused 1)) span 5 = some 0x4000000000 := by decide
theorem test_mtsr_tag : (ctxAfter (.mtsr (wx 0 .b64 0 unused unused (.s 2) 16)) span).map (·.tag) = some 128 := by decide

theorem wit_registers : issues 0x0B (wx 0 .b64 0 (.s 5) unused unused 1) span (fun _ => true) = true ∧
    issues 0x0C (wx 0 .b64 0 unused unused (.s 2) 16) span (fun _ => true) = true ∧
    issues 0x0D (wx 0 .b32 0 unused unused unused 2) span (fun i => !i.s.tokBusy i.c.id 1) = true ∧
    issues 0x0D (wx 0 .b32 1 unused unused unused 3) (withOp span readyOp)
      (fun i => i.s.tokBusy i.c.id 1 && !i.s.tokBusy i.c.id 0) = true ∧
    issues 0x0D (wx 0 .b32 0 unused unused unused 2) (withOp span readyOp) (fun i => i.s.tokBusy i.c.id 1) = true := by decide
theorem test_waitk_waits : (ctxAfter (.waitk (wx 0 .b32 0 unused unused unused 2)) (withOp span readyOp)).map (·.wait) =
    some (.tokens 2 false) := by decide

theorem test_nop : pcAfter (.nop (w .b32 unused unused unused)) span = some 12 := by decide
theorem test_yield : (ctxAfter (.yield (w .b32 unused unused unused)) span).map (fun c => (c.active, c.wait)) =
    some (false, .none) := by decide

/-- A guard that is false for the whole context. -/
def never : Guard := ⟨false, 2⟩

theorem wit_yield : issues 0x00 (w .b32 unused unused unused) span (fun _ => true) = true ∧
    issues 0x06 (w .b32 unused unused unused) span (fun i => i.c.trap != .slot) = true ∧
    ((sig 0x06 (w .b32 unused unused unused)).ok && legalF 0x06 (w .b32 unused unused unused) spanCtx launch) = true ∧
    (issOf span spanCtx launch (placeRange 1) 1 0 [] [] noHints).c.guard never [] = .off := by decide

/-- The checks of an issue: a word that needs register 20 of 16, a strand's BMARK in a control program, a busy token, a guard
that is false. -/
theorem wit_issue_checks : (span.ctx span.cur).isSome = true ∧ span.range 1 = some (placeRange 1) ∧
    span.launchOf spanCtx = some launch ∧ spanCtx.nextIssue = some (0, []) ∧ span.canIssue spanCtx = true ∧
    ((sig 0x20 (w .s32 (.v 20) (.v 0) (.v 0))).ok && legalF 0x20 (w .s32 (.v 20) (.v 0) (.v 0)) spanCtx launch) = false ∧
    availability 0x13 0 controlCtx = some 6 ∧ availability 0xB0 0 spanCtx = some 7 ∧
    (withOp span readyOp).tokBusy 1 1 = true := by decide
theorem test_illegal_register : (ctxAfter (.iadd (w .s32 (.v 20) (.v 0) (.v 0))) span).map (fun c =>
    (c.trap, leVal (Memory.readN c.priv 0 2))) = some (.slot, 1) := by decide
theorem test_illegal_word : (ctxAfter .illegalWord span).map (fun c => (c.trap, leVal (Memory.readN c.priv 0 2))) =
    some (.slot, 1) := by decide

/-- The five ways a trap can go: into the slot, queued, DOUBLE, UNHANDLED without an entry, UNHANDLED in a control program. -/
theorem wit_takes_trap : span.ctx spanCtx.id = some spanCtx ∧ span.launchOf spanCtx = some launch ∧ spanCtx.bars.length = 4 ∧
    launch.trapEntry = some 768 ∧ span.slotOpen 1 0 = true ∧
    ({ span with ctxs := [spanCtx, { strandCtx with id := 2, trap := .slot }] } : State).slotOpen 1 0 = false ∧
    (placeLaunch 1 false).trapEntry = none := by decide
theorem test_double : ((handler span).takeTrap 1 7 0 0 0 12).launches.map (·.status) = [some 3] := by decide
theorem test_unhandled : (control.takeTrap 1 7 0 0 0 12).launches.map (·.status) = [some 4] := by decide

/-- The end of an issue has no hypotheses but the context it changes. -/
theorem wit_issue_ends : issues 0x00 (w .b32 unused unused unused) strand (fun i => (i.s.ctx i.c.id).isSome) = true := by decide

/-! ## Spans, strands and barriers -/

theorem test_split : (after (.split (w .b32 unused (.p 1) unused)) span).map (fun t => t.ctxs.map (·.kind)) =
    some [.span 0 8, .span 8 24, .span 24 64] := by decide
/-- R125: a span of 64 items becomes 8 strands of 8 lanes. -/
theorem test_form_strands : (after (.form (w .b32 (.v 5) unused unused)) span).map (fun t => t.ctxs.map (·.items.length)) =
    some (List.replicate 8 8) := by decide
theorem wit_split_form : issues 0x10 (w .b32 unused (.p 1) unused) span (fun i => ((i.c.spanPred 1).within 0 64 == .i 8 24) &&
      i.c.trap != .slot && i.s.roomToCut i.c i.l (inside 0 64 [8, 24])) = true ∧
    issues 0x10 (w .b32 unused (.p 0) unused) span (fun i => (i.c.spanPred 0).within 0 64 == .u true) = true ∧
    issues 0x10 (w .b32 unused (.p 0) unused) strand (fun i => !isSpan i.c) = true ∧
    issues 0x17 (wx 0 .b32 1 (.v 5) unused unused 0) span (fun _ => true) = true ∧
    issues 0x17 (w .b32 (.v 5) unused unused) span (fun i => isSpan i.c && i.c.trap != .slot) = true := by decide

theorem wit_cut : spanCtx.kind = .span 0 64 ∧ span.ctx spanCtx.id = some spanCtx ∧ span.nextId ∉ span.ctxs.map (·.id) := by decide

theorem test_spanq : (after (.spanq (wo (.s 5) 2)) { strand with ctxs := strand.ctxs ++
    [{ spanCtx with id := 2, pc := 24, active := false }] }).map (fun t => ((t.ctx 1).bind fun c => c.scal[5]?)) =
      some (some 64) := by decide
theorem test_join_strand : pcAfter (.join (w .b32 unused unused unused)) span ≠ none := by decide
theorem test_rgrow : (ctxAfter (.rgrow (w .b32 (.s 5) unused (.imm 2))) span).map (fun c => (c.reserve, c.scal[5]?)) =
    some (2, some 0) := by decide
theorem wit_join_rgrow : issues 0x11 (w .b32 unused unused unused) strand (fun i => !isSpan i.c) = true ∧
    issuesOff 0x15 (wo (.s 5) 2) strand (fun _ => true) = true ∧
    issues 0x16 (w .b32 (.s 5) unused (.imm 2)) strand (fun i => !isSpan i.c) = true ∧
    issues 0x16 (w .b32 (.s 5) unused (.s 20)) span (fun i =>
      917504 < (i.uni 1 (.s 20)).toNat * i.l.window true + i.l.window false + round256 i.l.s) = true ∧
    issues 0x16 (w .b32 (.s 5) unused (.imm 2)) span (fun i =>
      2 * (i.l.window true / 256) ≤ i.s.freeBlocks i.l i.c.range i.c.core) = true ∧
    issues 0x16 (w .b32 (.s 5) unused (.imm 154)) { span with ctxs := [spanCtx, { strandCtx with id := 2 }] } (fun i =>
      !decide (917504 < 154 * i.l.window true + i.l.window false + round256 i.l.s) &&
      decide (i.s.freeBlocks i.l i.c.range i.c.core < 154 * (i.l.window true / 256))) = true := by decide

/-- A span linked to join counter 9 of its range by b1. -/
def linked : State :=
  { span with
    ctxs := [{ spanCtx with bars := [.clear, .linked 9 0, .clear, .clear] }]
    ranges := [{ placeRange 1 with joins := [⟨9, 0, 64, 0, 64, 0⟩] }] }

theorem test_bmark_mask : (ctxAfter (.bmark (w .b32 (.b 2) unused unused)) strand).map (·.bars[2]?) =
    some (some (.mask 255)) := by decide
theorem test_rjoin_waits : (ctxAfter (.rjoin (w .b32 (.b 1) unused unused)) { linked with ranges :=
    [{ placeRange 1 with joins := [⟨9, 0, 80, 0, 80, 0⟩] }] }).map (·.wait) = some (.rjoin 1) := by decide
theorem wit_barriers : issues 0x13 (w .b32 (.b 1) unused unused) linked (fun i => i.linkedLive 1) = true ∧
    issues 0x13 (w .b32 (.b 2) unused unused) strand (fun i => !i.linkedLive 2) = true ∧
    issues 0x13 (w .b32 (.b 2) unused unused) span (fun i => !i.linkedLive 2 && isSpan i.c) = true ∧
    issues 0x14 (w .b32 (.b 2) unused unused) span (fun i => i.c.bars[2]? == some .clear) = true ∧
    issues 0x14 (w .b32 (.b 1) unused unused) linked (fun i => i.c.bars[1]? == some (.linked 9 0)) = true := by decide

/-- R133: a strand without items but two takes the lowest items of a span that waits at the same word. -/
theorem test_refill : (after (.refill (wo unused 2)) { strand with ctxs :=
    [{ strandCtx with lanes := strandCtx.lanes.map fun x => if x.item.any (2 ≤ ·) then { x with item := none } else x },
      { spanCtx with id := 2, pc := 24, kind := .span 16 64, active := false }] }).map (fun t => t.ctxs.map (·.items.length)) =
        some [8, 42] := by decide
theorem wit_refill : issuesOff 0x12 (wo unused 2) strand (fun i => (i.s.ctxs.filter (eligible i.c (i.target 2))).isEmpty) = true ∧
    issuesOff 0x12 (wo unused 2) span (fun i => i.c.kind != .strand) = true := by decide

/-! ## Across lanes -/

theorem test_shfl_up : lanesAfter (.shfl (wx 1 .b32 0 (.v 5) (.v 0) (.imm 1) 0)) strand 5 =
    some [0, 0, 8, 16, 24, 32, 40, 48] := by decide
theorem test_vote_ballot : scalAfter (.vote (wx 2 .b64 0 (.s 6) (.p 1) unused 0)) strand 6 = some 0x0F := by decide
theorem test_rdx_sum : lanesAfter (.rdx (wx 0 .s32 0 (.v 5) (.v 0) unused 0)) strand 5 = some (List.replicate 8 224) := by decide
theorem test_scan_inclusive : lanesAfter (.scan (wx 0 .s32 0 (.v 5) (.v 0) unused 0)) strand 5 =
    some [0, 8, 24, 48, 80, 120, 168, 224] := by decide
theorem test_elect : predsAfter (.elect (w .b32 (.p 3) unused unused)) strand 3 =
    some [true, false, false, false, false, false, false, false] := by decide

theorem wit_cross : issues 0x70 (wx 1 .b32 0 (.v 5) (.v 0) (.imm 1) 0) strand (fun i => i.c.kind == .strand) = true ∧
    issues 0x70 (wx 1 .b32 0 (.v 5) (.v 0) (.imm 1) 0) span (fun i => isSpan i.c && i.c.trap != .slot) = true ∧
    (∀ v ∈ [(0 : BitVec 4), 1], issues 0x71 (wx v .b32 0 (.p 3) (.p 1) unused 0) strand (fun i => i.c.kind == .strand) = true) ∧
    issues 0x71 (wx 2 .b64 0 (.v 6) (.p 1) unused 0) strand (fun _ => destScal (.v 6) == none) = true ∧
    issues 0x71 (wx 2 .b64 0 (.s 6) (.p 1) unused 0) strand (fun _ => (destScal (.s 6)).isSome) = true ∧
    issues 0x71 (wx 3 .b32 0 (.p 3) (.v 1) unused 0) strand (fun i => i.c.kind == .strand) = true ∧
    issues 0x72 (wx 0 .s32 0 (.v 5) (.v 0) unused 0) strand (fun _ => destScal (.v 5) == none) = true ∧
    issues 0x72 (wx 0 .s32 0 (.s 5) (.v 0) unused 0) strand (fun _ => (destScal (.s 5)).isSome) = true ∧
    issues 0x73 (wx 8 .s32 0 (.v 5) (.v 0) unused 0) strand (fun i => i.c.kind == .strand) = true ∧
    issues 0x74 (w .b32 (.p 3) unused unused) strand (fun i => i.c.kind == .strand && i.r.elects.isEmpty) = true ∧
    issues 0x74 (w .b32 (.p 3) unused unused) span (fun i => isSpan i.c && i.r.elects.isEmpty) = true ∧
    issues 0x74 (w .b32 (.p 3) unused unused) { strand with ranges := [{ placeRange 1 with elects := [(0, 0)] }] }
      (fun i => i.c.kind == .strand && i.r.elects.contains (i.pc.toNat, i.c.core)) = true ∧
    issues 0x74 (w .b32 (.p 3) unused unused) { span with ranges := [{ placeRange 1 with elects := [(0, 0)] }] }
      (fun i => isSpan i.c && i.r.elects.contains (i.pc.toNat, i.c.core)) = true := by decide

theorem wit_reduction_order : Ty.s32.isFloating = false := by decide

/-! ## Memory -/

/-- [v1 + 0] in .g: lane l accesses 0x400 + 8l. -/
def mem (ty : Ty) (d : Opnd) (mod : BitVec 8) : Fields := wx 0 ty mod d (.v 2) (.imm 0) 0
/-- A strand whose v2 pair is the address 0x400 + 8l. -/
def memory : State :=
  strand.modCtx 1 fun c => { c with
    lanes := c.lanes.map fun x => { x with regs := (x.regs.set 2 (BitVec.ofNat 32 (0x400 + 8 * x.item.getD 0))).set 3 0 } }

/-- What `Iss.reaches` asks of a place, as a check. -/
def reachesAt (i : Iss) (n lvl : Nat) (want : Want) (pa : Nat) : Bool :=
  !i.s.lost pa && (List.range n).all fun k => !i.s.underTest (pa + k) &&
    (!want.read || !i.s.poisoned (pa + k) && (i.s.cxlMiss i.clu lvl (pa + k)).isNone &&
      !i.s.openAt i.r.id (.g (pa + k) false) && i.s.answered i.c lvl (pa + k))

/-- What `Iss.ready` asks of every lane, as a check. -/
def readyAt (i : Iss) (f : Fields) (n lvl : Nat) (want : Want) (pa : Nat → Nat) : Bool :=
  i.c.kind == .strand && i.s.mem.deltas.isEmpty && decide (i.s.mem.l2.length + 128 * (i.lanes.length + 1) < 2 ^ 26) &&
  i.lanes.all fun l =>
    (match i.s.locate i.c f.space (i.strandAddr f n l) n true want with
      | .ok (.g p _) => p == pa l
      | _ => false) &&
    (i.l.guardLine (i.strandAddr f n l)).isNone && reachesAt i n lvl want (pa l)

def at8 (l : Nat) : Nat := 0x400 + 8 * l

theorem wit_load : issues 0x80 (mem .n32 (.v 5) 0) memory (fun i => readyAt i (mem .n32 (.v 5) 0) 4 1 wantRead at8 &&
    (mem .n32 (.v 5) 0).ldOrder == 0 && !i.h.se) = true := by decide
/-- R42 little-endian: bytes 1 to 4 at 0x400. -/
theorem test_ld : (lanesAfter (.ld (mem .n32 (.v 5) 0)) memory 5).map (·.take 2) = some [0x04030201, 0] := by decide
theorem wit_store : issues 0x81 (mem .n32 (.v 0) 0) memory (fun i => readyAt i (mem .n32 (.v 0) 0) 4 1 wantWrite at8 &&
    (mem .n32 (.v 0) 0).order == 0) = true := by decide
theorem test_st : ((after (.st (mem .n32 (.v 1) 0)) memory).map fun t => (List.range 4).map fun k => t.l1Read 0 (0x408 + k)) =
    some [0x08, 0x04, 0, 0] := by decide

/-- A load from a space: its address and offset as a scalar. -/
def toSpace (space : Nat) : BitVec 8 := BitVec.ofNat 8 (64 * space)
theorem test_ld_bounds : (ctxAfter (.ld (wx 0 .n32 (toSpace 1) (.s 5) (.s 63) (.imm 0) 0)) (withScal span 63 4096)).map
    (fun c => (c.trap, Memory.readN c.priv 0 2)) = some (.slot, [2, 7]) := by decide
theorem test_ld_align : (ctxAfter (.ld (wx 0 .n32 (toSpace 1) (.s 5) (.s 62) (.imm 0) 0)) (withScal span 62 2)).map
    (fun c => (c.trap, Memory.readN c.priv 0 2)) = some (.slot, [2, 6]) := by decide

/-- The clauses of SpacesAndAlignment at the ends of their ranges: the private block, the 4,096 bytes of scratch and of
control scratch, 8 areas, a window of 512 bytes. -/
theorem wit_spaces : span.range 1 = some (placeRange 1) ∧ span.launch 1 = some launch ∧ launch.p = 4096 ∧ launch.s = 4096 ∧
    launch.cmd.cscratch = 4096 ∧ 4 * launch.v * launch.w = 512 ∧
    span.locate spanCtx 1 0x100FFC 4 true wantRead = .ok (.priv 0xFFC) ∧
    span.locate spanCtx 1 0xFFC 4 true wantRead = .ok (.scratch 0 0xFFC) ∧
    control.locate controlCtx 1 0xFFC 4 true wantRead = .ok (.control 0xFFC) ∧
    span.locate spanCtx 1 0x1000 4 true wantRead = .error (.kind 7) ∧
    span.locate spanCtx 2 0x700FFC 4 true wantRead = .ok (.scratch 7 0xFFC) ∧
    span.locate spanCtx 2 0x800000 4 true wantRead = .error (.kind 7) ∧
    strand.locate strandCtx 3 508 4 true wantRead = .ok (.window 508) ∧
    strand.locate strandCtx 3 512 4 true wantRead = .error (.kind 7) := by decide
theorem wit_alignment : span.locate spanCtx 0 2 4 true wantRead = .error (.kind 6) ∧
    span.locate spanCtx 0 0x00FF000000000002 4 true wantRead = .error (.kind 1) ∧
    strand.locate strandCtx 3 506 4 true wantRead = .error (.kind 6) ∧
    span.locate spanCtx 1 2 4 true wantRead = .error (.kind 6) := by decide

def crng : Fields := wx 0 .b32 0x08 unused (.s 16) (.s 1) 0
theorem test_crng_drops : ((after (.crng crng) ({ span with mem := { span.mem with
    l1 := [(0x400, ⟨9, true⟩), (0x440, ⟨9, true⟩)] } } : State)).map fun t => (t.l1Read 0 0x400, t.l1Read 0 0x440)) =
      some (1, 9) := by decide
theorem test_fence : scalAfter (.fence (wx 0 .b32 0x1B (.s 5) unused unused 0)) span 5 = some 0 := by decide

theorem wit_cache : issues 0x82 (wx 0 .b32 0 unused (.s 16) (.imm 0) 0) span (fun i => i.s.mem.deltas.isEmpty) = true ∧
    issues 0x83 crng span (fun i => (i.uni 1 crng.b).toNat == 64 && canonical (i.uni 0 crng.a) && crng.scope < 2) = true ∧
    issues 0x83 { crng with b := .imm 0 } span (fun i => (i.uni 1 (.imm 0)).toNat == 0) = true ∧
    issues 0x84 (wx 0 .b32 0x1B (.s 5) unused unused 0) span (fun _ => (wx 0 .b32 0x1B (.s 5) unused unused 0).scope == 3) =
      true ∧
    issues 0x84 (wx 0 .b32 0x24 (.s 5) unused unused 0) (withOp span remoteOp) (fun i =>
      !((i.s.release i.clu i.c.id 4).waitSet i.c.id).1.isEmpty) = true := by decide

/-! ## Atomics and locks -/

theorem wit_rmw : span.mem.deltas = [] ∧ launch.guardLine 0x400 = none ∧ Ty.n32.isFloating = false := by decide
theorem test_rmw_min : rmwVal 1 .s32 0xFFFFFFFF 1 = 0xFFFFFFFF ∧ rmwVal 1 .n32 0xFFFFFFFF 1 = 1 := by decide

theorem wit_atomics : issues 0x90 (mem .n32 (.v 5) 9) memory (fun i => readyAt i (mem .n32 (.v 5) 9) 4 2 wantRmw at8 &&
      i.lanes.length == 8 && !i.h.se && (mem .n32 (.v 5) 9).order == 1 && (mem .n32 (.v 5) 9).scope == 1) = true ∧
    issues 0x91 (mem .n32 (.v 5) 9) memory (fun i => readyAt i (mem .n32 (.v 5) 9) 4 2 wantRmw at8 && !i.h.se) = true ∧
    issues 0x92 (mem .n32 (.v 5) 9) memory (fun i => readyAt i (mem .n32 (.v 5) 9) 4 2 wantRmw at8) = true := by decide
/-- The old value is returned, and 0x04030201 + 1024 × 5 is at the home. -/
theorem test_atom_add : (lanesAfter (.atom (mem .n32 (.v 5) 17)) memory 5).map (·[0]?) = some (some 0x04030201) ∧
    ((after (.atom (mem .n32 (.v 5) 17)) memory).map fun t => t.sliceVal 0x400 4) = some 0x04031601 := by decide
theorem test_cas_fails : ((after (.cas (mem .n32 (.v 5) 17)) memory).map fun t => t.sliceVal 0x400 4) = some 0x04030201 := by decide
theorem test_rmw_or : rmwVal 4 .n32 0x1408 0x0807 = 0x1C0F := by decide

/-- A strand of one lane under .ord, whose launch holds the location. -/
def ordWord : Fields := { mem .f32 (.v 5) 0x21 with var := 8 }
def ordState : State :=
  { memory with
    launches := [{ launch with reds := [⟨0x400, .f32, 0, []⟩] }]
    ctxs := memory.ctxs.map fun c => { c with
      lanes := c.lanes.map fun x => if x.item == some 0 then x else { x with item := none } } }
theorem wit_red_ord : issues 0x92 ordWord ordState (fun i => readyAt i ordWord 4 2 wantRmw at8 && i.lanes == [0] &&
    (i.s.launch i.l.id == some i.l) && i.l.reds == [⟨0x400, .f32, 0, []⟩]) = true := by decide

/-- [s16]: a lock word of 4 bytes at 0x400. -/
def lockWord (order : BitVec 8) (d : Opnd) : Fields := wx 0 .b32 order d (.s 16) (.imm 0) 0
def lockState (word : Nat) : State :=
  { span with mem := { span.mem with home := Memory.writeN [] 0x400 (leBytes 4 word) } }
def reachable (i : Iss) (f : Fields) (pa : Nat) : Bool :=
  i.s.mem.lockq.isEmpty && i.s.mem.deltas.isEmpty && f.scope < 4 &&
    decide (i.s.mem.l2.length + i.s.mem.l1.length + 128 < 2 ^ 26) &&
    (match i.s.locate i.c 0 (i.uniAddr f 4) 4 true wantRmw with
      | .ok (.g p _) => p == pa
      | _ => false) && reachesAt i 4 2 wantRmw pa

theorem test_lkrd_grants : ((after (.lkrd (lockWord 0x12 unused)) (lockState 0)).map fun t =>
    (LockWord.ofNat (t.sliceVal 0x400 4)).readers) = some 1 := by decide
theorem test_lkwr_parks : ((after (.lkwr (lockWord 0x12 unused)) (lockState ((LockWord.ofNat 0).toNat +
    (LockWord.toNat { LockWord.ofNat 0 with holds := true })))).map fun t => t.mem.lockq.map fun x => (x.write, x.ctx)) =
      some [(true, 1)] := by decide
theorem test_ulrd_unheld : scalAfter (.ulrd (lockWord 0x13 (.s 5))) (lockState 0) 5 = some 1 := by decide
theorem test_ulwr_held : scalAfter (.ulwr (lockWord 0x13 (.s 5))) (lockState (LockWord.toNat
    { LockWord.ofNat 0 with holds := true })) 5 = some 0 := by decide
theorem wit_locks : ∀ p ∈ [((0x93 : Nat), (0x12 : BitVec 8), unused), (0x94, 0x12, unused), (0x95, 0x13, .s 5), (0x96, 0x13, .s 5)],
    issues p.1 (lockWord p.2.1 p.2.2) (lockState 0) (fun i => reachable i (lockWord p.2.1 p.2.2) 0x400) = true := by decide

/-! ## Arrival objects -/

theorem wit_arrive_event : (8 : Nat) < 2 ^ 32 ∧ (7 : Nat) + 1 < 8 + 2 ^ 32 := by decide
/-- The eighth of 8 arrivals flips the phase. -/
theorem test_arrive_flips : arriveVal (8 + 7 * 2 ^ 32) 1 = 8 + 2 ^ 64 := by decide

def ainit : Fields := wx 0 .b32 9 unused (.s 16) (.imm 8) 0
def arv : Fields := wx 0 .b32 9 unused (.s 16) (.imm 1) 0
def awaitW : Fields := wx 0 .b32 9 unused (.s 16) (.imm 0) 0
theorem test_ainit : ((after (.ainit ainit) span).map fun t => t.sliceVal 0x400 8) = some 8 := by decide
theorem test_arv : ((after (.arv arv) (lockState 8)).map fun t => t.sliceVal 0x400 8) = some (8 + 2 ^ 32) := by decide
theorem test_await_waits : (ctxAfter (.await { awaitW with b := .imm 1 }) (lockState 8)).map (·.wait) = some (.object (.g 0x400 true) 2 true) := by decide
theorem wit_arrivals : issues 0xA4 ainit span (fun i => (match i.s.arrivalLoc i.c (i.uni 0 ainit.a) wantWrite with
      | .ok loc => (i.s.readWait i.clu 2 i.l.id (loc.pas 16)).isNone
      | _ => false) && ainit.scope == 1 && !isRel ainit.order) = true ∧
    issues 0xA5 arv (lockState 8) (fun i => (match i.s.arrivalLoc i.c (i.uni 0 arv.a) wantRmw with
      | .ok loc => (i.s.readWait i.clu 2 i.l.id (loc.pas 16)).isNone
      | _ => false) && !isRel arv.order) = true ∧
    issues 0xA6 awaitW (lockState 8) (fun i => (match i.s.arrivalLoc i.c (i.uni 0 awaitW.a) wantRead with
      | .ok loc => (i.s.readWait i.clu 2 i.l.id (loc.pas 16)).isNone &&
          i.s.objRead i.r.id i.c.id i.clu 2 loc / 2 ^ 64 % 2 == (i.uni 1 awaitW.b).toNat % 2
      | _ => false)) = true := by decide

/-! ## The matrix engine -/

/-- Scalars 40 to 43 hold two operands of nx4 tiles in .g: base 0, STRIDE 37, one tile. -/
def tiles : State := [(40, 0), (41, 0x2500C0), (42, 0x1000), (43, 0x2500C0)].foldl (fun s x => withScal s x.1 x.2) control
def mma : Fields := wt (wx 0 .b32 0 (.a 0) (.s 40) (.s 42) 0)
def msto : Fields := wt (wx 0 .b32 0x10 (.a 1) (.s 40) unused 0)
def queued (n : Nat) : State :=
  tiles.modRange 1 fun r => { r with mq := List.replicate n ⟨0xB2, 0, 0, 0, 0, 0, 0, none, 50, some 1, 0, false, false, none, [], false, none, []⟩ }

/-- The operand that a pair of scalars names is valid and passes its checks. -/
def goodPair (i : Iss) (x : Opnd) (kt0 : Bool) (want : Want) : Bool :=
  match readDesc (i.pair 0 x).1 (i.pair 0 x).2 kt0 with
  | some o => (i.s.checkOperand i.c o want).isNone
  | none => false

theorem wit_matrix : ∀ p ∈ [((0xB0 : Nat), mma), (0xB1, mma), (0xB2, { mma with a := unused, b := unused }),
      (0xB3, { mma with b := unused }), (0xB4, msto)],
    issues p.1 p.2 (queued 15) (fun i => (i.s.range 1).any (·.mq.length == 15) && goodPair i (.s 40) (0xB2 < p.1) wantRead &&
      goodPair i (.s 42) false wantWrite && (match i.arrivalByte i.s 0 with
        | .ok none => true
        | _ => false)) = true ∧
    issues p.1 p.2 (queued 16) (fun i => (i.s.range 1).any (·.mq.length == 16)) = true := by decide
theorem test_mma_queued : ((after (.mma mma) (queued 15)).bind (·.range 1)).map (fun r => (r.mq.map (·.op)).drop 14) =
    some [0xB2, 0xB0] := by decide
theorem test_mmas_waits : (ctxAfter (.mmas mma) (queued 16)).map (·.wait) = some (.stall (.engine 16)) := by decide
theorem test_mzero_tile : ((after (.mzero { mma with d := .a 7, a := unused, b := unused }) tiles).bind (·.range 1)).map
    (fun r => r.mq.map fun e => (e.op, e.tile)) = some [(0xB2, 7)] := by decide
theorem test_mldc_operand : ((after (.mldc { mma with b := unused }) tiles).bind (·.range 1)).map
    (fun r => r.mq.map fun e => (e.aBase, e.aDesc)) = some [(0, 0x2500C0)] := by decide
theorem test_msto_scope : ((after (.msto msto) tiles).bind (·.range 1)).map (fun r => r.mq.map fun e => (e.tile, e.scope)) =
    some [(1, 2)] := by decide
/-- A STRIDE below 37 is ILLEGAL with DETAIL 0x10, and in a control program the launch ends UNHANDLED. -/
theorem wit_matrix_bad : issues 0xB0 mma (withScal tiles 43 0x2400C0) (fun i =>
    (readDesc (i.pair 1 (.s 42)).1 (i.pair 1 (.s 42)).2 false).isNone && (i.s.range 1).any (·.mq.isEmpty)) = true := by decide
theorem test_mma_bad : ((after (.mma mma) (withScal tiles 43 0x2400C0)).map fun t => t.launches.map (·.status)) =
    some [some 4] := by decide

def plainCopy : Op := ⟨9, [1], none, .xfer, 0⟩
theorem wit_matrix_progress : issues 0xB5 (w .b32 unused unused unused) (withOp control remoteOp) (fun i =>
      !(i.s.ops.any fun o => o.ctxs.contains 1 && o.holds && o.what != .matrix)) = true ∧
    issues 0xB5 (w .b32 unused unused unused) (withOp control plainCopy) (fun i =>
      i.s.ops.any fun o => o.ctxs.contains 1 && o.holds && o.what != .matrix) = true ∧
    issues 0xB6 (w .b32 (.s 5) (.a 0) unused) (queued 2) (fun i => (i.s.range 1).isSome && !i.l.cmd.repro) = true := by decide
theorem test_mfen : pcAfter (.mfen (w .b32 unused unused unused)) (withOp control remoteOp) = some 12 ∧
    (ctxAfter (.mfen (w .b32 unused unused unused)) (withOp control plainCopy)).map (·.wait) = some (.stall .fence) := by decide
theorem test_mprg : scalAfter (.mprg (w .b32 (.s 5) (.a 0) unused)) (queued 2) 5 = some 0x20100 := by decide

/-! ## Copies -/

/-- 64 bytes from s16 = 0x400 to s3 = 0xC0. -/
def cpy : Fields := wt (wx 0 .b32 0 (.s 3) (.s 16) (.s 1) 0)
theorem test_cpy : ((after (.cpy cpy) control).map fun t => t.xfers.map fun x => (x.src, x.dst, x.len)) =
    some [([⟨0x400, 64, true, false, 0x400, 0x10000⟩], [⟨0xC0, 64, true, false, 0xC0, 0x10000⟩], 64)] := by decide
theorem test_cpy_range : ((after (.cpy { cpy with b := .s 20 }) (withScal control 20 (2 ^ 30 + 1))).map fun t =>
    t.launches.map (·.status)) = some [some 4] := by decide

/-- 16 bytes of .g to offset 64 of areas 0 and 2. -/
def mcst : Fields := wt (wx 0 .b32 0 (.s 44) (.s 16) (.imm 16) 5)
def mcstState : State := withScal (withScal control 44 64) 45 0
theorem test_mcst : ((after (.mcst mcst) mcstState).map fun t => t.xfers.map fun x => (x.targets, x.dstOff, x.len, x.mcst)) =
    some [(5, 64, 16, true)] := by decide

def chain : Fields := wt (w .b32 .zero (.s 16) (.imm 0))
def channel (st : ChanState) : State :=
  control.modRange 1 fun r => { r with chans := [⟨st, 0x440, 50⟩, ⟨.idle, 0, 0⟩, ⟨.idle, 0, 0⟩, ⟨.idle, 0, 0⟩] }
theorem test_chain_walks : ((after (.chain chain) control).bind (·.range 1)).map
    (fun r => (r.chans.map fun c => (c.state, c.recAt)).take 1) = some [(.walking, 0x400)] := by decide
theorem test_chain_busy : scalAfter (.chain { chain with d := .s 5, h := noHints }) (channel .walking) 5 = some 1 := by decide
theorem test_chq : scalAfter (.chq (w .b32 (.s 5) unused (.imm 0))) (channel .parked) 5 = some 0x442 := by decide

/-- A range of bytes translates. -/
def maps (i : Iss) (want : Want) (va : W64) (n : Nat) : Bool :=
  match i.s.translateRange i.clu false i.l want va n with
  | .ok _ => true
  | .error _ => false

theorem wit_copies : issues 0xA0 cpy control (fun i => maps i wantRead (i.uni 0 cpy.a) 64 && maps i wantWrite (i.uni 3 cpy.d) 64 &&
      (match i.arrivalByte i.s 0 with
        | .ok none => true
        | _ => false)) = true ∧
    issues 0xA0 { cpy with b := .s 20 } (withScal control 20 (2 ^ 30 + 1)) (fun i => (i.uni 1 (.s 20)).toNat == 2 ^ 30 + 1) =
      true ∧
    issues 0xA3 mcst mcstState (fun i => (match i.mcstSource i.s 0 (i.uni 0 mcst.a) 16 with
      | .ok _ => true
      | .error _ => false) && (i.pair 3 mcst.d).2 == 0 && 64 + 16 ≤ i.l.s && i.r.m == 8) = true ∧
    issues 0xA3 { mcst with b := .s 20 } (withScal mcstState 20 (2 ^ 20 + 1)) (fun i => (i.uni 1 (.s 20)).toNat == 2 ^ 20 + 1) =
      true := by decide
theorem wit_chains : issues 0xA1 { chain with a := .s 63 } (withScal control 63 0x441) (fun i => (i.uni 0 (.s 63)).toNat == 0x441) =
      true ∧
    issues 0xA1 chain (channel .walking) (fun i => (i.s.range 1).any fun r => r.chans[0]? == some ⟨.walking, 0x440, 50⟩) = true ∧
    issues 0xA1 { chain with a := .s 0 } control (fun i => i.uni 0 (.s 0) == 0) = true ∧
    issues 0xA1 { chain with a := .s 0 } (channel .parked) (fun i => (i.s.range 1).any fun r =>
      r.chans[0]? == some ⟨.parked, 0x440, 50⟩) = true ∧
    issues 0xA2 (w .b32 (.s 5) unused (.imm 0)) (channel .walking) (fun i => !i.l.cmd.repro) = true := by decide

/-! ## Groups and sends -/

def barg : Fields := wx 0 .b32 0x0C unused unused (.imm 1) 0
theorem test_barg : (ctxAfter (.barg barg) strand).map (·.wait) = some (.group 1 0 2) ∧
    ((after (.barg barg) strand).bind (·.launch 1)).map (fun l => (l.gen 1).counts) =
      some ((List.range 8).map fun k => (k, 1)) := by decide
theorem test_barg_range : (ctxAfter (.barg { barg with b := .imm 256 }) strand).map (fun c => Memory.readN c.priv 0 2) =
    some [6, 2] := by decide
theorem test_grpq : scalAfter (.grpq (w .b32 (.s 5) unused (.imm 1))) strand 5 = some 8 := by decide
theorem wit_groups : issues 0xC0 barg strand (fun i => (i.s.launch i.l.id == some i.l) &&
      i.lanes.all (fun x => i.l.member 1 (i.itemOf x) && (i.l.gen 1).count (i.itemOf x) == i.s.released i.l.cmd.job 1) &&
      !i.lanes.isEmpty) = true ∧
    issues 0xC0 { barg with b := .imm 256 } strand (fun i => (i.uni 1 (.imm 256)).toNat == 256) = true ∧
    issues 0xC1 (w .b32 (.p 0) unused (.imm 1)) strand (fun i => i.c.kind == .strand) = true ∧
    issues 0xC1 (w .b32 (.s 5) unused (.imm 256)) strand (fun _ => true) = true := by decide

/-- 16 bytes at [s0] of .l to group 1, channel 0. -/
def sendg : Fields := wt (wx 0 .b32 0x40 .zero (.s 0) (.imm 16) 1)
theorem test_sendg : ((after (.sendg sendg) strand).map fun t => t.sends.msgs.map fun m => (m.key, m.words.length, m.climbing)) =
    some [(⟨5, 1, 0⟩, 4, true)] := by decide
theorem test_sendg_range : (ctxAfter (.sendg { sendg with b := .imm 18 }) strand).map (fun c => Memory.readN c.priv 0 2) =
    some [6, 7] := by decide
theorem wit_sendg : issues 0xC2 sendg strand (fun i => (match i.s.locate i.c 1 (i.uni 0 sendg.a) 16 false wantRead with
      | .ok (.scratch 0 0) => true
      | _ => false) && !i.s.fabric.tier && (i.s.range i.r.id).isSome) = true ∧
    issues 0xC2 { sendg with b := .imm 260 } strand (fun i => (i.uni 1 (.imm 260)).toNat == 260) = true := by decide

/-- The strand's channel 0 with n offers for group 1 and limit 64, holding the given messages. -/
def chanState (n : Nat) (held : List RecvRec) : State :=
  strand.modCtx 1 fun c => { c with chans := c.chans.set 0 ⟨n, 1, 64, held, 16, 16⟩ }
/-- A message of 4 words, none popped. -/
def record : RecvRec := ⟨16, [1, 2, 3, 4], 0, false, 0, 0⟩
def offer (lim n : BitVec 11) (g : BitVec 8) : Fields := wx 0 .b32 0 (.s 5) (.imm lim) (.imm n) g

theorem test_offer : ((ctxAfter (.offer (offer 64 2 1)) strand).bind (·.chans[0]?)).map (fun h => (h.offered, h.group, h.limit)) =
    some (2, 1, 64) := by decide
/-- R334: 496 bytes hold 6 records of 80 bytes, not 7. -/
theorem test_offer_full : scalAfter (.offer (offer 64 7 1)) strand 5 = some 3 := by decide
theorem test_wdraw : scalAfter (.wdraw (w .b32 (.s 5) unused unused)) (chanState 3 []) 5 = some 3 := by decide
theorem test_recv : ((after (.recv (wt (wx 0 .b32 0x40 .zero (.s 1) unused 0))) (chanState 1 [record])).bind (·.range 1)).map
    (fun r => r.readScratch 0 64 8) = some [1, 0, 0, 0, 2, 0, 0, 0] := by decide
theorem test_qstat : scalAfter (.qstat (w .b32 (.s 5) unused unused)) (chanState 3 [record]) 5 =
    some 0x0100001000030001 := by decide
theorem test_pstat : scalAfter (.pstat (w .b32 (.s 5) unused (.imm 1)))
    { strand with fabric := { strand.fabric with failed := [65, 3] } } 5 = some 2 := by decide
theorem wit_receives : issues 0xC3 (offer 64 2 1) strand (fun i => i.c.items.any fun x => i.l.member 1 x) = true ∧
    issues 0xC3 (offer 8 2 1) strand (fun _ => true) = true ∧ issues 0xC3 (offer 64 2 9) strand (fun i =>
      !(i.c.items.any fun x => i.l.member 9 x)) = true ∧ issues 0xC3 (offer 64 0 1) strand (fun _ => true) = true ∧
    issues 0xC3 (offer 32 2 1) (chanState 1 []) (fun i => (i.chan 0).offered == 1 && (i.chan 0).limit == 64) = true ∧
    issues 0xC3 (offer 64 7 1) strand (fun i => (i.chan 0).used == 0) = true ∧
    issues 0xC4 (w .b32 (.s 5) unused unused) (chanState 3 []) (fun i => (i.chan 0).offered == 3) = true ∧
    issues 0xC4 (w .b32 (.s 5) unused unused) strand (fun i => (i.chan 0).offered == 0) = true ∧
    issues 0xC5 (wt (wx 0 .b32 0x40 .zero (.s 1) unused 0)) strand (fun i => (i.chan 0).held.isEmpty) = true ∧
    issues 0xC5 (wt (wx 0 .b32 0x40 .zero (.s 1) unused 0)) (chanState 1 []) (fun i => (i.chan 0).offered == 1) = true ∧
    issues 0xC5 (wt (wx 0 .b32 0x40 .zero (.s 1) unused 0)) (chanState 1 [record]) (fun i =>
      (match i.s.locate i.c 1 (i.uni 0 (.s 1)) 16 false wantWrite with
        | .ok (.scratch 0 64) => true
        | _ => false)) = true ∧
    issues 0xC6 (w .b32 (.s 5) unused unused) strand (fun _ => true) = true ∧
    issues 0xE5 (w .b32 (.s 5) unused (.imm 129)) strand (fun _ => true) = true ∧
    issues 0xE5 (w .b32 (.s 5) unused (.imm 128)) strand (fun _ => true) = true ∧
    issues 0xE5 (w .b32 (.s 5) unused (.imm 127)) strand (fun _ => true) = true := by decide

/-! ## Time -/

def withMer (s : State) (state : Nat) : State := { s with mer := { s.mer with state := state } }
theorem test_time : scalAfter (.time (w .b32 (.s 6) unused unused)) span 6 = some 1000 ∧
    scalAfter (.time (w .b32 (.s 6) unused unused)) span 7 = some 1012 := by decide
/-- R351: half-width (10 + 1) / 2 = 5, state 2, cause 3, unit 1. -/
theorem test_tunc : scalAfter (.tunc (w .b32 (.s 6) unused unused)) { span with mer := { span.mer with
    state := 2, cause := 3, unit := 1 } } 6 = some 0x1320000000005 := by decide
theorem test_twait : scalAfter (.twait (w .b32 (.s 6) unused (.imm 999))) span 6 = some 0 ∧
    (ctxAfter (.twait (w .b32 (.s 6) unused (.imm 1000))) span).map (·.wait) = some (.time 1000) := by decide

/-- A stamped store of s2 to 0x10000, and a read there at time 900. -/
def stamped : State := withScal span 50 0x10000
def sts : Fields := wt (wx 0 .n32 0 (.s 8) (.s 50) (.s 2) 0x42)
def ldat : Fields := wt (wx 0 .n32 0 (.s 8) (.s 50) (.s 2) 0x42)
theorem test_sts_stamp : ((after (.sts sts) stamped).map fun t => kget t.lastStamps 0) = some (some 1012) := by decide
theorem test_sts_limit : (ctxAfter (.sts sts) (withMer stamped 2)).map (fun c => Memory.readN c.priv 0 2) = some [3, 1] := by
  decide
theorem test_ldat : ((after (.ldat ldat) stamped).map fun t => t.ops.map fun o => o.tok) = some [some 1] := by decide
def atStamped (i : Iss) (want : Want) : Bool :=
  match i.s.locate i.c 0 (i.uni 0 (.s 50)) 4 true want with
  | .ok (.g 0x10000 true) => true
  | _ => false
theorem wit_time : issues 0xD0 (w .b32 (.s 6) unused unused) span (fun i => (i.s.ctx i.c.id).isSome) = true ∧
    issues 0xD1 (w .b32 (.s 6) unused unused) span (fun i => i.s.mer.state < 4 && i.s.mer.cause < 16 && i.s.mer.unit < 2) = true ∧
    issues 0xD4 (w .b32 (.s 6) unused (.imm 999)) span (fun i => i.s.mer.dielo == 1000) = true ∧
    issues 0xD4 (w .b32 (.s 6) unused (.imm 1000)) (withMer span 3) (fun i => i.s.mer.state == 3) = true ∧
    issues 0xD4 (w .b32 (.s 6) unused (.imm 1000)) span (fun i => i.s.mer.state == 0) = true := by decide
theorem wit_stamped : issues 0xD2 sts stamped (fun i => atStamped i ⟨false, true, false, true⟩ &&
      (kget i.s.lastStamps (i.s.coreNumber i.c)).isNone) = true ∧
    issues 0xD2 sts (withMer stamped 2) (fun i => atStamped i ⟨false, true, false, true⟩) = true ∧
    issues 0xD2 { sts with var := 1 } (withMer stamped 3) (fun i => atStamped i ⟨false, true, false, true⟩) = true ∧
    issues 0xD3 ldat stamped (fun i => atStamped i ⟨true, false, false, true⟩ && !i.splits (.s 8) false) = true ∧
    issues 0xD3 ldat (withMer stamped 3) (fun i => atStamped i ⟨true, false, false, true⟩) = true := by decide

/-- The four ways to fail, and the frozen state (R310). -/
def frozen : State := { span with mer := { span.mer with state := 3, hi := 2 ^ 64 - 1, diehi := 2 ^ 64 - 1 } }
def upPort : Port := { Port.reset with state := 2, rho := 79, dmin := 38 }
def linkedPort : State := { span with fabric := { span.fabric with ports := upPort :: List.replicate 63 Port.reset } }
theorem wit_failed : span.mer.state ≠ 3 ∧ linkedPort.fabric.ports[0]? = some upPort ∧
    min linkedPort.mer.hi (900 + (79 - 38)) < max linkedPort.mer.lo (900 + 38) ∧
    (min span.mer.hi (5000 + 1) < max span.mer.lo (5000 - 1)) ∧ span.mer.unit ≠ 1 ∧
    (frozen.mer.state, frozen.mer.lo, frozen.mer.hi, frozen.mer.dielo, frozen.mer.diehi) =
      (3, 1000, 2 ^ 64 - 1, 1000, 2 ^ 64 - 1) ∧
    issues 0xD0 (w .b32 (.s 6) unused unused) frozen (fun i => i.c.floorHi < 2 ^ 64) = true := by decide
theorem test_failed_time : scalAfter (.time (w .b32 (.s 6) unused unused)) frozen 7 = some (BitVec.allOnes 64) := by decide

/-- The worked example of R303: the first flit after reset bounds the pair to [1000036, 1000047]. -/
def fresh_ : State := { State.reset with
  mer := { Meridian.reset with ref := 1 }, fabric := { Fabric.reset with ports := upPort :: List.replicate 63 Port.reset } }
theorem test_flit_example : ((after (.timingFlit 0 999998 1000006) { linkedPort with mer := { span.mer with
    clo := 1000040 * 2 ^ 32, chi := 1000052 * 2 ^ 32, lo := 1000040, hi := 1000052 } }).map fun t => (t.mer.lo, t.mer.clo / 2 ^ 32,
      t.mer.chi / 2 ^ 32)) = some (1000040, 1000040, 1000047) := by decide
theorem test_first_sync : ((after (.timingFlit 0 999998 1000006) fresh_).map fun t => (t.mer.lo, t.mer.hi, t.mer.state)) =
    some (1000036, 1000047, 0) := by decide
theorem wit_from_reset : fresh_.mer.synced = false ∧ fresh_.mer.lo = 0 ∧ fresh_.mer.hi = 2 ^ 64 - 1 ∧ fresh_.mer.state = 2 ∧
    fresh_.mer.ref ≠ 0 ∧ fresh_.fabric.ports[0]? = some upPort ∧ 999998 + 38 ≤ min (2 ^ 64 - 1) (1000006 + (79 - 38)) ∧
    1000 - 5 ≤ min (2 ^ 64 - 1) (1000 + 5) := by decide

/-! ## Energy and launches -/

theorem test_enrg : scalAfter (.enrg (w .b32 (.s 6) unused unused)) { span with launches := [{ launch with energy := 77 }] } 6 =
    some 77 := by decide
theorem test_emark : (ctxAfter (.emark (w .b32 unused unused (.imm 2))) span).map (fun c => c.subs.map (·.running)) =
    some [false, false, true, false] := by decide
theorem test_grow : scalAfter (.grow (w .b32 (.s 6) unused (.imm 8))) span 6 = some 64 ∧
    ((after (.grow (w .b32 (.s 6) unused (.imm 8))) span).bind (·.launch 1)).map (·.n) = some 72 := by decide
theorem test_lnq : scalAfter (.lnq (w .b32 (.s 6) unused (.imm 2))) span 6 = some 1 := by decide

/-- Queue 3 of VF 0, process 0, with 16 slots at 0x800, its tail at `tail`. -/
def queueState (tail : Nat) : State :=
  { span with
    mem := { span.mem with home := Memory.writeN span.mem.home 0x02000000018 (leBytes 8 tail) }
    disp := { span.disp with queues := [(3, ⟨0x800, 4, 0, 0, 0, true, 0, none⟩)] } }
def spawn (q : BitVec 11) : Fields := w .b32 (.s 6) (.s 16) (.imm q)
theorem test_spawn : scalAfter (.spawn (spawn 3)) (queueState 2) 6 = some 0 ∧
    ((after (.spawn (spawn 3)) (queueState 2)).map fun t => t.tailOf 3) = some 3 := by decide
theorem test_spawn_full : scalAfter (.spawn (spawn 3)) (queueState 16) 6 = some 1 := by decide
theorem wit_energy : issues 0xE0 (w .b32 (.s 6) unused unused) span (fun i => (i.s.launch i.l.id).isSome) = true ∧
    issues 0xE0 (wx 3 .b32 0 (.s 6) unused (.imm 2) 0) span (fun i => i.s.ops.isEmpty && i.c.subs[2]? == some ⟨0, false⟩) = true ∧
    issues 0xE1 (w .b32 unused unused (.imm 2)) span (fun _ => true) = true := by decide
theorem wit_spawn : issues 0xE2 (spawn 4) (queueState 0) (fun i => !(i.s.queue 4).en) = true ∧
    issues 0xE2 (spawn 3) (queueState 16) (fun i => (i.s.queue 3).en && i.s.tailOf 3 == 16 && !i.l.cmd.repro) = true ∧
    issues 0xE2 (spawn 3) (queueState 15) (fun i => maps i wantRead (i.uni 0 (.s 16)) 128 &&
      maps i wantWrite ((i.s.queue 3).slot 15) 128 && (i.uni 0 (.s 16)).toNat % 128 == 0 &&
      (match i.s.translateRange i.clu false i.l wantRead (i.uni 0 (.s 16)) 128 with
        | .ok ps => (i.s.readWait i.clu 2 i.l.id ((List.range 128).map fun k => (pieceAt ps k).1)).isNone
        | _ => false)) = true := by decide
theorem wit_grow_lnq : issues 0xE3 (w .b32 (.s 6) unused (.imm 8)) span (fun i => (i.s.launch i.l.id).any (·.n == 64)) = true ∧
    issues 0xE3 (w .b32 (.s 6) unused (.s 20)) (withScal span 20 0xFFFFFFC0) (fun i => (i.uni 1 (.s 20)).toNat + 64 == 2 ^ 32) =
      true ∧
    (∀ x ∈ [(0 : BitVec 11), 2, 3, 4], issues 0xE4 (w .b32 (.s 6) unused (.imm x)) span (fun i => (i.s.launch i.l.id).isSome) =
      true) ∧
    issues 0xE4 (w .b32 (.s 6) unused (.imm 5)) { span with launches := [{ launch with cmd := { launch.cmd with estimate := 9 } }] }
      (fun i => i.l.cmd.estimate == 9) = true := by decide

/-! ## Events: the contexts of a core -/

/-- The same context under another number. -/
def nth (c : Ctx) (k : Nat) : Ctx := { c with id := k, age := k }
/-- n contexts from number 1 on, each active or not. -/
def many (n : Nat) (active : Bool) : State :=
  { span with ctxs := (List.range n).map fun k => { nth spanCtx (k + 1) with active := active } }
def trapQueue : State := { span with ctxs := [{ nth spanCtx 1 with trap := .queued 7 }, { nth spanCtx 2 with trap := .queued 6 }] }

theorem test_trap_slot_grant : ((after (.trapSlotGrant 0) trapQueue).map fun t => t.ctxs.map (·.trap)) =
    some [.queued 7, .slot] := by decide
theorem test_promote : ((after (.activeSetPromote 0) (many 2 false)).map fun t => t.ctxs.map (·.active)) =
    some [true, false] := by decide
theorem test_token_outstanding : (ctxAfter (.tokenOutstandingBeyond64Cycles 1) (span.modCtx 1 fun c => { c with
    wait := .tokens 2 false })).map (·.active) = some false := by decide
theorem wit_slots : (∃ c ∈ (handler span).coreCtxs 0, c.trap = .slot) ∧
    (trapQueue.coreCtxs 0).all (fun d => d.trap != .slot && trapQueue.mayRun d) = true ∧
    ((trapQueue.launchOf spanCtx).bind (·.trapEntry)).isSome = true ∧
    8 ≤ (((many 8 true).coreCtxs 0).filter (·.active)).length ∧
    ((many 2 false).coreCtxs 0).all (fun d => (many 2 false).readyIdle d) = true ∧
    (nth spanCtx 1).seniority < (nth spanCtx 2).seniority := by decide
theorem wit_overdue : ∃ old ∈ ({ span with ctxs := [spanCtx, { nth spanCtx 2 with active := false }] } : State).coreCtxs 0,
    old.active = true := by decide

def joining : State := span.modCtx 1 fun c => { c with wait := .join 5 }
theorem test_join_timeout : (ctxAfter (.joinTimeout 1) joining).map (fun c => (c.pc, c.wait)) = some (12, .none) := by decide
/-- Two contexts that wait for space, and one outside the core. -/
def crowded : State := { span with ctxs := [{ nth spanCtx 1 with wait := .space 4000 }, { nth spanCtx 2 with wait := .space 4000 }] }
theorem test_space_spill : ((after (.spaceWaiterSpill 0) crowded).map fun t => t.ctxs.map (·.resident)) =
    some [true, false] := by decide
def outside : State := { span with ctxs := [{ nth spanCtx 1 with resident := false }] }
theorem test_spilled_return : ((after (.spilledContextReturn 0) outside).map fun t => t.ctxs.map (·.resident)) = some [true] := by
  decide
/-- A remainder of 20 items at item 4: the first strand takes items 4 to 7 of its row of 8. -/
def remainder : State := span.modCtx 1 fun c => { c with kind := .span 4 24, wait := .remainder }
theorem test_remainder : (ctxAfter (.remainderStrandForm 1) remainder).map (·.items) = some [4, 5, 6, 7] := by decide
theorem wit_joins : joining.mayRun spanCtx = true ∧ joining.ctx 1 = some { spanCtx with wait := .join 5 } ∧
    (crowded.coreCtxs 0).all (fun d => d.resident && d.waitsForSpace && decide (d.seniority < 2 ^ 200)) = true ∧
    ((crowded.ctx 1).bind crowded.launchOf).isSome = true ∧ crowded.spilled launch 1 0 + 256 * spanCtx.blocks launch ≤ 2 ^ 20 ∧
    outside.freeSlots 1 0 ≠ 0 ∧ spanCtx.blocks launch ≤ outside.freeBlocks launch 1 0 ∧
    remainder.ctx 1 = some { spanCtx with kind := .span 4 24, wait := .remainder } ∧ remainder.freeSlots 1 0 ≠ 0 ∧
    launch.window true / 256 ≤ remainder.freeBlocks launch 1 0 + spanCtx.reserve * (launch.window true / 256) := by decide

def fenceOp : Op := ⟨12, [1], none, .fence [8] false false none, 0⟩
theorem test_ack : ((after (.tokenOperationComplete 8) (withOp span remoteOp)).map (·.ops)) = some [] := by decide
theorem wit_completion : (withOp span readyOp).op 7 = some readyOp ∧ (withOp span remoteOp).op 8 = some remoteOp ∧
    (withOp (withOp span remoteOp) fenceOp).op 12 = some fenceOp ∧
    (∃ p ∈ (withOp (withOp span remoteOp) fenceOp).ops, p.id = 8 ∧ p.what = .remote 9 false 1) ∧
    (∀ p ∈ (withOp span fenceOp).ops, p.id ≠ 8) := by decide

/-! ## Events: the engines -/

/-- The operands of one nx4 tile each in the scratch areas 0 and 1, at the head of a queue. -/
def running (op : Nat) (started : Bool) : State :=
  (withOp control ⟨50, [1], some 1, .matrix, 0⟩).modRange 1 fun r => { r with
    mq := [⟨op, 3, 0, 0x2500C1, 0x100000, 0x2500C1, 0, none, 50, some 1, 0, started, false, none, [], false, none, []⟩] }
theorem test_engine_begins : ((after (.matrixEngineExecute 0) (running 0xB0 false)).bind (·.range 1)).map
    (fun r => r.mq.map (·.started)) = some [true] := by decide
theorem wit_engine : ((running 0xB0 true).engineAt 0).any (fun x => x.1.id == 1 && (running 0xB0 true).working x.2) = true ∧
    (∀ e ∈ ((running 0xB0 true).range 1).toList.flatMap (·.mq), e.opA.isSome = true ∧ e.opB.isSome = true ∧
      e.spoiled = false ∧ e.done = false) ∧
    ((running 0xB0 true).op 50).isSome = true ∧ ((running 0xB0 true).range 1).bind (·.prog[3]?) = some 0 := by decide
/-- The operand's bytes can be read: they lie in the scratch areas. -/
def entry : MqEntry := ⟨0xB0, 3, 0, 0x2500C1, 0x100000, 0x2500C1, 0, none, 50, some 1, 0, true, false, none, [], false, none, []⟩
theorem wit_operand : (entry.opA.bind fun a => entry.opB.map fun b => (a.kt, b.kt)) = some (0, 0) ∧
    ∀ a b, entry.opA = some a → entry.opB = some b →
      ∃ x, (running 0xB0 true).readGroup controlCtx launch 0 entry a b 0 = .ok x := by
  refine ⟨by decide, ?_⟩
  intro a b ha hb
  cases ha
  cases hb
  exact ⟨_, rfl⟩
/-- R61: 0 + 1 × 1.5, and then −2 × 0.5, in eight products. -/
theorem test_group_sum : groupSum (fun k => if k == 0 then .fin false 1 0 else if k == 7 then .fin true 2 0 else .fin false 0 0)
    (fun k => if k = 0 then .fin false 3 (-1) else .fin false 1 (-1)) 0 = Exact.fin false 1 (-1) := by decide

def xfer : Xfer :=
  { id := 60, opId := 50, range := 1, chan := none, recPa := 0, next := 0, src := [⟨0x400, 64, false, false, 0x400, 0x10000⟩], srcLoc := none, low := 0
    dst := [⟨0x800, 64, false, false, 0x800, 0x10000⟩], mcst := false, targets := 0, dstOff := 0, len := 64, done := 0, scope := 0, arrive := none
    status := 0, acks := none, obj := [] }
def moving (x : Xfer) : State := { withOp control ⟨50, [1], some 1, .xfer, 0⟩ with xfers := [x] }
theorem test_segment : ((after (.copySegment 60) (moving { xfer with len := 4 })).map fun t => (t.sliceVal 0x800 4,
    t.xfers.map (·.done))) = some (0x04030201, [4]) := by decide
theorem test_transfer_done : ((after (.transferComplete 60) (moving { xfer with done := 64 })).map fun t =>
    (t.xfers.length, t.ops.length)) = some (0, 0) := by decide
theorem wit_transfers : ((moving xfer).xferAt 60).any (fun x => x.1 == xfer && (moving xfer).working x.2.2.1) = true ∧
    (∀ p ∈ (xfer.pas 0 64).1, (moving xfer).poisoned p = false) ∧
    ((moving { xfer with mcst := true, targets := 5 }).xferAt 60).isSome = true ∧ ((moving xfer).op 50).isSome = true := by decide

/-- Channel 0 walks to the record at `head`, whose bytes are `bs`. -/
def walking (head : W64) (bs : List Byte) : State :=
  { (control.modRange 1 fun r => { r with chans := r.chans.set 0 ⟨.walking, head, 50⟩ }) with
    ops := [⟨50, [1], some 1, .xfer, 0⟩]
    mem := { control.mem with home := Memory.writeN control.mem.home 0x440 bs } }
/-- A record: 16 bytes from 0x400 to 0x800, scope 1, owned by the engine. -/
def copyRecord : List Byte := leBytes 8 0x400 ++ leBytes 8 0x800 ++ leBytes 8 16 ++ leBytes 16 0 ++ [3] ++ List.replicate 23 0
theorem test_chain_end : ((after (.chainRecord 1 0) (walking 0 [])).bind (·.range 1)).map (fun r => (r.chans.map (·.state)).take 1) =
    some [.idle] := by decide
theorem test_chain_record : ((after (.chainRecord 1 0) (walking 0x440 copyRecord)).map fun t => t.xfers.map fun x => (x.len,
    x.scope, x.chan)) = some [(16, 1, some 0)] := by decide
theorem test_chain_parks : ((after (.chainRecord 1 0) (walking 0x440 [])).bind (·.range 1)).map
    (fun r => (r.chans.map (·.state)).take 1) = some [.parked] := by decide

/-! ## Events: caches, translations, CXL.mem -/

def dirtyLine : State := { span with mem := { span.mem with l1 := [(0x400, ⟨9, true⟩)], l2 := [(0x2000000000400, ⟨7, true⟩)] } }
theorem test_l1_eviction : ((after (.l1Eviction 0 16) dirtyLine).map fun t => (t.sliceRead 0x400, t.mem.l1)) = some (9, []) := by
  decide
theorem wit_evictions : dirtyLine.mem.deltas = [] ∧ 64 * 16 + 63 < 2 ^ 56 ∧
    (∃ k, k < 64 ∧ kget dirtyLine.mem.l2 (64 * 0x80000000010 + k) ≠ none) ∧
    (∀ k < 64, kget span.mem.l2 (64 * 16 + k) = none) ∧ (⟨0, 0x400, 0, .n32, 1⟩ : Delta).meets (64 * 16) 64 = true := by decide
theorem test_delta_flush : ((after (.deltaFlush 0 16) { span with mem := { span.mem with deltas := [⟨0, 0x400, 0, .n32, 1⟩] } }).map
    fun t => (t.sliceVal 0x400 4, t.mem.deltas.length)) = some (0x04030202, 0) := by decide

/-- The tables at 0x1000 to 0x4000 map one 64 KiB page at 0 to 0x30000. -/
def tableBytes : Memory := [(0x1000, 0x2001), (0x2000, 0x3001), (0x3000, 0x4001), (0x4000, 0x3001F)].foldl
  (fun m (x : Nat × Nat) => Memory.writeN m x.1 (leBytes 8 x.2)) []
def tables : State :=
  { State.reset with procs := [(0, { Proc.reset with root := 0x1000 })], mem := { Mem.reset with home := tableBytes } }
def leafOk (s : State) : Bool :=
  match s.walk 0 0 0x10 with
  | .ok _ => true
  | _ => false
theorem test_walk : ((tables.walk 0 0 0x10).toOption.map fun l => (l.pa, l.size, l.r, l.w, l.x)) =
    some (0x30000, 2 ^ 16, true, true, true) := by decide
theorem wit_walk : canonical 0x10 = true ∧ tables.tlbHit 0 false 0 0 0x10 = none ∧ leafOk tables = true ∧
    leafOk State.reset = false := by decide
/-- A running transfer holds the page that its source was translated by, and a parked lock request the entry (R252). -/
theorem wit_shootdown : span.mem.tlb.all (fun e => !span.inUse e) = true ∧ span.pageHeld 0 0 0x10 = false ∧
    (moving xfer).pageHeld 0 0 0x10 = true ∧
    (let s : State := { span with mem := { span.mem with lockq := [⟨70, 0x10004, true, 1, 2, 0, 0, none⟩] } }
    s.mem.tlb.any s.inUse) = true := by decide
theorem test_shootdown : ((after (.shootdown 0 0 0x10) span).map fun t => t.mem.tlb.map (·.va)) = some [0x10000] := by decide

def cxlState (write : Bool) : State := { withOp span readyOp with svc := { span.svc with cxlReqs := [⟨3, 100, write, 7, false⟩] } }
theorem test_cxl_ack : ((after (.cxlResponse 3 [] false) (cxlState true)).map fun t => (t.ops.length, t.svc.cxlReqs.length)) =
    some (0, 0) := by decide
theorem wit_cxl : (cxlState true).svc.cxlReqs.find? (·.tag == 3) = some ⟨3, 100, true, 7, false⟩ ∧
    (cxlState false).svc.cxlReqs.find? (·.tag == 3) = some ⟨3, 100, false, 7, false⟩ ∧ (List.replicate 64 (1 : Byte)).length = 64 := by
  decide
/-- R280: a read without an answer stands as failed for its reader, and the line itself is not poisoned. -/
theorem test_cxl_timeout : ((after (.cxlTimeout 3) (cxlState false)).map fun t => (t.svc.cxlReqs.map (·.failed), t.mem.poison)) =
    some ([true], []) := by decide
theorem test_cxl_ranges : ((after (.cxlRangeConfiguration [⟨0, 2 ^ 28, [0, 1, 2], 0⟩]) span).map fun t => t.svc.cxl) = some [] := by
  decide

/-! ## Events: errors and the service core -/

def tested (b : Block) : State := { State.reset with svc := { Service.reset with errors := [b, .copy 1 1] } }
theorem test_self_test : ((after (.selfTest (.copy 0 2) false false) (tested (.copy 0 2))).map fun t => (t.svc.errors,
    t.svc.failedBlocks)) = some ([.copy 1 1], [.copy 0 2]) := by decide
theorem wit_errors : (tested (.bank 0 1)).svc.errors = .bank 0 1 :: [.copy 1 1] ∧ Block.bank 0 1 ∉ [Block.copy 1 1] ∧
    (0, 0x400) ∉ span.svc.checks ∧ Block.copy 0 2 ∉ span.svc.failedBlocks := by decide
theorem test_block_error : ((after (.blockError (.copy 0 2) [5]) span).map fun t => (t.svc.errors, t.mem.poison)) =
    some ([.copy 0 2], [5]) := by decide
theorem test_machine_check : ((after (.machineCheck 1 5) { span with svc := { span.svc with checks := [(1, 5)] } }).map fun t =>
    t.launches.map (·.status)) = some [some 6] := by decide
theorem test_service_failure : ((after .serviceCoreFailure span).map fun t => t.launches.map (·.status)) = some [some 6] := by
  decide
theorem test_frozen_step : ((match step { span with tape := [.event .meridianTick], svc := { span.svc with frozen := true } } with
    | .next t => some t.mer.lo
    | _ => none)) = some 1000 := by decide
theorem test_reset_keeps : ((after (.packageReset false) span).map fun t => (t.svc.recovery, t.ctxs.length, t.mer.state)) =
    some (true, 0, 2) := by decide
theorem test_attestation : ((after (.attestationRequest 7) span).map fun t => (t.svc.attIdx, t.svc.report.map (·.index))) =
    some (1, some 0) := by decide
theorem wit_service : span.svc.recovery = false ∧ span.svc.attIdx < 2 ^ 20 := by decide
theorem test_recovery : ((after (.recoveryImage ⟨true, true⟩ 9) { span with svc := { span.svc with recovery := true } }).map fun t =>
    (t.svc.recovery, t.svc.imageDigest)) = some (false, 9) := by decide

/-! ## Events: queues, commands and launches -/

/-- The state of a placed span whose VF's process has the tables: virtual page 0 is 0x30000. -/
def hosted (bytes : List (Nat × List Byte)) : State :=
  { span with
    procs := [(0, { Proc.reset with root := 0x1000 })]
    mem := { span.mem with home := bytes.foldl (fun m x => Memory.writeN m x.1 x.2) tableBytes } }

def queueDesc : BitVec 128 := BitVec.ofNat 128 (0x800 + 4 * 2 ^ 64 + 2 ^ 86)
theorem test_descriptor : ((after (.queueDescriptorWrite 3 queueDesc) span).map fun t => ((t.queue 3).base, (t.queue 3).logsz,
    (t.queue 3).en)) = some (0x800, 4, true) := by decide
theorem test_tail_dropped : ((after (.queueTailWrite ⟨1, .reliableOrdered, some 4⟩ 3 5) (keyed span)).map fun t => t.host.errlog) = some [(1, 1, 3)] := by decide
theorem test_tail_bad : ((after (.queueTailWrite via 3 17) (keyed (queueState 0))).map fun t => ((t.queue 3).en, t.tailOf 3)) =
    some (false, 17) := by decide

/-- Queue 3 with one command at 0x800, a NOP that waits for 5 at 0x100, which holds 6. -/
def pending : State :=
  { hosted [(0x30800, leBytes 52 0 ++ leBytes 8 0x100 ++ leBytes 8 5), (0x30100, leBytes 8 6), (0x02000000018, leBytes 8 1)] with
    disp := { span.disp with queues := [(3, ⟨0x800, 4, 0, 0, 0, true, 0, none⟩)] } }
theorem test_take : ((after (.commandTake 3) pending).map fun t => (t.disp.cmds.map fun x => (x.queue, x.cmd.depaddr, x.launchId),
    (t.queue 3).head)) = some ([(3, 0x100, 0)], 1) := by decide
theorem test_recheck : ((after .dependenceRecheck pending).map fun t => (t.queue 3).readyAt.isSome) = some true := by decide
/-- A dispatcher's access succeeds. -/
def reads (s : State) (va : W64) (n : Nat) : Bool :=
  match s.dispRead 0 0 va n with
  | .ok _ => true
  | _ => false
theorem wit_queues : (queueState 0).queue 3 = ⟨0x800, 4, 0, 0, 0, true, 0, none⟩ ∧ (span.queue 3).en = false ∧
    (pending.queue 3).en = true ∧ (pending.queue 3).head.toNat < pending.tailOf 3 ∧ reads pending 0x800 128 = true ∧
    reads pending 0x100 8 = true ∧ kget pending.disp.queues 3 = some (pending.queue 3) := by decide

/-- Command 20 of a kind, taken from queue 3 for launch 9. -/
def command (kind : Nat) (g : Cmd → Cmd) : Taken :=
  ⟨20, 3, 0, 0, 0, g { placeCmd false with kind := kind }, 9, false, none, [], false, none⟩
def withCmd (s : State) (x : Taken) : State := { s with disp := { s.disp with cmds := [x] } }
theorem test_nop_command : ((after (.nopCommand 20) (withCmd span (command 0 id))).map fun t => t.disp.cmds.length) = some 0 := by
  decide
theorem test_mark : ((after (.mark 20) (withCmd (hosted []) (command 2 fun c => { c with cmpaddr := 0x200, cmpval := 7 }))).map
    fun t => t.sliceVal 0x30200 8) = some 7 := by decide
theorem test_launch : ((after (.launch 20) (withCmd span (command 1 fun c => { c with n := 200 }))).map fun t =>
    (t.launches.drop 1).map fun l => (l.id, l.status, l.todo)) =
      some [(9, none, [(0, 64), (64, 128), (128, 192), (192, 200)])] := by decide
theorem test_launch_bad : ((after (.launch 20) (withCmd span (command 1 fun c => { c with clog := 5 }))).map fun t =>
    (t.launches.drop 1).map (·.status)) = some [some 5] := by decide
theorem wit_commands : (withCmd span (command 2 id)).taken 20 = some (command 2 id) ∧ (command 1 id).cmd.bad = false ∧
    (command 1 fun c => { c with clog := 5 }).cmd.bad = true ∧ (command 1 id).cmd.groups = 0 ∧
    span.spaceBad (newLaunch (command 1 id) []) = false ∧
    span.spaceBad (newLaunch (command 1 fun c => { c with cscratch := 131088 }) []) = true ∧
    (match (hosted []).dispWrite 0 0 0x200 (leBytes 8 7) with
      | .ok _ => true
      | _ => false) = true := by decide

/-- A launch with a range to place, whose VF has an account with a whole slice. -/
def placing : State :=
  { State.reset with
    nextId := 100
    accts := [(0, { Account.reset with bal := 100, cap := 200, slice := 100, period := 100, clumax := 4 })]
    launches := [{ launch with todo := [(0, 64), (64, 128)] }] }
theorem test_place : ((after (.rangePlace 1) placing).map fun t => t.ranges.map fun r => (r.lo, r.hi, r.cluster, r.m)) =
    some [(0, 64, some 0, 8)] := by decide
/-- R180: of 64 items each of 8 cores has 8. -/
theorem test_place_cores : ((after (.rangePlace 1) placing).map fun t => t.ctxs.map fun c => (c.core, c.items.head?)) =
    some ((List.range 8).map fun k => (k, some (8 * k))) := by decide
theorem wit_place : placing.freeCluster = some 0 ∧ placing.vfPlaces 0 = true ∧
    ((placing.launch 1).isSome = true) ∧ (placing.nextLaunch 0 0).map (·.id) = some 1 ∧ (placing.bid 0 0 64).isSome = true ∧
    64 ≤ (0 / launch.c + 1) * launch.c := by decide

def emptyRange : State := { span with ctxs := [] }
theorem test_retire : ((after (.rangeRetire 1) emptyRange).map fun t => (t.ranges.length, t.launches.map (·.retired))) =
    some (0, [64]) := by decide
def ended (status : Option Nat) (tend : Option Nat) : State :=
  { withCmd emptyRange (command 1 id) with
    ranges := [], launches := [{ launch with taken := 20, status := status, tend := tend }] }
theorem test_launch_end : ((after (.launchEnd 1) (ended none (some 900))).map fun t => (t.launches.length, t.disp.cmds.length)) =
    some (0, 0) := by decide
theorem wit_retire : (span.range 1).isSome = true ∧ (∃ c ∈ span.ctxs, c.range = 1) ∧ (∀ c ∈ emptyRange.ctxs, c.range ≠ 1) ∧
    ((emptyRange.range 1).any fun r => r.mq.isEmpty) = true ∧ emptyRange.xfers = [] := by decide
theorem wit_launch_end : (span.launch 1).any (fun l => l.tend.isNone && l.status.isNone) = true ∧ (∃ r ∈ span.ranges, r.launchId = 1) ∧
    ((ended none none).launch 1).any (fun l => !l.drain && l.todo.isEmpty) = true ∧ (ended none none).ranges = [] ∧
    ((ended (some 7) none).launch 1).isSome = true ∧ ((ended none (some 900)).taken 20).isSome = true ∧
    (ended none (some 900)).launchUnacked 1 = false ∧ (withOp (ended none (some 900)) remoteOp).launchUnacked 1 = true := by decide

/-! ## Events: saving, restoring, host commands -/

/-- The strand waits at the barrier while a range is left to place. -/
def barrier : State :=
  { strand.modCtx 1 (fun c => { c with wait := .group 1 0 0 }) with launches := [{ launch with todo := [(64, 128)] }] }
theorem test_barrier_save : ((after (.barrierRangeSave 1) barrier).map fun t => t.ranges.map fun r => (r.cluster, r.saved,
    r.atBarrier, r.store)) = some [(none, true, true, 0)] := by decide
def savedRange : State :=
  { placing with
    ctxs := [spanCtx], launches := [launch], ranges := [{ placeRange 1 with cluster := none, saved := true, order := 5 }] }
theorem test_restore_range : ((after (.rangeRestore 1) savedRange).map fun t => t.ranges.map fun r => (r.cluster, r.saved)) =
    some [(some 0, false)] := by decide
theorem wit_saves : (barrier.range 1).isSome = true ∧ (barrier.range 1).any barrier.allAtBarrier = true ∧
    (barrier.range 1).any barrier.rangeStopped = true ∧ ((barrier.range 1).bind fun r => barrier.saveRoom r 0 0).isSome = true ∧
    (strand.range 1).any strand.allAtBarrier = false ∧
    (placeOrder.find? fun x => savedRange.clusterFree x && (savedRange.range 1).any fun r => savedRange.roomOn launch r x) = some 0 ∧
    (savedRange.range 1).any savedRange.mayRestore = true ∧ savedRange.vfPlaces 0 = true ∧ (savedRange.bid 0 0 64).isSome = true ∧
    (span.acct 0).state ≠ 1 ∧ (span.acct 0).sliceOver = false ∧ span.launchStopped 1 = true := by decide
theorem test_vf_stopped : ((after (.vfStopped 0) { span with accts := [(0, { Account.reset with state := 1 })] }).map fun t =>
    (t.acct 0).state) = some 2 := by decide
theorem test_slice : ((after (.sliceEnd 5) span).map fun t => (t.acct 5).sliceOver) = some true ∧
    ((after (.periodStart 5) span).map fun t => (t.acct 5).sliceOver) = some false := by decide

/-- A host command whose argument block at 0x100 holds three 8-byte words, of the management process or another. -/
def hostCommand (kind a b c : Nat) (mgmt : Bool) : State :=
  let s := hosted [(0x30100, leBytes 8 a ++ leBytes 8 b ++ leBytes 8 c ++ leBytes 40 0)]
  withCmd { s with procs := [(0, { Proc.reset with root := 0x1000 }), (255, { Proc.reset with root := 0x1000 })] }
    { command kind (fun c => { c with recaddr := 0x100 }) with proc := if mgmt then 255 else 0 }
def statuses (i : Instr) (s : State) : Option (List (Option Nat)) := (after i s).map fun t => t.launches.map (·.status)
/-- The STATUS byte of the completion record at 0x100. -/
def resultOf (i : Instr) (s : State) : Option Byte := (after i s).map fun t => t.sliceRead 0x30100

theorem test_kill : statuses (.kill 20) (hostCommand 0x10 1 0 0 false) = some [some 8] := by decide
theorem test_kill_badarg : resultOf (.kill 20) (hostCommand 0x10 2 0 0 false) = some 0x11 := by decide
theorem test_restore_badimage : resultOf (.restore 20) (hostCommand 0x12 0 64 0 false) = some 0x13 := by decide
theorem test_resolve : resultOf (.resolve 20) (hostCommand 0x13 0 0 0 false) = some 0x10 := by decide
theorem test_refuse : statuses (.refuse 20) { hostCommand 0x14 0x50000 0 0 false with
    host := { span.host with faults := [⟨0, 0, 0x50000, 0, 5, [1]⟩] } } = some [some 7] := by decide
theorem test_vfacct : ((after (.vfacct 20) (hostCommand 0x18 2 0x00 500 true)).map fun t => (t.acct 2).bal) = some 0 ∧
    resultOf (.vfacct 20) (hostCommand 0x18 2 0x00 500 true) = some 0x14 ∧
    resultOf (.vfacct 20) (hostCommand 0x18 2 0x10 500 true) = some 0x10 := by decide
theorem test_partition : ((after (.partition 20) { hostCommand 0x19 (2 ^ 28) (2 ^ 27) 0 true with ranges := [] }).map fun t =>
    (t.svc.cacheUnits, t.svc.pinUnits)) = some (2, 2) := by decide
theorem test_preemptvf : ((after (.preemptvf 20) (hostCommand 0x1A 6 0 0 true)).map fun t => (t.acct 6).sliceOver) = some true := by
  decide
theorem test_procwt : ((after (.procwt 20) (hostCommand 0x1B 6 7 9 true)).map fun t => (t.proc 6 7).weight) = some 9 ∧
    resultOf (.procwt 20) (hostCommand 0x1B 6 7 9 false) = some 0x14 := by decide
/-- The hypotheses common to the host commands. -/
def hostReads (kind : Nat) (mgmt : Bool) : Bool :=
  let s := hostCommand kind 1 0 0 mgmt
  match s.taken 20 with
  | some t => t.cmd.kind == kind && !t.started && t.cmd.recaddr != 0 && (match s.dispRead t.vf t.proc t.cmd.recaddr 64 with
    | .ok (_, bs) => argOf bs 0 == 1
    | _ => false)
  | none => false
theorem wit_host : ∀ k ∈ [0x10, 0x11, 0x12, 0x13, 0x14, 0x18, 0x19, 0x1A, 0x1B], hostReads k true = true ∧ hostReads k false = true := by
  decide
theorem wit_targets : ((hostCommand 0x10 1 0 0 false).target (command 0x10 id) 1).isSome = true ∧
    ((hostCommand 0x10 1 0 0 false).target (command 0x10 id) 2).isNone = true ∧
    ((hostCommand 0x10 1 0 0 false).drain 1).launchStopped 1 = true ∧
    (({ hostCommand 0x10 1 0 0 false with ctxs := [{ spanCtx with trap := .slot }] } : State).drain 1).launchStopped 1 = false := by
  decide

/-! ## Events: barriers and energy -/

def sentMsg : BarrierMsg := ⟨.core, 0, 0, 1, 5, 1, 0, [(0, 8)], false⟩
/-- The items of the strand have arrived, and their message to the core is on its way. -/
def arrived : State :=
  { strand with launches := [{ launch with gens := [⟨1, (List.range 8).map fun k => (k, 1), (List.range 8).map fun k => (k, 0),
      [sentMsg]⟩] }] }
theorem test_arrival_message : ((after (.barrierArrivalMessage sentMsg) arrived).bind (·.launch 1)).map (fun l =>
    ((l.gen 1).levels.map (·.2), (l.gen 1).sent.map (·.level))) = some (List.replicate 8 1, [.cluster]) := by decide
/-- Everybody has arrived at the package. -/
def complete : State :=
  { strand.modCtx 1 (fun c => { c with wait := .group 1 0 0 }) with
    launches := [{ launch with gens := [⟨1, [], (List.range 8).map fun k => (k, 4), []⟩] }] }
theorem test_barrier_release : ((after (.barrierRelease 1 1) complete).map fun t => (t.released 5 1, t.ctxs.map (·.wait))) =
    some (1, [.none]) := by decide
theorem wit_barrier_events : sentMsg.node = arrived.fabric.node ∧ ((arrived.launch 1).any fun l => (l.gen 1).sent.contains sentMsg) = true ∧
    ((strand.launch 1).any fun l => !(l.gen 1).sent.contains sentMsg) = true ∧ arrived.mayRelease 5 1 = false ∧
    complete.mayRelease 5 1 = true ∧ ((complete.launch 1).any fun l => l.groups.any (·.k == 1)) = true ∧
    (complete.ctxs.all fun c => (complete.launchOf c).any fun l => (complete.jobLaunches 5 1).contains l) = true := by decide

def charged : State := { span with energy := { span.energy with charges := [⟨3, 0, 0, 0, 1, false, 5 * 65536 + 9⟩] } }
theorem test_charge_post : ((after (.chargePost 3) charged).map fun t => ((t.acct 0).bal, (t.acct 0).state,
    t.launches.map (·.energy), t.energy.charges.map (·.amount))) = some (-5, 1, [5], [9]) := by decide
theorem test_calibration : ((after (.calibrationLoad 3 (List.replicate 11 7)) span).map fun t => (t.tile 3).coefs.take 2) =
    some [7, 7] := by decide
/-- R256: with T = 800 and the measured 1,600 the factor moves from 1 to 1.125. -/
theorem test_factor : nextFactor 65536 (800 * 65536) 1600 0 = 73728 := by decide
theorem wit_energy_events : charged.energy.charges = [⟨3, 0, 0, 0, 1, false, 5 * 65536 + 9⟩] ∧ span.fabric.queued = [] ∧
    (span.launch 1).isSome = true ∧ isTile 36 = true ∧ isTile 37 = false ∧ isTile 544 = true ∧ isTile 545 = false := by decide

/-! ## Events: Meridian and stamped stores -/

theorem test_tick : ((after .meridianTick span).map fun t => (t.mer.lo, t.mer.hi)) = some (1000, 1012) := by decide
theorem test_reference_fails : ((after (.referenceInput true 5000) { span with mer := { span.mer with ref := 1, uref := 1 } }).map fun t =>
    (t.mer.state, t.mer.cause)) = some (3, 2) := by decide
theorem test_disagreement : ((after .oscillatorDisagreement span).map fun t => (t.mer.state, t.mer.cause, t.mer.hi)) =
    some (3, 3, 2 ^ 64 - 1) := by decide
theorem test_takeover : ((after (.standbyTakeover true) { span with mer := { span.mer with standbyLo := 1002 * 2 ^ 32 } }).map fun t =>
    (t.mer.unit, t.mer.lo, t.mer.hi)) = some (1, 1002, 1010) := by decide

def record0 : StsRec := ⟨0x10000, 990, 0, 0, 4, 7, 12⟩
def stsOp (p : StsPhase) : Op := ⟨12, [1], some 1, .sts record0 p 0x42 [(0, 64)], 0⟩
def ldatOp (t : W64) : Op := ⟨13, [1], some 1, .ldat t .n32 0x10000 (.s 8) 0x42 [(0, 64)], 0⟩
theorem test_commit : ((after (.stsCommit 12) (withOp span (stsOp .waiting))).map fun t => t.ops.map (·.what)) =
    some [.sts record0 .sent 0x42 [(0, 64)]] := by decide
theorem test_record_arrives : ((after (.stsRecordArrival record0) (withOp span (stsOp .sent))).map fun t =>
    (t.ops.map (·.what), t.sliceVal 0x10000 4)) = some ([.sts record0 (.answered 0) 0x42 [(0, 64)]], 7) := by decide
theorem test_status_returns : ((after (.stsStatusReturn 12 0) (withOp span (stsOp (.answered 1)))).map fun t => t.ops.length) =
    some 0 := by decide
/-- MRET is 64,000: a record of stamp 500 is expired at lo 64,501. -/
def oldLine : State :=
  { span with
    mer := { span.mer with dielo := 64501 }
    mem := { span.mem with slines := [(0x400, ⟨List.replicate 64 0, none, true, [⟨500, 0, 0, 0, 4, 7⟩], []⟩)] } }
theorem test_fold : ((after (.recordFold 0x400) oldLine).map fun t => (kget t.mem.slines 0x400).map fun l => (l.basest,
    l.slots.length, l.base.take 2)) = some (some (some 500, 0, [7, 0])) := by decide
theorem test_ldat_waits : ((after (.ldatAnswer 13 none) (withOp span (ldatOp 900))).map fun t => t.ops.length) = some 1 := by decide
def late : State := withOp { span with mer := { span.mer with dielo := 4901 } } (ldatOp 900)
theorem test_ldat_answers : ((after (.ldatAnswer 13 none) late).map fun t => t.ops.length) = some 0 := by decide
def waiting (t : W64) : State := span.modCtx 1 fun c => { c with wait := .time t }
theorem test_wake : (ctxAfter (.twaitWake 1) (waiting 999)).map (·.wait) = some .none ∧
    (ctxAfter (.twaitWake 1) (waiting 1000)).map (·.wait) = some (.time 1000) := by decide
theorem wit_stamp_events : (withOp span (stsOp .waiting)).opRuns (stsOp .waiting) = true ∧
    (withOp span (stsOp .waiting)).acked (stsOp .waiting) = true ∧ record0.stamp < span.mer.dielo ∧
    span.remote record0.pa = false ∧ record0.pa % record0.size = 0 ∧ ¬ 64001 < span.mer.dielo ∧
    record0.stamp + span.mer.mwin ≥ span.mer.dielo ∧ (∀ k < 4, span.poisoned (0x10000 + k) = false) ∧
    span.remote (9 * 2 ^ 43) = true ∧ 900 + late.mer.mwin < late.mer.dielo ∧
    (kget oldLine.mem.slines 0x400).any (fun l => l.records.length == 1 && l.slots.length < 4) = true := by decide
theorem wit_interval : span.mer.synced = true ∧ fresh_.mer.synced = false ∧ linkedPort.fabric.ports[0]? = some upPort ∧
    upPort.carries = true ∧ Port.reset.carries = false ∧ span.mer.hi ≤ 2 ^ 64 - 1 ∧ span.mer.ref = 0 ∧
    max span.mer.lo (960 + 38) ≤ min span.mer.hi (990 + 41) := by decide

/-! ## Events: links, the fabric and the host -/

def port (g : Port → Port) : State := { span with fabric := { span.fabric with ports := [g upPort, Port.reset] } }
def portAfter (i : Instr) (s : State) : Option Port := (after i s).bind fun t => t.fabric.ports[0]?
/-- A data flit of VC 2 from node 1 to node 0 under key slot 0 with counter 9, byte by byte from R323. -/
def flit (len : Nat) : RawFlit :=
  ⟨[0x20, 0, 0, 0, 1, 0] ++ leBytes 2 len ++ [9, 0, 0, 0, 0, 0, 0, 0] ++ List.replicate 224 0x33 ++ List.replicate 16 0x44, true, true⟩
def sentBefore (p : Port) : Port := { p with ctr := 99, sent := [⟨false, 35, .data 0 0 9 7 0, []⟩] }

theorem test_flit_send : (portAfter (.timingFlitSend 0) (port id)).map (·.ctr) = some 1 ∧
    (portAfter (.timingFlitSend 0) (port fun p => { p with staged := true, ctr := 2 ^ 31 + 1 })).map (fun p => (p.keyidx, p.ctr)) =
      some (true, 1) := by decide
theorem test_flit_send_last : (portAfter (.timingFlitSend 0) (port fun p => { p with ctr := 2 ^ 32 - 1 })).map (·.state) = some 4 := by
  decide
theorem test_resend : (portAfter (.resendRequest 0 35) (port sentBefore)).map (fun p => (p.ctr, p.sent.map (·.cargo))) =
      some (100, [.data 0 0 9 7 0, .data 0 0 9 7 0]) ∧
    (portAfter (.resendRequest 0 34) (port sentBefore)).map (·.ctr) = some 99 := by decide
theorem test_lane : (portAfter (.laneErasure 0 2) (port id)).map (fun p => (p.state, p.erased)) = some (3, 4) ∧
    (portAfter (.laneErasure 0 1) (port fun p => { p with state := 3, erased := 4 })).map (·.state) = some 0 := by decide
theorem test_port_down : (portAfter (.portDown 0) (port id)).map (·.state) = some 0 := by decide
theorem test_training : (portAfter (.linkTraining 0 (some 79)) (port fun p => { p with state := 1 })).map (fun p => (p.state, p.rho)) =
    some (2, 79) := by decide
theorem test_pause : (portAfter (.pauseUpdate 0 5) (port id)).map (·.paused) = some 5 := by decide
/-- R325: a flit of a paused channel waits, and leaves when the pause ends. -/
theorem test_pause_ends : (portAfter (.pauseUpdate 0 0) (port fun p => { p with paused := 5, queue := [.data 0 2 9 7 0] })).map
    (fun p => (p.queue.length, p.ctr)) = some (0, 1) ∧
    ((({ upPort with paused := 5 } : Port).put (.data 0 2 9 7 0)).queue.length, (upPort.put (.data 0 2 9 7 0)).queue.length) = (1, 0) := by
  decide
theorem test_key_stage : (portAfter (.keyStage 0) (port id)).map (·.staged) = some true := by decide
theorem test_key_exhausted : (portAfter (.keyExhausted 0) (port id)).map (·.state) = some 4 := by decide
theorem test_key_timeout : (portAfter (.keyTimeout 0) (port fun p => { p with state := 4 })).map (·.state) = some 0 := by decide
theorem test_flit_receive : (({ upPort with rx0 := some 8 } : Port).take 0 0 (flit 224)).rx0 = some 9 ∧
    ((upPort.take 0 0 { flit 224 with tagOk := false }).asked, (({ upPort with rx0 := some 9 } : Port).take 0 0 (flit 224)).got) = ([9], none) := by decide
theorem wit_links : (port id).fabric.ports[0]? = some upPort ∧ upPort.state = 2 ∧ upPort.staged = false ∧ upPort.erased = 0 ∧
    upPort.ctr + 1 < 2 ^ 32 ∧ ¬ (2 ^ 32 ≤ 2 ^ 32 - 2 + 1) ∧ 2 ^ 32 ≤ 2 ^ 32 - 1 + 1 ∧ RawFlit.ok (flit 224) = true ∧
    RawFlit.ok (flit 225) = false ∧ bitOf 4 1 = false ∧ (Flit.ofBytes (flit 224).bytes).type = 0 := by decide
theorem test_flit_fields : Flit.ofBytes (flit 224).bytes =
    ⟨0, 2, false, 0, 1, 224, 9, List.replicate 224 0x33, List.replicate 16 0x44, true⟩ := by decide

def request (kind : RemoteKind) : RemoteReq := ⟨9, 4, 0, 0x400, kind⟩
/-- VF 0 has a remote allowance; or none. -/
def home (rbal : Int) : State := { span with accts := [(0, { Account.reset with rbal := rbal })] }
theorem test_remote_write : ((after (.remoteRequest (request (.write [7, 8]))) (home 5)).map fun t => (t.sliceVal 0x400 4,
    t.fabric.kept.length)) = some (0x04030807, 1) := by decide
theorem test_remote_atom : ((after (.remoteRequest (request (.atom 0 .n32 1))) (home 5)).map fun t => (t.sliceVal 0x400 4,
    t.fabric.kept.map (·.answer))) = some (0x04030202, [[1, 2, 3, 4]]) := by decide
theorem test_remote_queued : ((after (.remoteRequest (request .dir)) (home 0)).map fun t => t.fabric.queued.length) = some 1 := by
  decide
theorem test_node_failed : ((after (.nodeFailed ⟨9, true⟩) (withOp span remoteOp)).map fun t => (t.fabric.failed, t.ops.map (·.what))) =
    some ([9], [.remote 9 true 1]) := by decide
theorem test_resend_counts : ((after (.transactionResend ⟨4, false⟩) { span with fabric := { span.fabric with rtx := [⟨4, 9, 0, 8, none, 0⟩] } }).map
    fun t => t.fabric.rtx.map (·.resends)) = some [1] := by decide
theorem test_merge : ((after (.writeBackMerge ⟨9, 4, 0⟩ 0x400 (some 0x77 :: none :: List.replicate 62 none) false) (home 5)).map fun t =>
    t.sliceVal 0x400 2) = some 0x0277 := by decide
theorem test_invalidation : ((after (.invalidation 16) { span with mem := { span.mem with l2 := [(0x400, ⟨1, false⟩),
    (0x401, ⟨2, true⟩)] } }).map fun t => t.mem.l2.map (·.1)) = some [0x401] := by decide
def replicated : State := { span with fabric := { span.fabric with replicas := [(3, [0, 9])] } }
/-- The same where VF 0 has a remote allowance. -/
def owning (rbal : Int) : State := { replicated with accts := (home rbal).accts }
theorem test_ownership : ((after (.ownershipRequest 3 5 ⟨9, 4, 0⟩) (owning 5)).map fun t => kget t.fabric.owners (3 * 32 + 5)) =
    some (some 9) := by decide
theorem wit_fabric : (home 5).remote 0x400 = false ∧ (request .dir).node ≠ (home 5).fabric.node ∧ reqFits (request .dir) = true ∧
    (home 5).mem.deltas = [] ∧ (0 : Int) < ((home 5).acct 0).rbal ∧ ((home 0).acct 0).rbal ≤ 0 ∧
    (home 5).remote (9 * 2 ^ 43) = true ∧ reqFits ⟨9, 4, 0, 0x43F, .read 2⟩ = false ∧ 9 ∉ span.fabric.failed ∧
    0x400 % 64 = 0 ∧ (List.replicate 64 (none : Option Byte)).length = 64 ∧ replicated.coordinates 3 = true ∧
    replicated.coordinates 4 = false := by decide

/-- A 2 MiB leaf with D and W at 0x3000 maps physical 0x600000. -/
def bigBytes : Memory := [(0x1000, 0x2001), (0x2000, 0x3001), (0x3000, 0x60004F)].foldl
  (fun m (x : Nat × Nat) => Memory.writeN m x.1 (leBytes 8 x.2)) []
def duplicate : State :=
  { State.reset with procs := [(0, { Proc.reset with root := 0x1000 })], mem := { Mem.reset with home := bigBytes } }
theorem test_collapse : ((after (.collapse 0 0 0x10000 0x610000) duplicate).map fun t => t.fabric.splits.map fun x => (x.entry,
    x.leaves[1]?, x.leaves[2]?)) = some [(0x3000, some 0x61000F, some 0x62004F)] := by decide
theorem wit_collapse : duplicate.bigLeaf 0x10000 walkLevels (duplicate.proc 0 0).root = some (0x3000, 0x60004F) ∧
    (match duplicate.leafOf 0x60004F (2 ^ 21) with
      | .ok l => l.d && l.w && l.pa == 0x600000
      | _ => false) = true ∧ duplicate.mem.tlb = [] ∧ duplicate.fabric.splits = [] ∧ nodeOf 0x610000 = 0 := by decide

/-- Window 2 of VF 0 gives 64 bytes at virtual 0x100 for reading and writing. -/
def windowed : State := { hosted [(0x30100, [5, 6])] with host := { span.host with
  keys := [(0, 3)], windows := [⟨0, 2, 0, 0x100, 64, true, true⟩] } }
theorem test_rma_read : ((after (.rmaRead 2 1 1 via) windowed).map fun t => t.host.answers) = some [[1, 6]] := by decide
theorem test_rma_write : ((after (.rmaWrite 2 1 [9] via) windowed).map fun t => (t.sliceRead 0x30101, t.host.answers)) =
    some (9, [[1]]) := by decide
theorem test_rma_refused : ((after (.rmaRead 2 60 5 via) windowed).map fun t => t.host.answers) = some [[0]] ∧
    ((after (.unsupportedOperation via) windowed).map fun t => t.host.answers) = some [[0]] := by decide
def ringState : State := { span with host := { span.host with rings := [⟨0, 0, 4, 0, 16, List.replicate 16 ⟨1, 0, 0, 0⟩, [⟨2, 0, 0, 0⟩]⟩] } }
theorem test_ring_head : ((after (.notificationHeadWrite via ⟨0, 3⟩) (keyed ringState)).map fun t => t.host.rings.map fun r => (r.head, r.tail,
    r.held.length, r.written.length)) = some [(3, 17, 0, 14)] := by decide
theorem test_register : ((after (.registerWrite ⟨some via, .root 1 2 0x4000⟩) (keyed span)).map fun t => (t.proc 1 2).root) = some 0x4000 := by decide
theorem test_firmware_bounds : ((after (.registerWrite ⟨none, .firmware 3 15 4000 64000 true 0⟩) span).map fun t => t.svc.firmware.node) =
    some 0 := by decide
theorem wit_host_side : (windowed.rmaBytes ⟨0, 2, 1, 1, true, [9]⟩).isOk = true ∧
    (windowed.rmaBytes ⟨0, 2, 60, 5, true, []⟩).isOk = false ∧
    ringState.host.rings.length = 1 ∧ windowed.mem.deltas = [] ∧ windowed.lost 0x30101 = false ∧
    windowed.poisoned 0x30101 = false := by decide

/-! ## Events: group sends -/

def key : Key := ⟨5, 1, 0⟩
def message (level : Level) (place : Nat) : Msg :=
  { id := 70, key := key, seq := false, words := [1, 2, 3, 4], node := 0, core := 0, vf := 0, proc := 0, launchId := 1, ctxs := [1]
    opId := 71, level := level, place := place, climbing := true, came := false, parked := false, held := none, order := 0, bounces := 0
    outcome := none, returned := false }
def sending (m : Msg) (ready : List Ready) (n : Nat) : State :=
  { chanState n [] with sends := { ready := ready, robin := [], unlisted := [], msgs := [m] }, ops := [⟨71, [1], some 1, .send 70 none, 0⟩] }
def msgAfter (i : Instr) (s : State) : Option (Level × Nat × Bool × Option Nat) :=
  ((after i s).bind (·.msg 70)).map fun m => (m.level, m.place, m.climbing, m.outcome)

theorem test_steer_climbs : msgAfter (.messageSteer 70 none) (sending (message .core 0) [] 0) = some (.die, 0, true, none) := by decide
theorem test_steer_descends : msgAfter (.messageSteer 70 none) (sending (message .pkg 0) [⟨.pkg, 0, 2, key, 1, true⟩] 0) =
    some (.die, 2, false, none) := by decide
theorem test_take_message : ((after (.messageTake 70) (sending { message .core 0 with climbing := false } [] 2)).bind (·.ctx 1)).map
    (fun c => c.chans.map (fun h => (h.offered, h.held.length)) |>.take 1) = some [(1, 1)] := by decide
theorem test_parked_wakes : msgAfter (.parkedWake key) (sending { message .pkg 0 with parked := true, climbing := false }
    [⟨.pkg, 0, 2, key, 1, true⟩] 0) = some (.pkg, 0, true, none) := by decide
theorem test_status_done : ((after (.sendStatusReturn 70 0) (sending { message .core 0 with outcome := some 0 } [] 0)).map fun t =>
    (t.sends.msgs.length, t.ops.length)) = some (0, 0) := by decide
theorem test_report : ((after (.readinessReport .core 0 key 3 true) (chanState 3 [])).map fun t => t.sends.ready.map fun x =>
    (x.level, x.total, x.live)) = some [(.core, 3, true), (.die, 3, true), (.pkg, 3, true)] := by decide
theorem wit_sends : (sending (message .core 0) [] 0).msg 70 = some (message .core 0) ∧
    (sending (message .core 0) [] 0).sendReady (message .core 0) = true ∧
    (sending (message .core 0) [] 0).sends.kids .core 0 key = [] ∧
    (sending (message .core 0) [⟨.core, 0, 1, key, 1, true⟩] 0).sends.kids .core 0 key = [1] ∧
    pick 0 ((sending (message .pkg 0) [⟨.pkg, 0, 2, key, 1, true⟩] 0).sends.kids .pkg 0 key) = some 2 ∧
    pick 0 ((sending (message .die 0) [⟨.die, 0, 2, key, 1, true⟩] 0).sends.kids .die 0 key) = some 2 ∧
    (sending (message .pkg 0) [] 0).anyLive key = true ∧ ({ sending (message .pkg 0) [] 0 with ctxs := [] } : State).anyLive key = false ∧
    (sending (message .pkg 0) [] 0).parkedHere < 4096 ∧ (sending (message .pkg 0) [] 0).fabric.tier = false ∧
    (sending (message .core 0) [] 0).ctx 9 = none := by decide
theorem wit_takes : ((sending { message .core 0 with climbing := false } [] 2).ctxs.all fun c =>
      (sending { message .core 0 with climbing := false } [] 2).takes { message .core 0 with climbing := false } c &&
      (sending { message .core 0 with climbing := false } [] 2).coreNumber c == 0 && c.kind != .control) = true ∧
    (∃ x ∈ [(⟨.core, 0, 4, key, 1, true⟩ : Ready)], x.level = .core ∧ x.place = 0 ∧ x.key = key ∧ x.child ≠ 1) ∧
    (sending { message .pkg 0 with parked := true } [⟨.pkg, 0, 2, key, 1, true⟩] 0).sends.total .pkg 0 key = 1 ∧
    (sending { message .pkg 0 with parked := true } [] 0).sends.total .pkg 0 key = 0 := by decide

/-! ## The step, the encoding and reset -/

/-- A NOP at the PC of a placed context. -/
def placed : State := State.reset.withFetchWord 96 0x70000
theorem wit_step : placed.ctx 1 = some (placeCtx 1 false) ∧ (placeCtx 1 false).nextIssue = some (0, []) ∧
    placed.canIssue (placeCtx 1 false) = true ∧ placed.fetchInstr (placeCtx 1 false) 0 = .instr (.nop (w .b32 unused unused unused)) ∧
    placed.tape = [] ∧ placed.cur = 1 ∧ placed.svc.frozen = false ∧ placed.fetchWord (placeCtx 1 false) 0 = .ok 0x70000 ∧
    hasLit 0x70000 = false := by decide
theorem test_step_nop : (match step placed with
    | .next t => (t.ctx 1).map (·.pc)
    | _ => none) = some 12 := by decide
theorem test_fetch_miss : (placed.fetchInstr (placeCtx 1 false) 0x40000 matches .miss _ _) = true := by decide

/-- Words written out field by field from the encoding tables (02, 16). -/
theorem test_decode_add_literal : decodeTableWord 192 (0x4000100018E00200500A1020 + 0x186A0 * 2 ^ 96) =
    some (.iadd ⟨0, .s32, ⟨true, 2⟩, 0, .v 5, .v 2, .lit 100000, 0, ⟨0, false, 1, false, false, 0, 0, false⟩⟩) := by decide
theorem test_decode_shift : decodeTableWord 96 0x0031040040074036 =
    some (.shr ⟨0, .b64, always, 0, .v 4, .s 4, .v 3, 0, noHints⟩) := by decide
theorem test_decode_load : decodeTableWord 96 0x8031010070D7F080 =
    some (.ld ⟨0, .b8, always, 0x0D, .v 7, .s 1, .imm 3, 0, noHints⟩) := by decide
theorem test_decode_atom : decodeTableWord 96 0x09400011020041272090 =
    some (.atom ⟨0, .n32, always, 0x12, .v 4, .s 2, .v 1, 0x40, { noHints with se := true, setk := 1 }⟩) := by decide
theorem test_decode_mmas : decodeTableWord 96 0x080010610416000700B1 =
    some (.mmas ⟨0, .b32, always, 0, .a 0, .s 4, .s 6, 0, { noHints with se := true }⟩) := by decide
theorem test_decode_arrive : decodeTableWord 96 0x8011000000B700A5 =
    some (.arv ⟨0, .b32, always, 0x0B, .v 0, .s 0, .imm 1, 0, noHints⟩) := by decide
theorem test_decode_refill : decodeTableWord 96 0xFFFFF50000070012 = some (.refill ⟨always, .v 0, 0xFFFFF5, noHints⟩) := by decide
theorem test_decode_rjoin : decodeTableWord 96 0x001540070014 = some (.rjoin ⟨0, .b32, always, 0, .b 0, .v 0, .v 0, 0, noHints⟩) := by
  decide
theorem test_decode_illegal : decodeTableWord 96 0x7000B = none := by decide

/-- A well-formed word, and one word that each check refuses: variant, type, modifiers, D, A, B, X, SE, and STS with its
status in the scalar that D is (R37, R42). -/
def good : Fields := w .s32 (.v 5) (.v 2) (.imm 3)
theorem test_wf_accepts : (Instr.iadd good).wf = true ∧ (Instr.sts sts).wf = true ∧ (Instr.bra (wo unused 7)).wf = true := by decide
theorem test_wf_variant : (Instr.iadd { good with var := 1 }).wf = false := by decide
theorem test_wf_type : (Instr.iadd { good with ty := .f32 }).wf = false := by decide
theorem test_wf_modifier : (Instr.iadd { good with mod := 1 }).wf = false := by decide
theorem test_wf_d : (Instr.iadd { good with d := .imm 3 }).wf = false := by decide
theorem test_wf_a : (Instr.iadd { good with a := .p 0 }).wf = false := by decide
theorem test_wf_b : (Instr.iadd { good with b := .q 0 }).wf = false := by decide
theorem test_wf_x : (Instr.iadd { good with x := 1 }).wf = false := by decide
theorem test_wf_se : (Instr.iadd { good with h := { noHints with se := true } }).wf = false := by decide
theorem test_wf_rel : (Instr.sts { sts with x := 0x88 }).wf = false := by decide
theorem test_wf_offset : (Instr.bra (wo (.s 1) 7)).wf = false ∧
    (Instr.bra { wo unused 7 with h := { noHints with se := true } }).wf = false := by decide

theorem wit_encode : (Instr.iadd good).isWord = true ∧ (Instr.iadd good).wf = true ∧
    (match decode (encode (.iadd good) ++ [1, 2]) with
      | .ok (i, rest) => i == .iadd good && rest == [1, 2]
      | _ => false) = true := by decide
theorem wit_keeps_memory : Memory.wf State.reset.mem.home ∧ (match step State.reset with
    | .next t => t.mem.home.isEmpty
    | _ => false) = true := ⟨by decide, by decide⟩

/-! ## Clauses of the instructions at their other hypotheses -/

/-- The context takes its word up again after a release at fabric scope. -/
def waited (s : State) : State := s.modCtx 1 fun c => { c with wait := .acks [] }
/-- A release at fabric scope. -/
def fabric (ty : Ty) (d : Opnd) : Fields := mem ty d 0x23

theorem wit_acked : (∀ p ∈ [((0x90 : Nat), fabric .n32 (.v 5)), (0x91, fabric .n32 (.v 5)), (0x92, fabric .n32 (.v 5))],
      issues p.1 p.2 (waited memory) (fun i => i.acked && readyAt i p.2 4 2 wantRmw at8 && isRel p.2.order && p.2.scope == 4) =
        true) ∧
    issues 0xC0 { barg with mod := 0x24 } (waited strand) (fun i => i.acked) = true ∧
    issues 0xD2 sts (waited stamped) (fun i => i.acked && atStamped i ⟨false, true, false, true⟩) = true ∧
    issues 0xD2 sts stamped (fun i => !i.acked && (((i.s.tlbFill i.clu false i.l.vf i.l.proc (i.uni 0 sts.a)).release i.clu
      i.c.id 4).unacked i.c.id).isEmpty) = true := by decide

/-- Someone waits for another lock word. -/
def others (s : State) : State :=
  { s with mem := { s.mem with lockq := [⟨40, 0x600, true, 7, 1, 0, 0, none⟩] } }
/-- What `LocksComplete` asks of an issue on the word at 0x400, and the word. -/
def atLock (i : Iss) (f : Fields) (q : LockWord → Bool) : Bool :=
  i.s.mem.deltas.isEmpty && f.scope < 4 && (match i.s.locate i.c 0 (i.uniAddr f 4) 4 true wantRmw with
      | .ok (.g p _) => p == 0x400
      | _ => false) &&
    decide (i.s.mem.l2.length + i.s.mem.l1.length + 128 < 2 ^ 26) && reachesAt i 4 2 wantRmw 0x400 &&
    i.s.mem.lockq.all (·.pa != 0x400) && q (LockWord.ofNat (i.s.seenVal i.clu 0x400 4))

theorem wit_locks_complete : (∀ p ∈ [((0x93 : Nat), false), (0x94, true)],
      issues p.1 (lockWord 0x12 unused) (others (lockState 0)) (fun i => atLock i (lockWord 0x12 unused) (·.free p.2)) = true) ∧
    (∀ p ∈ [((0x95 : Nat), false), (0x96, true)],
      issues p.1 (lockWord 0x13 (.s 5)) (others (lockState ((LockWord.ofNat 0).hold p.2).toNat))
        (fun i => atLock i (lockWord 0x13 (.s 5)) fun w => (w.drop p.2).isSome) = true ∧
      issues p.1 (lockWord 0x13 (.s 5)) (others (lockState 0))
        (fun i => atLock i (lockWord 0x13 (.s 5)) fun w => (w.drop p.2).isNone) = true) := by decide
/-- The clauses of LockGrants on words that are held. -/
theorem wit_locks_held : issues 0x93 (lockWord 0x12 unused) (lockState ((LockWord.ofNat 0).hold true).toNat)
      (fun i => reachable i (lockWord 0x12 unused) 0x400 && atLock i (lockWord 0x12 unused) (!·.readOk)) = true ∧
    issues 0x94 (lockWord 0x12 unused) (lockState ((LockWord.ofNat 0).hold false).toNat)
      (fun i => reachable i (lockWord 0x12 unused) 0x400 && atLock i (lockWord 0x12 unused) fun w => w.readers != 0) = true := by
  decide
theorem test_lkwr_grants : ((after (.lkwr (lockWord 0x12 unused)) (others (lockState 0))).map fun t =>
    ((LockWord.ofNat (t.sliceVal 0x400 4)).holds, t.mem.lockq.length)) = some (true, 1) := by decide
theorem test_ulrd_drops : ((after (.ulrd (lockWord 0x13 (.s 5))) (others (lockState ((LockWord.ofNat 0).hold false).toNat))).map
    fun t => (LockWord.ofNat (t.sliceVal 0x400 4)).readers) = some 0 := by decide

/-- R30, R193: a control program has 2,048 bytes of private block beside its control scratch. -/
theorem wit_private_control : control.locate controlCtx 1 0x1007FC 4 true wantRead = .ok (.priv 0x7FC) ∧
    control.locate controlCtx 1 0x100800 4 true wantRead = .error (.kind 7) ∧ launch.privOf controlCtx = 2048 := by decide

/-- A join counter of which the private resource has no entry left, and one of the core's own. -/
theorem wit_join_room : issues 0x13 (w .b32 (.b 2) unused unused) span (fun i =>
      !i.linkedLive 2 && i.s.joinRoom i.c i.l.vf == some 0) = true := by decide

/-- The table of the core is full, the region of its die too, and the pool of VF 0 holds more than it has bytes (R239). -/
def fullTables : State :=
  { span with
    ranges := [{ placeRange 1 with
      joins := List.replicate 256 ⟨9, 0, 1, 0, 1, 0⟩ ++ List.replicate Config.waitEntries ⟨9, 0, 1, 0, 1, 1⟩ }]
    launches := [{ launch with cmd := { launch.cmd with repro := true, guarded := true, guardlen := 1 } }] }
theorem wit_no_room : fullTables.joinRoom spanCtx 0 = none := by
  have full : fullTables.regionUsed 0 = Config.waitEntries := by
    simp only [State.regionUsed, fullTables, placeRange, span, stateOf]
    simp [Mem.reset]
  have table : (List.filter (fun j : Join => j.room == 0 && fullTables.physCore 1 j.core == fullTables.physCore 1 0)
      (List.replicate 256 ⟨9, 0, 1, 0, 1, 0⟩)).length = 256 := by decide
  have pool : ¬ fullTables.poolRoom 0 Config.waitBytes = true := by
    have tags : 4096 ≤ fullTables.poolUsed 0 := by
      have h : ((fullTables.launches.filter fun l => l.vf == 0).map fun l =>
        if l.cmd.repro && l.cmd.guarded then 4096 * l.cmd.guardlen else 0).sum = 4096 := rfl
      simp only [State.poolUsed, h]
      omega
    have none : (fullTables.acct 0).savelen = 0 := rfl
    simp only [State.poolRoom, none, decide_eq_true_eq]
    omega
  have here : ((fullTables.range 1).map (·.joins)).getD [] =
      List.replicate 256 ⟨9, 0, 1, 0, 1, 0⟩ ++ List.replicate Config.waitEntries ⟨9, 0, 1, 0, 1, 1⟩ := rfl
  have clu : fullTables.cluOf spanCtx / 16 = 0 := rfl
  have core : spanCtx.range = 1 ∧ spanCtx.core = 0 := by decide
  simp only [State.joinRoom, State.entryRoom, clu, full, core, here, List.filter_append, List.length_append, table]
  rw [if_neg (by simp), if_neg (by simp), if_neg pool]

/-- R177: a sequentially consistent fence, and one at fabric scope with nothing to wait for. -/
theorem wit_fences : issues 0x84 (wx 0 .b32 0x1D (.s 5) unused unused 0) span (fun _ =>
      (wx 0 .b32 0x1D (.s 5) unused unused 0).order == 5) = true ∧
    issues 0x84 (wx 0 .b32 0x24 (.s 5) unused unused 0) span (fun i =>
      ((i.s.release i.clu i.c.id 4).waitSet i.c.id).1.isEmpty) = true := by decide

/-- An MSTO that has stored, before anyone has waited for it. -/
def lateEntry : MqEntry := ⟨0xB4, 0, 0, 0, 0, 0, 0, none, 50, none, 0, true, true, none, [], false, none, []⟩
/-- R208: an await of a control program, with an MSTO that arrives at its object. -/
theorem wit_await_control : issues 0xA6 awaitW (control.modRange 1 fun r => { r with
      late := [{ lateEntry with arrive := some (.g 0x400 false) }] }) (fun i =>
        (match i.s.arrivalLoc i.c (i.uni 0 awaitW.a) wantRead with
          | .ok loc => (i.s.readWait i.clu 2 i.l.id (loc.pas 16)).isNone
          | _ => false) && i.c.kind == .control) = true := by decide

/-- Operands of unlike kinds: nx4 and e4m3. -/
theorem wit_matrix_pair : issues 0xB0 mma (withScal tiles 43 0x4100A0) (fun i =>
    (match readDesc (i.pair 0 (.s 40)).1 (i.pair 0 (.s 40)).2 false, readDesc (i.pair 1 (.s 42)).1 (i.pair 1 (.s 42)).2 false with
      | some a, some b => a.kt != b.kt || a.fmt.cls != b.fmt.cls
      | _, _ => false) && (i.s.range 1).any (·.mq.isEmpty)) = true := by decide

/-- A multicast without targets, and a send of the scratch area that no open matrix store covers. -/
theorem wit_no_targets : issues 0xA3 { mcst with x := 0 } mcstState (fun i => !i.acked && (i.pair 3 mcst.d).2 == 0) = true ∧
    issues 0xC2 sendg strand (fun i => (List.range 16).all fun k => !i.s.openAt i.r.id (.scratch 0 k)) = true := by decide

/-! ## Clauses of the events at their other hypotheses -/

theorem wit_space : (crowded.ctx 1).isSome = true ∧ (crowded.coreCtxs 0).map (·.id) = [1, 2] ∧
    ((crowded.ctx 1).bind fun c => crowded.ctx 2 |>.map fun d => decide (c.seniority < d.seniority)) = some true ∧
    crowded.roomFor { nth spanCtx 2 with wait := .space 4000 } launch = true ∧ outside.mayRun spanCtx = true ∧
    spanCtx.blocks launch ≤ outside.freeFor spanCtx launch ∧
    launch.window true / 256 ≤ remainder.freeFor spanCtx launch + spanCtx.reserve * (launch.window true / 256) ∧
    remainder.mayRun spanCtx = true ∧ (remainder.range 1).any (·.cluster == some 0) = true := by decide
theorem wit_unsent : (withOp span remoteOp).txUnsent 8 = false ∧ (withOp span remoteOp).svc.cxlReqs = [] := by decide

/-- The engine with a completed MMA, and with an MZERO. -/
theorem wit_matrix_complete : (∀ op ∈ [0xB0, 0xB2], (((running op true).modRange 1 fun r => { r with
      mq := r.mq.map fun e => { e with done := op == 0xB0 } }).engineAt 0).isSome = true) ∧
    ((running 0xB0 true).ctx 1).isSome = true := by decide
theorem test_mzero_completes : ((after (.matrixInstructionComplete 0) ((running 0xB2 true).modRange 1 fun r => { r with
    prog := r.prog.set 3 5 })).bind (·.range 1)).map (fun r => (r.mq.length, r.prog[3]?)) = some (0, some 0) := by decide

theorem wit_copy_steps : (moving xfer).engines 0 = [0, 1, 2, 3] ∧ (moving xfer).readWait 0 2 1 (xfer.pas 0 64).1 = none ∧
    ((xfer.pas 0 64).2.all fun p => !(moving xfer).underTest p) = true ∧ xfer.acks = none ∧ xfer.scope ≠ 4 ∧
    (moving { xfer with acks := some [8], scope := 4, done := 64 }).acksOpen [8] = false ∧
    (withOp (moving xfer) remoteOp).acksOpen [8] = true ∧
    ((walking 0x440 copyRecord).range 1).any (fun r => r.chans[0]? == some ⟨.walking, 0x440, 50⟩) = true ∧
    (walking 0x440 copyRecord).xfers = [] ∧ (walking 0x440 copyRecord).mem.deltas = [] := by decide
/-- The record of the chain translates, and so do its ends. -/
theorem wit_chain_record : (match (walking 0x440 copyRecord).translateRange 0 false launch wantRmw 0x440 64 with
      | .ok ps => (pieceAt ps 0).1 == 0x440 && ((walking 0x440 copyRecord).readWait 0 2 1 ((List.range 64).map (0x440 + ·))).isNone
      | _ => false) = true ∧
    (match (walking 0x440 copyRecord).translateRange 0 false launch wantRead 0x400 16,
        (walking 0x440 copyRecord).translateRange 0 false launch wantWrite 0x800 16 with
      | .ok _, .ok _ => true
      | _, _ => false) = true ∧ (walking 0x440 copyRecord).sliceVal 0x468 1 = 3 ∧ (walking 0x440 []).sliceVal 0x468 1 = 0 := by decide

/-- A dirty CXL line in the L2 whose page has C, where the die has a cache portion, and one in the portion. -/
def cachedLine : State :=
  { dirtyLine with
    svc := { dirtyLine.svc with cacheUnits := 2 }
    mem := { dirtyLine.mem with cline := [(0x80000000010, true)], cp := [(0x2000000000400, ⟨8, true⟩)] } }
theorem test_portion : ((after (.l2Eviction 0x80000000010 false) cachedLine).map fun t => (t.mem.l2.length, kget t.mem.cp 0x2000000000400)) =
      some (0, some ⟨7, true⟩) ∧
    ((after (.l2Eviction 0x80000000010 true) cachedLine).map fun t => (t.mem.l2.length, t.mem.cp.length, t.homeRead 0x2000000000400)) =
      some (1, 0, 8) := by decide
theorem wit_l2 : kget cachedLine.mem.cline 0x80000000010 = some true ∧ cachedLine.svc.cacheUnits ≠ 0 ∧
    kget dirtyLine.mem.cline 0x80000000010 = none ∧ Sys2Proof.Machine.dirtyLine dirtyLine.mem.l2 0x80000000010 = true ∧
    kget dirtyLine.mem.l2 0x2000000000400 = some ⟨7, true⟩ ∧ dirtyLine.lost 0x2000000000400 = false := by decide

theorem wit_dead : ({ span with svc := { span.svc with dead := true }, tape := [.event .meridianTick] } : State).happens .meridianTick =
    false ∧ span.happens .meridianTick = true := by decide
theorem test_recovery_begins : ((after (.recoveryImage ⟨true, false⟩ 9) { span with svc := { span.svc with recovery := true } }).map
    fun t => (t.svc.recovery, t.svc.flashOk)) = some (true, false) := by decide

/-- The balance of the VF is below its command's estimate, or not. -/
theorem wit_spend : (placing.launch 1).any (fun l => placing.spendOk l 64 && l.failedIn.isNone && l.status.isNone && !l.drain) = true ∧
    ({ placing with launches := placing.launches.map fun l => { l with cmd := { l.cmd with estimate := 500 } } } : State).launches.any
      (fun l => !placing.spendOk l 64) = true ∧ placing.svc.dead = false ∧ placing.svc.recovery = false := by decide
theorem wit_periods : ((span.acct 5).slice, (span.acct 5).period) = (0, 0) ∧ ((placing.acct 0).slice, (placing.acct 0).clumax) = (100, 4) :=
  by decide
theorem test_period_starts : ((after (.periodStart 0) (placing.setAcct 0 { placing.acct 0 with sliceOver := true })).map fun t =>
    (t.acct 0).sliceOver) = some false := by decide

/-- KILL of a launch that is taken and has not begun (R291). -/
theorem wit_taking : ({ hostCommand 0x10 9 0 0 false with disp := { span.disp with cmds := [{ command 1 id with id := 21 }] } } : State).taking
    (command 0x10 id) 9 = some { command 1 id with id := 21 } ∧ (hostCommand 0x10 1 0 0 false).taking (command 0x10 id) 8 = none := by decide
theorem wit_vfacct : (span.acct 2).setField 0x99 1 = none ∧ ((span.acct 2).setField 0x10 500).isSome = true ∧
    ((span.acct 2).setField 0x00 500).any (fun a => !span.acctOk 2 a) = true ∧
    ((span.acct 2).setField 0x10 500).any (fun a => span.acctOk 2 a) = true := by decide

theorem wit_charges : charged.energy.charges.all (fun c => !c.remote && c.amount / 65536 == 5) = true ∧
    (7 : Nat) / 65536 = 0 ∧ (home 5).fabric.queued = [] := by decide
theorem test_flit_failed : ((after (.timingFlit 0 960 990) { linkedPort with mer := frozen.mer }).map fun t =>
    (t.mer.lo, t.mer.syncs)) = some (1000, 1) := by decide

/-- A port whose queue holds a transaction that has not left. -/
def unsentState (s : State) (tag : Nat) : State :=
  { s with fabric := { s.fabric with ports := [{ upPort with queue := [.data 0 2 9 tag 0] }] } }
theorem wit_remote_stamps : (unsentState (withOp span (stsOp .sent)) 12).txUnsent 12 = true ∧
    (withOp span (stsOp .sent)).txUnsent 12 = false ∧ late.remote 0x10000 = false ∧
    late.cxlMiss noCluster 2 0x10000 = none ∧ (late.cxlMiss noCluster 2 0x40000000400).isSome = true ∧
    (∀ k < 4, late.poisoned (0x10000 + k) = false) := by decide

theorem test_key_ordered : (portAfter (.timingFlitSend 0) (port fun p => { p with staged := true, ordered := true, ctr := 5 })).map
    (fun p => (p.keyidx, p.ctr, p.ordered)) = some (true, 1, false) := by decide
theorem test_falls : (portAfter (.portDown 0) (port fun p => { p with queue := [.data 0 2 9 7 0] })).map (fun p => (p.state, p.queue.length)) =
    some (0, 0) := by decide
theorem test_key_leaves : (portAfter (.keyStage 0) (port fun p => { p with state := 4, keyidx := false, queue := [.data 0 2 9 7 0] })).map
    (fun p => (p.state, p.keyidx, p.queue.length, p.ctr)) = some (2, true, 0, 1) := by decide
theorem wit_link_clauses : (sentBefore upPort).sent.reverse.find? (fun x => x.ctr == 35) = some ⟨false, 35, .data 0 0 9 7 0, []⟩ ∧
    upPort.holds (.data 0 0 9 7 0) = false ∧ ({ upPort with paused := 1 } : Port).holds (.data 0 0 9 7 0) = true ∧ 9 ≠ span.fabric.node := by
  decide

/-! ## Clauses of the fabric -/

/-- Node 7 is in the entry of the line at 0x400. -/
def shared : State := { home 5 with mem := { (home 5).mem with dir := [(16, ⟨[7], 0⟩)] } }
def serves (s : State) (q : RemoteReq) : Bool :=
  !s.remote q.pa && q.node != s.fabric.node && reqFits q && s.fabric.kept.all (·.req != q) &&
    !s.holding q && decide (0 < (s.acct q.vf).rbal) && (s.notYet q).isNone && s.mem.deltas.isEmpty
def inMsg : InMsg := ⟨key, false, [1, 2, 3, 4], 9, 0, 0, 0, 0⟩
def kinds : List RemoteKind :=
  [.read 4, .dir, .write [7], .atom 0 .n32 1, .cas .n32 0x04030201 5, .cas .n32 0 5, .sts record0,
    .writeBack (List.replicate 64 none) false, .ldat 900 4, .lock true, .unlock true, .send inMsg]
theorem wit_serves : (∀ k ∈ kinds, serves (home 5) (request k) = true ∧ serves shared (request k) = true) ∧
    (kget shared.mem.dir 16).any (·.others 9) = true ∧ (kget (home 5).mem.dir 16).isNone = true ∧
    (LockWord.ofNat 0).free true = true ∧ (LockWord.ofNat ((LockWord.ofNat 0).hold true).toNat).free true = false ∧
    (home 5).mer.dielo ≤ 900 + (home 5).mer.mwin ∧ 900 + late.mer.mwin < late.mer.dielo := by decide
theorem test_told : ((after (.remoteRequest (request (.write [7]))) shared).map fun t => (t.fabric.replies.length, t.ops.length)) =
    some (0, 1) := by decide
/-- R319: an LDAT of another node that is too early is parked at its home. -/
theorem test_ldat_parks : ((after (.remoteRequest (request (.ldat 900 4))) (home 5)).map fun t => (t.fabric.replies, t.ops.map (·.what))) =
    some ([], [.serveAt (request (.ldat 900 4))]) := by decide

/-- The home has answered the request, or holds it. -/
def answeredBefore : State := { home 5 with fabric := { (home 5).fabric with kept := [⟨request .dir, [3], 0⟩] } }
theorem test_kept : ((after (.remoteRequest (request .dir)) answeredBefore).map fun t => t.fabric.replies) = some [⟨9, 4, false, [3]⟩] := by
  decide
theorem wit_kept : (∀ y ∈ answeredBefore.fabric.kept, y.req = request .dir ∧ answeredBefore.mer.ticks ≤ y.tick + 1000000) ∧
    ({ home 5 with fabric := { (home 5).fabric with queued := [request .dir] } } : State).holding (request .dir) = true ∧
    (({ home 5 with svc := { (home 5).svc with errors := [.bank 0 0] } } : State).notYet (request (.read 4))).isSome = true := by decide

def resent : State := { linkedPort with fabric := { linkedPort.fabric with rtx := [⟨4, 9, 0, 8, none, 0⟩], routes := [(9, [0])] } }
theorem test_hold : ((after (.transactionResend ⟨4, true⟩) { resent with mer := { resent.mer with ticks := 77 } }).map fun t =>
    t.fabric.rtx.map (·.since)) = some [77] := by decide
theorem wit_node_failed : resent.routesTo 9 = [0] ∧ resent.mayFail 9 false = false ∧ span.mayFail 9 false = true ∧
    ({ resent with mer := { resent.mer with ticks := 200000 } } : State).mayFail 9 false = true ∧ resent.mayFail 9 true = true := by decide
theorem test_fence_fails : ((after (.nodeFailed ⟨9, true⟩) (withOp (withOp span remoteOp) fenceOp)).bind (·.op 12)).map (·.what) =
    some (.fence [8] true false none) := by decide
theorem wit_via : windowed.viaOk via = true ∧ windowed.viaOk { via with delivery := .unreliable } = false ∧
    windowed.viaOk { via with key := some 4 } = false := by decide
theorem test_linkstat : ((after (.registerWrite ⟨some via, .linkstat 0⟩) (keyed (port fun p => { p with erased := 4, ctr := 9 }))).map fun t =>
    t.host.answers) = some [[1, 0x42, 0, 9, 0, 0, 0, 0, 0]] := by decide
theorem test_meridian_register : ((after (.registerWrite ⟨some via, .meridian 3⟩) (keyed span)).map fun t => t.host.answers) =
    some [[1, 0, 0xFA, 0, 0, 0, 0, 0, 0]] := by decide

/-! ## Clauses of the group sends -/

theorem wit_slots_report : (chanState 3 []).slotTotal 0 0 key = (3, true) ∧ ((chanState 3 []).inSeat 0 0).isSome = true ∧
    (message .core 0).moves = true ∧ ({ message .pkg 0 with parked := true } : Msg).moves = false ∧
    ({ message .pkg 0 with held := some .pkg, outcome := some 1 } : Msg).moves = true := by decide
/-- 4,096 messages hold a place at the package switch (R337). -/
def packed : State :=
  let s := sending (message .pkg 0) [] 0
  { s with sends := { s.sends with
    msgs := s.sends.msgs ++ List.replicate 4096 { message .pkg 0 with id := 72, parked := true, held := some .pkg } } }
theorem wit_packed : packed.parkedHere = 4096 ∧ packed.msg 70 = some (message .pkg 0) ∧ packed.anyLive key = true ∧
    packed.sends.kids .pkg 0 key = [] := by decide
def tiered (rbal : Int) : State := { home rbal with fabric := { (home rbal).fabric with tier := true } }
theorem test_tier_message : ((after (.messageSteer 80 (some inMsg)) (tiered 5)).map fun t => t.sends.msgs.map fun m => (m.level, m.node)) =
      some [(.pkg, 9)] ∧
    ((after (.messageSteer 80 (some inMsg)) (tiered 0)).map fun t => t.fabric.queued.length) = some 1 := by decide
theorem wit_take_seat : (sending { message .core 0 with climbing := false } [] 2).ctxs.map (·.seat) = [some 0] ∧
    pick ((sending { message .core 0 with climbing := false } [] 2).sends.next .core 0 key) [0] = some 0 := by decide
/-- A message at a tier of switches, and a parked one whose status has come. -/
theorem test_fabric_status : ((after (.sendStatusReturn 70 1) (sending (message .fabric 0) [] 0)).bind (·.msg 70)).map (fun m =>
      (m.parked, m.level, m.outcome)) = some (true, .fabric, some 1) ∧
    ((after (.sendStatusReturn 70 0) (sending (message .fabric 0) [] 0)).map fun t => (t.sends.msgs.length, t.ops.length)) = some (0, 0) := by
  decide
theorem wit_fabric_status : (sending (message .fabric 0) [] 0).unsent 70 = false ∧
    (unsentState (sending (message .fabric 0) [] 0) 70).unsent 70 = true := by decide
theorem test_parked_status : ((after (.sendStatusReturn 70 1) (sending
    { message .pkg 0 with parked := true, held := some .pkg, outcome := some 1 } [] 0)).bind (·.msg 70)).map (fun m => (m.outcome, m.returned, m.held)) = some (none, true, some .pkg) := by decide

/-! ## Clauses of spans, strands and barriers at their other hypotheses -/

theorem wit_rte_kill : ∀ k ∈ [(0 : BitVec 11), 1, 2, 3], issues 0x0A (w .b32 unused (.imm 1) (.imm k)) (handler span)
    (fun i => i.c.trap == .slot && i.c.save.isSome && isSpan i.c && (i.uni 1 (.imm k)).toNat == k.toNat) = true := by decide
/-- R156: bit 0 of KILL ends the lowest item of a span, bit 1 all of them. -/
theorem test_rte_kill : (ctxAfter (.rte (w .b32 unused (.imm 0) (.imm 1))) (handler span)).map (·.kind) = some (.span 1 64) ∧
    (after (.rte (w .b32 unused (.imm 0) (.imm 2))) (handler span)).map (·.ctxs) = some [] := by decide

theorem wit_form : issues 0x17 (wx 0 .b32 1 (.v 5) unused unused 0) strand (fun i => i.c.kind == .strand) = true ∧
    issues 0x17 (wx 0 .b32 0 (.p 3) unused unused 0) strand (fun i => i.c.kind == .strand) = true := by decide
theorem wit_cut_twice : spanCtx.kind = .span 0 64 ∧ (0 < 1 ∧ 1 < 63 ∧ 63 < 64) ∧ span.ctx spanCtx.id = some spanCtx ∧
    span.nextId ∉ span.ctxs.map (·.id) ∧ span.nextId + 1 ∉ span.ctxs.map (·.id) := by decide

/-- The span [0, 32) of a core and its neighbour [32, 64), which waits at the same JOIN or stands elsewhere. -/
def neighbours (there : Bool) : State :=
  { span with ctxs := [{ spanCtx with kind := .span 0 32 },
    { spanCtx with id := 2, kind := .span 32 64, pc := if there then 0 else 24, wait := if there then .join 9 else .none }] }
def join : Fields := w .b32 unused unused unused
/-- R131: two spans at one JOIN become one. -/
theorem test_join_merges : (after (.join join) (neighbours true)).map (fun t => t.ctxs.map fun c => (c.id, c.kind, c.pc)) =
    some [(1, .span 0 64, 12)] := by decide
theorem wit_join : issues 0x11 join (neighbours true) (fun i =>
      let c : Ctx := { i.c with wait := .join (((kget i.s.cycles (i.s.coreNumber i.c)).getD 0) + 512) }
      i.s.ctxs.map (·.id) == [1, 2] && c.pc == i.pc && (i.s.ctx 2).any fun d => atJoin i.pc d &&
        (mergeSpans (i.s.setCtx c) c d).any fun m => m.kind == .span 0 64 && m.rep.isNone) = true ∧
    issues 0x11 join (neighbours false) (fun i => (i.s.ctx 2).any fun d => adjacent i.c d && !atJoin i.pc d) = true ∧
    issues 0x11 join span (fun i => i.s.ctxs.map (·.id) == [i.c.id] && i.c.rep.isNone) = true := by decide

theorem wit_grows : issues 0x16 (w .b32 (.s 5) unused (.imm 2)) span (fun i =>
      2 * (i.l.window true / 256) ≤ i.s.freeFor i.c i.l + i.c.reserve * (i.l.window true / 256)) = true ∧
    issues 0x16 (w .b32 (.s 5) unused (.imm 154)) { span with ctxs := [spanCtx, { strandCtx with id := 2 }] } (fun i =>
      !decide (917504 < 154 * i.l.window true + i.l.window false + round256 i.l.s) &&
      decide (i.s.freeFor i.c i.l + i.c.reserve * (i.l.window true / 256) < 154 * (i.l.window true / 256))) = true := by decide

/-- The strand with a mask in b2: lanes 0 to 7; its lanes from 4 on wait there already, or none does. -/
def masked (half : Bool) : State :=
  strand.modCtx 1 fun c => { c with
    bars := c.bars.set 2 (.mask 255)
    lanes := c.lanes.map fun x => if half && x.item.any (4 ≤ ·) then { x with waiting := some 2 } else x }
def rjoin (b : BitVec 2) : Fields := w .b32 (.b b) unused unused
/-- R129: the last lanes to arrive release the barrier. -/
theorem test_rjoin_releases : (ctxAfter (.rjoin (rjoin 2)) (masked true)).map (fun c => (c.bars[2]?, c.lanes.map (·.waiting),
    (c.lanes[0]?).map (·.pc))) = some (some .clear, List.replicate 8 none, some 12) := by decide
theorem wit_rjoin_strand : issues 0x14 (rjoin 2) (masked true) (fun i => i.c.kind == .strand && i.c.bars[2]? == some (.mask 255) &&
      i.c.rep.isNone && i.c.bars.length == 4 && i.lanes == [0, 1, 2, 3] && i.c.live == List.range 8 && (i.s.ctx i.c.id).isSome) =
        true ∧
    issues 0x14 (rjoin 1) (strand.modCtx 1 fun c => { c with bars := c.bars.set 1 (.linked 9 15) })
      (fun i => i.c.kind == .strand && i.c.bars[1]? == some (.linked 9 15)) = true ∧
    issues 0x13 (w .b32 (.b 2) unused unused) fullTables (fun i => !i.linkedLive 2 && isSpan i.c && i.l.vf == 0) = true := by decide

/-- A strand with items 0 and 1 in its lanes and a feeder that waits at word 2, with return entries in both. -/
def feeding (n m : Nat) : State :=
  { strand with ctxs :=
    [{ strandCtx with
        rets := List.replicate n ⟨24, 255⟩
        lanes := strandCtx.lanes.map fun x => if x.item.any (2 ≤ ·) then { x with item := none } else x },
      { spanCtx with id := 2, pc := 24, kind := .span 16 64, active := false, rets := List.replicate m ⟨24, 2 ^ 64 - 1⟩ }] }
theorem wit_feeders : ∀ n ∈ [0, 7], issuesOff 0x12 (wo unused 2) (feeding n 2) (fun i => i.c.kind == .strand &&
    (i.s.ctxs.filter (eligible i.c (i.target 2))).map (·.id) == [2] && i.c.rets.length == n &&
    ((List.range i.c.lanes.length).filter fun l => (i.c.lanes[l]?).any (·.item.isNone)).length == 6 &&
    (i.s.ctx 2).any fun g => spanLen g == 48 && g.landing.isEmpty && g.rets.length == 2) = true := by decide

/-! ## Clauses of the value instructions at their other hypotheses -/

/-- A span whose source A is in M form. -/
theorem wit_values_lanes : ∀ p ∈ valWords (.v 5) (.sp .lane) (.v 1) (.v 6) (.sp .lane) (.v 2),
    issues p.1 p.2 span (fun i => isSpan i.c && destScal p.2.d == none && i.form 0 p.2.ty.is64 p.2.a == .m) = true := by decide
theorem wit_affine_spans : (∀ p ∈ [((0x20 : Nat), w .s32 (.v 5) (.v 4) (.v 1)), (0x21, w .s32 (.v 5) (.v 4) (.v 1)),
      (0x22, w .s32 (.v 5) (.v 4) (.v 1)), (0x23, wx 0 .s32 0 (.v 5) (.v 4) (.v 1) 3), (0x29, w .s32 (.v 5) (.v 4) unused),
      (0x35, w .b32 (.v 5) (.v 4) (.v 1)), (0x2A, wx 0 .n32 0 (.v 5) (.v 4) (.v 1) 0)],
    issues p.1 p.2 span (fun i => isSpan i.c && i.form 0 false p.2.a == .a 100 4 && isU (i.form 1 false (.v 1)) &&
      !i.c.splitsPair 5 false) = true) ∧
    issues 0x22 (w .s32 (.v 5) (.v 4) (.v 4)) span (fun i => i.form 1 false (.v 4) == .a 100 4) = true ∧
    affInt .mul 32 (.a 100 4) (.a 100 4) (.u 0) = .m ∧ affShl 32 (.u 1) (.a 100 4) = .m ∧
    affInt .add 32 (.a 100 4) (.u 3) (.u 0) = .a 103 4 := by decide

/-! ## Clauses of comparisons, selection and the lanes -/

theorem wit_compare_spans : issues 0x40 (wx 2 .s32 0 (.p 3) (.v 4) (.imm 140) 0) span (fun i =>
      (match linear true 32 0 64 (i.form 0 false (.v 4)), linear true 32 0 64 (i.form 1 false (.imm 140)) with
        | some a, some b => cmpRun (Cmp.ofCode 2) a b 64 == some (0, 10)
        | _, _ => false) && i.form 0 false (.v 4) == .a 100 4) = true ∧
    issues 0x40 (wx 1 .s32 0 (.p 3) (.v 4) (.imm 140) 0) span (fun i =>
      (match linear true 32 0 64 (i.form 0 false (.v 4)), linear true 32 0 64 (i.form 1 false (.imm 140)) with
        | some a, some b => (cmpRun (Cmp.ofCode 1) a b 64).isNone
        | _, _ => false)) = true ∧
    issues 0x40 (wx 2 .s32 0 (.p 3) (.sp .lane) (.imm 140) 0) span (fun i =>
      (linear true 32 0 64 (i.form 0 false (.sp .lane))).isNone) = true ∧
    issues 0x41 (wx 6 .f32 0 (.p 3) (.v 4) (.v 1) 0) span (fun i => i.form 0 false (.v 4) == .a 100 4) = true := by decide
theorem wit_sel_affine : issues 0x42 (wx 0 .s32 0 (.v 5) (.v 0) (.v 4) 8) span (fun i =>
    ((i.c.spanPred 0).within 0 64 == .u true) && i.form 1 false (.v 4) == .a 100 4 && mkA 32 100 4 == .a 100 4 &&
      !i.c.splitsPair 5 false) = true := by decide
theorem wit_cross_spans : ∀ p ∈ [((0x71 : Nat), wx 0 .b32 0 (.p 3) (.p 1) unused 0), (0x72, wx 0 .s32 0 (.v 5) (.v 0) unused 0),
    (0x73, wx 8 .s32 0 (.v 5) (.v 0) unused 0)], issues p.1 p.2 span (fun i => isSpan i.c) = true := by decide

/-! ## Clauses of memory accesses at their other hypotheses -/

/-- What `Iss.readyNear` asks of a place, as a check. -/
def nearAt (i : Iss) (f : Fields) (n : Nat) (want : Want) (loc : Nat → Loc) : Bool :=
  i.c.kind == .strand && !i.l.cmd.repro && i.lanes.all fun l =>
    (match i.s.locate i.c f.space (i.strandAddr f n l) n true want with
      | .ok x => x == loc l
      | _ => false) && (match loc l with
      | .g _ _ => false
      | .scratch core off => (List.range n).all fun k => !i.s.openAt i.r.id (.scratch core (off + k))
      | _ => true)
/-- A word of 4 bytes of each lane in a space, at its v2 and v3. -/
def near (space : Nat) (d : Opnd) : Fields := wx 0 .n32 (toSpace space) d (.v 2) (.imm 0) 0
/-- The strand whose v2 is a base + 4 × lane. -/
def based (base : Nat) : State :=
  strand.modCtx 1 fun c => { c with
    lanes := c.lanes.map fun x => { x with regs := x.regs.set 2 (BitVec.ofNat 32 (base + 4 * x.item.getD 0)) } }
/-- The last words of the own scratch area, of an area of core 7, of the private block, and the register window. -/
def places : List (Nat × Nat × (Nat → Loc)) :=
  [(1, 4096 - 32, fun l => .scratch 0 (4096 - 32 + 4 * l)), (2, 0x700000, fun l => .scratch 7 (4 * l)),
    (1, 0x100000, fun l => .priv (4 * l)), (3, 480, fun l => .window (480 + 4 * l))]
theorem wit_near : ∀ p ∈ places,
    issues 0x80 (near p.1 (.v 5)) (based p.2.1) (fun i => nearAt i (near p.1 (.v 5)) 4 wantRead p.2.2) = true ∧
    issues 0x81 (near p.1 (.v 5)) (based p.2.1) (fun i => nearAt i (near p.1 (.v 5)) 4 wantWrite p.2.2 &&
      i.c.landing.isEmpty && i.c.lanes.length == i.l.w && i.c.lanes.all (·.regs.length == i.l.v)) = true := by decide
/-- R172: .w holds the registers lane by lane of each register: byte 480 is register 15, lane 0. -/
theorem test_ld_window : (lanesAfter (.ld (near 3 (.v 5))) (based 480) 5).map (·.take 2) = some [1024 * 15, 1024 * 15 + 8] := by
  decide
theorem test_st_area : ((after (.st (near 2 (.v 1))) (based 0x700000)).bind (·.range 1)).map (fun r => r.readScratch 7 4 4) =
    some [0x08, 0x04, 0, 0] := by decide
/-- Under a token the value waits. -/
theorem wit_load_token : issues 0x80 (wt (mem .n32 (.v 5) 0)) memory (fun i => i.h.se && i.h.setk == 1 && i.c.landed.isEmpty &&
    readyAt i (mem .n32 (.v 5) 0) 4 1 wantRead at8) = true := by decide

/-- What `Iss.readyOne` asks, as a check. -/
def oneAt (i : Iss) (f : Fields) (n : Nat) (want : Want) (loc : Loc) : Bool :=
  i.c.kind != .strand && i.s.mem.deltas.isEmpty && decide (i.s.mem.l2.length + 256 < 2 ^ 26) && (match i.accs f n true with
    | some [a] => (match i.s.locate i.c f.space a.va n true want with
        | .ok x => x == loc
        | _ => false) && (i.l.guardLine a.va).isNone
    | _ => false) && (match loc with
    | .g pa _ => reachesAt i n 1 want pa
    | .scratch core off => (List.range n).all fun k => !i.s.openAt i.r.id (.scratch core (off + k))
    | _ => true)
/-- A word at [s16] = 0x400 in a space. -/
def one (space : Nat) (d : Opnd) : Fields := wx 0 .n32 (toSpace space) d (.s 16) (.imm 0) 0
theorem wit_one : (∀ d ∈ [Opnd.v 5, .s 5], issues 0x80 (one 0 d) span (fun i => oneAt i (one 0 d) 4 wantRead (.g 0x400 true) &&
      !i.splits d false) = true) ∧
    issues 0x80 (one 1 (.s 5)) control (fun i => oneAt i (one 1 (.s 5)) 4 wantRead (.control 0x400)) = true ∧
    issues 0x80 (one 1 (.v 5)) span (fun i => oneAt i (one 1 (.v 5)) 4 wantRead (.scratch 0 0x400)) = true ∧
    issues 0x81 (one 0 (.v 1)) span (fun i => oneAt i (one 0 (.v 1)) 4 wantWrite (.g 0x400 true) && isU (i.form 3 false (.v 1))) =
      true ∧
    issues 0x81 (one 2 (.s 1)) control (fun i => oneAt i (one 2 (.s 1)) 4 wantWrite (.scratch 0 0x400) && i.c.kind == .control) =
      true := by decide

/-- A span whose v6 and v7 hold 0x400 + 8 × item; v8 and v9 are the halves of another affine pair. -/
def affineSpan : State :=
  span.modCtx 1 fun c => { c with
    regs := c.regs.take 6 ++ [.lo 0x400 8, .hi 0x400 8, .lo 1 1, .hi 1 1] ++ List.replicate 6 (.u 0) }
def spread (d : Opnd) : Fields := wx 0 .n32 0 d (.v 6) (.imm 0) 0
/-- Item 2 stores 100 + 4 × 2 at 0x410. -/
theorem test_st_span : ((after (.st (spread (.v 4))) affineSpan).map fun t => (List.range 2).map fun k => t.l1Read 0 (0x410 + k)) =
    some [108, 0] := by decide
theorem wit_store_span : issues 0x81 (spread (.v 4)) affineSpan (fun i => i.s.mem.deltas.isEmpty &&
      !i.sameStore (spread (.v 4)) 4 && i.form 3 false (.v 4) == .a 100 4 && (match i.spanAddr (spread (.v 4)) 4 0 64 with
        | some (a, _) => (List.range 64).all fun x => (i.l.guardLine (a x)).isNone && reachesAt i 4 1 wantWrite (0x400 + 8 * x) &&
            (match i.s.locate i.c 0 (a x) 4 true wantWrite with
              | .ok (.g p _) => p == 0x400 + 8 * x
              | _ => false)
        | none => false)) = true ∧
    issues 0x81 (near 3 (.v 5)) span (fun i => isSpan i.c) = true ∧
    issues 0x81 (mem .n32 (.v 1) 0) (span.modCtx 1 fun c => { c with regs := c.regs.set 2 (.a 0 4) }) (fun i =>
      (i.spanAddr (mem .n32 (.v 1) 0) 4 0 64).isNone) = true ∧
    issues 0x80 (one 0 (.v 8)) affineSpan (fun i => i.splits (.v 8) false) = true ∧
    issues 0x80 (mem .n32 (.v 5) 0) (span.modCtx 1 fun c => { c with regs := c.regs.set 2 (.a 0 4) }) (fun i =>
      (i.accs (mem .n32 (.v 5) 0) 4 true).isNone) = true := by decide

/-- CRNG at every scope, on bytes of this package's store. -/
def crngOf (var : BitVec 4) (scope : Nat) : Fields := wx var .b32 (BitVec.ofNat 8 (8 * scope)) unused (.s 16) (.s 1) 0
theorem wit_cache_range : ∀ v ∈ [(0 : BitVec 4), 1, 2], ∀ sc ∈ [0, 1, 2, 3, 4], issues 0x83 (crngOf v sc) span (fun i =>
    canonical (i.uni 0 (.s 16)) && (i.uni 1 (.s 1)).toNat == 64 && !i.acked && i.s.mem.deltas.isEmpty &&
      (let ps := i.s.pieces i.clu i.l (i.uni 0 (.s 16)) 2 64
      ps == [(0x400, 64)] && (List.range 64).all (fun k => !i.s.lowCached (0x400 + k)) &&
        (i.s.crngPieces v.toNat sc i.clu ps).2.isEmpty)) = true := by decide
/-- R176: the dirty byte of another cluster of the die goes home at scope die. -/
theorem test_crng_writes : ((after (.crng (crngOf 1 2)) ({ span with mem := { span.mem with
    l1 := [(2 ^ 56 + 0x400, ⟨9, true⟩)] } } : State)).map fun t => (t.sliceRead 0x400, t.mem.l1.length)) = some (9, 1) := by decide
/-- A dirty line of node 9 in the L2, at virtual 0x20000. -/
def remoteLine : State :=
  let pa := 9 * 2 ^ 43
  withScal { span with mem := { span.mem with
    l2 := [(pa, ⟨7, true⟩)], tlb := span.mem.tlb ++ [⟨0, false, 0, 0, 0x20000, ⟨pa, 2 ^ 16, true, true, false, false, false, false,
      false, 0⟩⟩] } } 16 0x20000
theorem wit_cache_remote : issues 0x83 (crngOf 1 4) remoteLine (fun i => !i.acked &&
    !(i.s.crngPieces 1 4 i.clu (i.s.pieces i.clu i.l (i.uni 0 (.s 16)) 2 64)).2.isEmpty) = true ∧
    issues 0x83 (crngOf 1 4) (waited remoteLine) (fun i => i.acked) = true := by decide
theorem wit_prefetch : issues 0x82 (wx 0 .b32 0 unused (.s 16) (.imm 0) 0) span (fun i => i.s.mem.deltas.isEmpty &&
    i.s.fabric.failed.isEmpty && decide (i.s.mem.l2.length + 128 * (i.lanes.length + i.c.items.length + 1) < 2 ^ 26)) = true := by decide
theorem wit_rmw_room : span.mem.l2.length + 128 * (4 + 1) < 2 ^ 26 ∧ (∀ k < 4, span.openAt 0 (.g (0x400 + k) false) = false) ∧
    (0 : Nat) < 4 := by decide
theorem wit_reduction : issues 0x92 (mem .n32 (.v 5) 9) memory (fun i => readyAt i (mem .n32 (.v 5) 9) 4 2 wantRmw at8 &&
    (mem .n32 (.v 5) 9).order == 1 && (mem .n32 (.v 5) 9).scope < 4 && i.lanes == List.range 8) = true ∧
    (∀ l < 8, ∀ j < 8, j ≠ l → at8 j + 4 ≤ at8 l ∨ at8 l + 4 ≤ at8 j) := by decide
/-- .ord at a launch that holds the location needs it where its home is. -/
theorem wit_red_levels : issues 0x92 ordWord ordState (fun i => readyAt i ordWord 4 4 wantRmw at8) = true ∧
    issues 0x92 (fabric .n32 (.v 5)) (waited memory) (fun i => readyAt i (fabric .n32 (.v 5)) 4 4 wantRmw at8) = true := by decide

/-! ## Clauses of groups and launches at their other hypotheses -/

/-- Beside group 1, group 3 has the items 0 to 3, group 4 the items 0 and 2, and group 6 all of them. -/
def grouped (c : Ctx) : State :=
  { stateOf c with launches := [{ launch with
    groups := [⟨1, [⟨0, 8, 1⟩]⟩, ⟨3, [⟨0, 4, 1⟩]⟩, ⟨4, [⟨0, 2, 2⟩]⟩, ⟨6, [⟨0, 64, 1⟩]⟩] }] }
def bargOf (k : BitVec 11) : Fields := wx 0 .b32 0x0C unused unused (.imm k) 0
def same (i : Iss) : Bool := i.s.launch i.l.id == some i.l
theorem wit_barg_others : issues 0xC0 (bargOf 3) (grouped strandCtx) (fun i => same i && i.c.kind == .strand &&
    (i.lanes.filter fun x => !i.l.member 3 (i.itemOf x)) == [4, 5, 6, 7]) = true := by decide
theorem test_barg_others : ((after (.barg (bargOf 3)) (grouped strandCtx)).bind (·.launch 1)).map (fun l => (l.gen 3).counts) =
    some [(0, 1), (1, 1), (2, 1), (3, 1)] := by decide
theorem wit_barg_span : issues 0xC0 (bargOf 1) (grouped { spanCtx with kind := .span 8 64 }) (fun i =>
      i.c.kind == .span 8 64 && !i.l.member 1 8) = true ∧
    issues 0xC0 (bargOf 1) (grouped spanCtx) (fun i => i.c.kind == .span 0 64 && !i.l.member 1 8 &&
      (List.range 8).all (i.l.member 1)) = true ∧
    issues 0xC0 (bargOf 6) (grouped spanCtx) (fun i => same i && i.c.kind == .span 0 64 &&
      (List.range 64).all fun x => i.l.member 6 x && (i.l.gen 6).count x == i.s.released i.l.cmd.job 6) = true := by decide
theorem test_barg_span : (after (.barg (bargOf 1)) (grouped spanCtx)).map (fun t => t.ctxs.map (·.kind)) =
    some [.span 0 8, .span 8 64] := by decide
def grpq (d : Opnd) (k : BitVec 11) : Fields := w .b32 d unused (.imm k)
theorem wit_grpq_span : issues 0xC1 (grpq (.p 3) 1) (grouped spanCtx) (fun i => i.c.kind == .span 0 64 &&
      (List.range 64).all fun x => i.l.member 1 x == decide (x < 8)) = true ∧
    issues 0xC1 (grpq (.p 3) 2) (grouped spanCtx) (fun i => i.c.kind == .span 0 64 &&
      (List.range 64).all fun x => !i.l.member 2 x) = true ∧
    issues 0xC1 (grpq (.p 3) 4) (grouped spanCtx) (fun i => i.c.kind == .span 0 64 && i.l.member 4 0 && !i.l.member 4 1 &&
      i.l.member 4 2) = true := by decide
theorem test_grpq_span : ((ctxAfter (.grpq (grpq (.p 3) 1)) (grouped spanCtx)).bind (·.preds[3]?)) = some (.i 0 8) := by decide

/-- R272 after the release at scope package. -/
theorem wit_spawn_released : issues 0xE2 (spawn 3) (queueState 15) (fun i =>
    let s1 := i.s.release i.clu i.c.id 3
    (s1.queue 3).en && s1.tailOf 3 == 15 &&
      (match s1.translateRange i.clu false i.l wantRead (i.uni 0 (.s 16)) 128,
          s1.translateRange i.clu false i.l wantWrite ((s1.queue 3).slot 15) 128 with
        | .ok ps, .ok _ => (s1.readWait i.clu 2 i.l.id ((List.range 128).map fun k => (pieceAt ps k).1)).isNone
        | _, _ => false)) = true := by decide
theorem wit_meter : issues 0xE0 (wx 3 .b32 0 (.s 6) unused (.imm 2) 0) (withOp span { readyOp with meters := 11 }) (fun i =>
    i.s.ops.all (fun o => !bitOf o.meters 2) && i.c.subs[2]? == some ⟨0, false⟩) = true := by decide

/-! ## Clauses of the cores, engines and copies -/

def overdue : State := { span with ctxs := [{ spanCtx with active := true }, { nth spanCtx 2 with active := false }] }
theorem wit_overdue_ready : (overdue.coreCtxs 0).map (fun d => (d.active, overdue.readyIdle d)) = [(true, false), (false, true)] := by
  decide
theorem wit_spills : (crowded.coreCtxs 0).all (fun d => crowded.blocked d && d.resident && d.waitsForSpace && crowded.ctx d.id == some d) =
    true ∧ remainder.ctx 1 = some { spanCtx with kind := .span 4 24, wait := .remainder } ∧ spanCtx.resident = true ∧
    (strand.modCtx 1 fun c => { c with wait := .tokens 2 false }).ctx 1 = some { strandCtx with wait := .tokens 2 false } ∧
    (strand.modCtx 1 fun c => { c with wait := .op 7 }).ctx 1 = some { strandCtx with wait := .op 7 } := by decide

/-- The engine of cluster 0 is to be tested. -/
def engineError (s : State) : State := { s with svc := { s.svc with errors := [.engine 0] } }
theorem wit_engine_tested : (running 0xB0 true).engineTested 0 = false ∧ (engineError (running 0xB0 true)).engineTested 0 = true ∧
    ((engineError (running 0xB0 true)).engineAt 0).any (fun x => x.1.id == 1 && (engineError (running 0xB0 true)).working x.2) = true ∧
    (((running 0xB0 true).range 1).any fun r => r.mq.all fun e => e.parked.isNone && e.started && !e.done) = true := by decide
theorem test_engine_tested : ((after (.matrixEngineExecute 0) (engineError (running 0xB0 false))).bind (·.range 1)).map
    (fun r => r.mq.map (·.started)) = some [false] := by decide
theorem wit_chain_open : (List.range 64).all (fun k => !(walking 0x440 copyRecord).poisoned (0x440 + k) &&
    !(walking 0x440 copyRecord).openAt 0 (.g (0x440 + k) false)) = true ∧
    ((walking 0 []).range 1).any (fun r => r.chans[0]? == some ⟨.walking, 0, 50⟩) = true := by decide

/-! ## Clauses of the caches, CXL.mem and errors -/

theorem wit_rooms : dirtyLine.mem.l2.length + 128 * (0 + 1) < 2 ^ 26 ∧ cachedLine.mem.cp.length + 64 ≤ cachedLine.svc.cacheUnits * 2 ^ 27 ∧
    (cxlState false).mem.l2.length + 128 * (0 + 1) < 2 ^ 26 ∧ (cxlState false).svc.cxlReqs.all (!·.failed) = true ∧
    kget (cxlState false).mem.slines 100 = none ∧ (dirtyLine.mem.l2.all fun x => x.2.dirty) = true := by decide
/-- A read of the line 100, a line of the store or of CXL.mem with stamped records. -/
def cxlStamped : State :=
  let s := cxlState false
  { s with mem := { s.mem with slines := [(100, ⟨List.replicate 64 0, none, true, [], []⟩)] } }
theorem test_cxl_base : ((after (.cxlResponse 3 (List.replicate 64 9) false) cxlStamped).map fun t =>
    (kget t.mem.slines 100).map fun l => l.base.take 2) = some (some [9, 9]) := by decide
theorem test_cxl_poison : ((after (.cxlResponse 3 [] true) (cxlState false)).map fun t => t.unread 6400) = some true := by decide

theorem wit_blocks : (tested (.store 0 1)).svc.errors = .store 0 1 :: [.copy 1 1] ∧ Block.store 0 1 ∉ [Block.copy 1 1] ∧
    (tested (.engine 5)).svc.errors = .engine 5 :: [.copy 1 1] ∧ (∀ r ∈ (tested (.engine 5)).ranges, r.cluster ≠ some 5) := by decide
theorem test_store_test : ((after (.selfTest (.store 0 1) false false) (tested (.store 0 1))).map fun t => (t.svc.errors,
    t.svc.failedBlocks, t.svc.tests)) = some ([.copy 1 1], [], [(.store 0 1, false)]) := by decide

/-! ## Clauses of queues, ranges and host commands at their other hypotheses -/

theorem wit_tails : (keyed span).viaOk via = true ∧ (keyed span).viaOk ⟨1, .reliableOrdered, some 4⟩ = true ∧
    (keyed span).viaOk { via with key := none } = false ∧ ((keyed span).queue 3).vf ≠ 1 ∧ ((keyed span).queue 3).vf = via.vf ∧
    (3 : Nat) < 131072 := by decide
theorem test_tail_unsecured : ((after (.queueTailWrite { via with key := none } 3 5) (keyed (queueState 0))).map fun t => (t.host.answers,
    t.tailOf 3)) = some ([[0]], 0) := by decide
def missing (s : State) (k : Nat) : Bool :=
  match s.headOf k with
  | .miss _ _ => true
  | _ => false
/-- The command of the queue waits for a value that is there, and has neither a record nor a second queue beside it. -/
theorem wit_heads : pending.disp.queues.map (·.1) = [3] ∧ missing pending 3 = false ∧ (pending.queue 3).readyAt = none ∧
    (match pending.dispRead 0 0 0x800 128, pending.dispRead 0 0 0x100 8 with
      | .ok (_, bs), .ok (_, d) => let c := parseCmd bs
        c.serial == false && c.depaddr == 0x100 && decide (c.depval.toNat ≤ leVal d) && c.kind == 0
      | _, _ => false) = true := by decide
/-- The same queue with a serial LAUNCH without a dependence. -/
def serial : State :=
  { hosted [(0x30800, [1, 4]), (0x02000000018, leBytes 8 1)] with
    disp := { span.disp with queues := [(3, ⟨0x800, 4, 0, 0, 0, true, 0, none⟩)] } }
theorem test_take_launch : ((after (.commandTake 3) serial).map fun t => (t.disp.cmds.map fun x => (x.cmd.serial, x.launchId), t.launchCount)) =
    some ([(true, serial.launchCount + 1)], serial.launchCount + 1) := by decide
theorem wit_serial : (match serial.dispRead 0 0 0x800 128 with
    | .ok (_, bs) => (parseCmd bs).serial && (parseCmd bs).depaddr == 0 && (parseCmd bs).kind == 1
    | _ => false) = true ∧ serial.disp.cmds = [] := by decide

/-- The balance of the VF is below what the next range is estimated to cost. -/
def poor : State :=
  { placing with launches := placing.launches.map fun l => { l with cmd := { l.cmd with estimate := 500 } } }
theorem wit_pass_over : poor.launches.all (fun l => !poor.spendOk l 64 && l.failedIn != some poor.energy.window && l.status.isNone &&
      !l.drain && l.todo.head? == some (0, 64) && (poor.nextLaunch l.vf l.proc).isNone) = true ∧ poor.freeCluster = some 0 ∧
    poor.vfPlaces 0 = true ∧ poor.svc.dead = false ∧ poor.svc.recovery = false := by decide
theorem test_pass_over : ((after (.rangePlace 1) poor).map fun t => (t.ranges.length, t.launches.map (·.failedIn))) =
    some (0, [some poor.energy.window]) := by decide
theorem wit_bid : placing.launches.all (fun l => l.failedIn != some placing.energy.window && l.todo.head? == some (0, 64) &&
    placing.spendOk l 64 && (placing.nextLaunch l.vf l.proc).map (·.id) == some l.id && (placing.bid l.vf l.proc 64).isSome) = true := by
  decide
theorem wit_ended : (ended (some 7) none).launches.all (fun l => l.tend.isNone && l.status == some 7) = true ∧
    (ended none (some 900)).disp.cmds.all (fun x => x.cmd.recaddr == 0 && x.cmd.cmpaddr == 0) = true := by decide

/-- The saved range passes the check of R236, and does not with an estimate above the balance. -/
def poorSaved : State :=
  { savedRange with launches := savedRange.launches.map fun l => { l with cmd := { l.cmd with estimate := 500 } } }
theorem wit_saved : ((savedRange.passRanges 0 5).bid 0 0 64).isSome = true ∧ savedRange.ranges.map (fun r => (r.id, r.order)) = [(1, 5)] ∧
    (poorSaved.range 1).any (fun r => poorSaved.waitsPlace r && !poorSaved.mayRestore r) = true ∧ poorSaved.vfPlaces 0 = true ∧
    (placeOrder.find? fun x => poorSaved.clusterFree x && (poorSaved.range 1).any fun r =>
      poorSaved.launches.all fun l => poorSaved.roomOn l r x) = some 0 := by decide
theorem test_pass_ranges : ((after (.rangeRestore 1) poorSaved).map fun t => t.ranges.map fun r => (r.cluster, r.failedIn)) =
    some [(none, some poorSaved.energy.window)] := by decide
theorem wit_stopping : (({ span with accts := [(0, { Account.reset with state := 1 })] } : State).acct 0).state = 1 ∧
    (span.launches.all fun l => l.vf == 0 && span.launchStopped l.id) = true ∧
    (handler span).launches.any (fun l => l.vf == 0 && !(handler span).launchStopped l.id) = true ∧
    ((({ handler span with accts := [(0, { Account.reset with sliceOver := true })] } : State).acct 0).sliceOver) = true := by decide

/-- The arguments of a host command, read by its dispatcher. -/
def argsOf (s : State) (kind : Nat) (q : State → Taken → List Byte → Bool) : Bool :=
  match s.taken 20 with
  | some x => x.cmd.kind == kind && !x.started && x.result.isNone && x.cmd.recaddr != 0 &&
    (match s.dispRead x.vf x.proc x.cmd.recaddr 64 with
      | .ok (s1, bs) => q s1 x bs
      | _ => false)
  | none => false
theorem wit_kill : argsOf (hostCommand 0x10 2 0 0 false) 0x10 (fun s x bs => (s.target x (argOf bs 0)).isNone &&
      (s.taking x (argOf bs 0)).isNone) = true ∧
    argsOf ({ hostCommand 0x10 9 0 0 false with disp := { span.disp with cmds :=
        [{ command 0x10 (fun c => { c with recaddr := 0x100 }) with launchId := 0 }, { command 1 id with id := 21 }] } })
      0x10 (fun s x bs => (s.target x (argOf bs 0)).isNone && (s.taking x (argOf bs 0)).isSome) = true ∧
    argsOf (hostCommand 0x10 1 0 0 false) 0x10 (fun s x bs => (s.target x (argOf bs 0)).any fun l =>
      (s.drain l.id).launchStopped l.id) = true := by decide

/-- A checkpoint of a launch without a placed range to virtual 0x200, into a buffer of `n` bytes. -/
def checkpoint (n : Nat) : State := { hostCommand 0x11 1 0x200 n false with ctxs := [], ranges := [] }
/-- Where the parts whose layout is open are empty (log entry 5), the image of the launch has 8,340 bytes. -/
theorem image_size (h : ∀ k, Config.imageSize k = 0) : 20 + (imageBody launch [] 0).length = 8340 := by
  have none (f l p : Nat) : openBytes f l p = [] := by simp [openBytes, h]
  simp only [imageBody, none, List.flatMap_nil, List.append_nil]
  decide
theorem wit_checkpoint : ∀ n ∈ [64, 8340], argsOf (checkpoint n) 0x11 (fun s1 x bs =>
    let s2 := s1.drain 1
    let pieces (s : State) : Bool := match s.dispPieces x.vf x.proc wantWrite 0x200 8340 with
      | .ok _ => s.svc.errors.isEmpty
      | _ => false
    s1.target x (argOf bs 0) == some launch && !launch.drain && s1.rangesOf 1 == [] && argOf bs 2 == n && pieces s1 &&
      s2.launchStopped 1 && !(s2.flushAll 1).launchUnacked 1 && pieces (s2.flushAll 1)) = true := by decide

def image : Image := ⟨0x200, 0, 0, { launch with groups := [] }, [], [], [], [], [], [], [], imageOf []⟩
/-- A restore from virtual 0x200, which holds the image. -/
def restoring (room : Bool) : State :=
  let s := hostCommand 0x12 0x200 20 0 false
  { s with
    mem := { s.mem with home := Memory.writeN s.mem.home 0x30200 (imageOf []) }
    images := [if room then image else { image with msgs := [message .pkg 0] }]
    sends := if room then s.sends else packed.sends }
theorem wit_restore : argsOf (restoring true) 0x12 (fun s1 x bs =>
      match s1.dispRead x.vf x.proc (BitVec.ofNat 64 (argOf bs 0)) (argOf bs 1) with
      | .ok (s2, im) => (s2.imageAt im).any fun i => !decide (4096 < s2.parkedHere + i.msgs.length) && (s2.restoreImage x i).isSome
      | _ => false) = true := by decide
theorem wit_restore_waits : argsOf (restoring false) 0x12 (fun s1 x bs =>
      match s1.dispRead x.vf x.proc (BitVec.ofNat 64 (argOf bs 0)) (argOf bs 1) with
      | .ok (s2, im) => (s2.imageAt im).any fun i => decide (4096 < s2.parkedHere + i.msgs.length)
      | _ => false) = true ∧
    argsOf (hostCommand 0x12 0 64 0 false) 0x12 (fun s1 x bs =>
      match s1.dispRead x.vf x.proc (BitVec.ofNat 64 (argOf bs 0)) (argOf bs 1) with
      | .ok (s2, im) => (s2.imageAt im).isNone
      | _ => false) = true := by decide
theorem test_restore : ((after (.restore 20) (restoring true)).map fun t => (t.launches.map (·.id), t.disp.cmds.map (·.started))) =
    some ([1, 9], [true]) := by decide
theorem wit_refuse : argsOf (hostCommand 0x14 0x50000 0 0 false) 0x14 (fun s _ bs => s.host.faults.isEmpty &&
      s.disp.cmds.all fun y => y.parked != some ((pageArg bs).toNat / 2 ^ 16)) = true ∧
    argsOf { hostCommand 0x14 0x50000 0 0 false with host := { span.host with faults := [⟨0, 0, 0x50000, 0, 5, [1]⟩] } } 0x14
      (fun s x bs => s.host.faults.any fun f => f.vf == x.vf && f.proc == x.proc && f.page == pageArg bs && f.parties.contains 1) =
        true := by decide
theorem wit_management : (∀ p ∈ [((0x18 : Nat), (64 : Nat), (0 : Nat), (0 : Nat)), (0x18, 2, 0x99, 1), (0x18, 2, 0x10, 500), (0x18, 2, 0, 500), (0x19, 2 ^ 28, 2 ^ 27, 0),
      (0x19, 5, 0, 0), (0x1A, 64, 0, 0), (0x1A, 6, 0, 0), (0x1B, 64, 7, 9), (0x1B, 6, 7, 256), (0x1B, 6, 7, 255)],
    argsOf (hostCommand p.1 p.2.1 p.2.2.1 p.2.2.2 true) p.1 (fun _ x bs => x.vf == 0 && x.proc == 255 && argOf bs 0 == p.2.1 &&
      argOf bs 1 == p.2.2.1 && argOf bs 2 == p.2.2.2) = true ∧
    argsOf (hostCommand p.1 p.2.1 p.2.2.1 p.2.2.2 false) p.1 (fun _ x _ => x.proc != 255) = true) ∧
    ({ hostCommand 0x19 (2 ^ 28) (2 ^ 27) 0 true with ranges := [] } : State).ranges = [] := by decide

/-- The message of another package, from the job of the launch here, and from one that is not here. -/
def peerMsg (job : Nat) : BarrierMsg := ⟨.pkg, 0, 9, 1, job, 1, 0, [], false⟩
theorem wit_peer_message : (peerMsg 5).node ≠ arrived.fabric.node ∧ (peerMsg 5).complete = false ∧ arrived.jobLaunches 5 1 ≠ [] ∧
    arrived.jobLaunches 6 1 = [] := by decide
theorem test_peer_message : ((after (.barrierArrivalMessage { peerMsg 6 with gen := 3 }) arrived).map fun t => (t.released 6 1,
    t.disp.peers.length)) = some (3, 1) := by decide

/-! ## Clauses of stamps and links at their other hypotheses -/

/-- An answered record, one of another node's home, and reads at a time of an own line, a CXL line and another home's. -/
def stsAt (pa : Nat) (p : StsPhase) : Op := ⟨12, [1], some 1, .sts { record0 with pa := pa } p 0x42 [(0, 64)], 0⟩
def ldatAt (pa : Nat) : Op := ⟨13, [1], some 1, .ldat 900 .n32 pa (.s 8) 0x42 [(0, 64)], 0⟩
def serveOp : Op := ⟨14, [], none, .serveAt (request (.ldat 900 4)), 0⟩
theorem wit_records : span.lineMiss (0x10000 / 64) = false ∧ (withOp span (stsOp .sent)).op 12 = some (stsOp .sent) ∧
    (withOp span (stsAt (9 * 2 ^ 43) .sent)).op 12 = some (stsAt (9 * 2 ^ 43) .sent) ∧ record0.op = 12 ∧
    (unsentState (withOp span (stsAt (9 * 2 ^ 43) .sent)) 12).txUnsent 12 = true ∧
    (withOp span (stsAt (9 * 2 ^ 43) .sent)).txUnsent 12 = false ∧ (withMer span 3).mer.state = 3 ∧
    record0.stamp + span.mer.mwin ≥ span.mer.dielo ∧ 0 + (4000 : Nat) < late.mer.dielo := by decide
/-- The line of the record has its history, with a slot left. -/
def lined : State := { span with mem := { span.mem with slines := [(0x400, ⟨List.replicate 64 0, none, false, [⟨980, 0, 0, 0, 4, 7⟩], []⟩)] } }
theorem test_take_record : ((lined.takeRecord record0).2, (kget (lined.takeRecord record0).1.mem.slines 0x400).map fun l =>
    (l.slots.map (·.stamp), l.has)) = (0, some ([980, 990], true)) := by decide
theorem wit_reads_at : late.lineMiss (0x10000 / 64) = false ∧ (late.lineMiss (0x40000000400 / 64)) = true ∧
    (withOp span (ldatAt (9 * 2 ^ 43))).remote (9 * 2 ^ 43) = true ∧
    (unsentState (withOp span (ldatAt (9 * 2 ^ 43))) 13).txUnsent 13 = true ∧ (withOp span (ldatAt (9 * 2 ^ 43))).txUnsent 13 = false ∧
    (withOp (withMer span 3) (ldatOp 900)).op 13 = some (ldatOp 900) := by decide
theorem test_serve_at : ((after (.ldatAnswer 14 none) (withOp { late with ops := [] } serveOp)).map fun t => (t.ops.length,
      t.fabric.replies.map fun r => (r.node, r.tag, r.hold))) = some (0, [(9, 4, false)]) ∧
    ((after (.ldatAnswer 14 none) (withOp span serveOp)).map fun t => (t.ops.length, t.fabric.replies.length)) = some (1, 0) := by decide
theorem wit_serve_at : (withOp span serveOp).op 14 = some serveOp ∧ (withOp span serveOp).mer.dielo ≤ 900 + span.mer.mwin ∧
    900 + late.mer.mwin < late.mer.dielo ∧ late.lineMiss (0x400 / 64) = false ∧ (waiting 999).ctx 1 = some { spanCtx with wait := .time 999 } :=
  by decide

theorem wit_flit_bytes : (8191 : Nat) < 2 ^ 13 ∧ (0 : Nat) ≠ 8191 ∧ (7 : Nat) < 8 ∧ (2 ^ 32 - 1 : Nat) < 2 ^ 32 := by decide
theorem test_flit_bytes : ((Cargo.data 1 2 9 7 0).bytes true 35).take 6 = [0xA0, 0, 9, 0, 1, 0] := by decide
/-- The last flits sent: a timing flit under counter 35, a control flit, or a data flit. -/
def logged (c : Cargo) : State := port fun p => { p with ctr := 99, cctr := 5, sent := [⟨false, 35, c, []⟩] }
theorem test_resend_kinds : (portAfter (.resendRequest 0 35) (logged (.timing 0 1 2 3))).map (fun p => (p.ctr, p.sent.length)) = some (99, 1) ∧
    (portAfter (.resendRequest 0 35) (logged (.control 0 1 true))).map (fun p => (p.ctr, p.cctr, p.sent.map (·.ctr))) =
      some (99, 6, [35, 5]) := by decide
theorem wit_port_states : upPort.queue = [] ∧ ({ upPort with state := 3, erased := 4 } : Port).erased = 2 ^ 2 ∧ bitOf 4 1 = false ∧
    ({ upPort with state := 4 } : Port).staged = false ∧ Port.reset.state = 0 ∧ ({ upPort with state := 1 } : Port).state < 2 ∧
    ({ upPort with staged := true, ordered := true } : Port).ordered = true ∧ (2 ^ 31 : Nat) < 2 ^ 31 + 1 ∧ upPort.ctr ≤ 2 ^ 31 := by decide
theorem wit_received : (({ upPort with rx0 := some 9 } : Port).rx0.any (9 ≤ ·)) = true ∧ upPort.rx0 = none ∧
    (Flit.ofBytes (flit 224).bytes).ctr = 9 ∧ RawFlit.ok { flit 224 with tagOk := false } = false := by decide

/-! ## Clauses of the fabric at their other hypotheses -/

/-- What `Rules.Serves` asks beside `serves`. -/
def servesAll (s : State) (q : RemoteReq) : Bool :=
  serves s q && !anywhere q && decide (s.mem.l2.length + 128 * (0 + 1) < 2 ^ 26) &&
    (needs q).all fun p => !s.poisoned p && !s.openAt 0 (.g p false)
theorem wit_serves_all : ∀ k ∈ kinds, servesAll (home 5) (request k) = true ∧ servesAll shared (request k) = true := by decide
/-- The line's history, an unreachable clock, and a lock word that a writer holds. -/
def homeLined (lo : Nat) : State :=
  let s := home 5
  { s with mer := { s.mer with dielo := lo }, mem := { s.mem with slines := [(16, ⟨List.replicate 64 0, none, false, [], []⟩)] } }
theorem wit_serve_ldat : servesAll (withMer (home 5) 3) (request (.ldat 900 4)) = true ∧ servesAll (homeLined 4901) (request (.ldat 900 4)) = true ∧
    900 + (homeLined 4901).mer.mwin < (homeLined 4901).mer.dielo ∧ (kget (homeLined 4901).mem.slines 16).isSome = true := by decide
def homeLocked : State :=
  let s := home 5
  { s with mem := { s.mem with home := Memory.writeN s.mem.home 0x400 (leBytes 4 ((LockWord.ofNat 0).hold true).toNat) } }
theorem wit_serve_lock : servesAll homeLocked (request (.lock true)) = true ∧ servesAll homeLocked (request (.unlock true)) = true ∧
    (LockWord.ofNat (homeLocked.sliceVal 0x400 4)).free true = false ∧ homeLocked.waiterRoom 0 0x400 = some 0 ∧ homeLocked.mem.lockq = [] := by
  decide
theorem test_serve_lock : ((after (.remoteRequest (request (.lock true))) homeLocked).map fun t => (t.fabric.replies.length,
    t.mem.lockq.map fun x => (x.pa, x.write, x.peer.isSome))) = some (0, [(0x400, true, true)]) := by decide

def crngReq : RemoteReq := request (.crng 1 64)
theorem wit_transactions : (home 5).remote (9 * 2 ^ 43) = true ∧ ({ crngReq with node := 0 } : RemoteReq).node = span.fabric.node ∧
    anywhere crngReq = true ∧ (home 5).fabric.kept = [] ∧ (home 5).holding crngReq = false ∧ ((home 0).acct 0).rbal ≤ 0 ∧
    resent.fabric.rtx = [⟨4, 9, 0, 8, none, 0⟩] ∧ span.coordinates 3 = false ∧ (owning 5).coordinates 3 = true ∧
    (kget (owning 5).fabric.replicas 3) = some [0, 9] ∧ span.remote (64 * (9 * 2 ^ 37)) = true := by decide
theorem test_crng_foreign : ((after (.remoteRequest crngReq) { home 5 with mem := { (home 5).mem with l1 := [(0x400, ⟨9, true⟩)] } }).map fun t =>
    (t.sliceRead 0x400, t.mem.l1)) = some (9, [(0x400, ⟨9, false⟩)]) := by decide
/-- One port to node 9, the home of a line. -/
def routed : State := { span with fabric := { span.fabric with ports := [upPort], routes := [(9, [0])] } }
theorem wit_invalidation : routed.portFor (nodeOf (64 * (9 * 2 ^ 37))) (2 ^ 16 + 9 * 2 ^ 37) = some 0 ∧
    routed.remote (64 * (9 * 2 ^ 37)) = true ∧ routed.fabric.ports[0]? = some upPort := by
  refine ⟨?_, by decide, by decide⟩
  have route : routed.routesTo (nodeOf (64 * (9 * 2 ^ 37))) = [0] := by decide
  rw [State.portFor, route]
  simp [Nat.mod_one]
theorem test_owner_queued : ((after (.ownershipRequest 3 5 ⟨9, 4, 0⟩) (owning 0)).map fun t => t.fabric.queued.map (·.kind)) =
    some [.owner 3 5] := by decide
theorem wit_collapse_page : duplicate.pageHeld 0 0 0x10000 = false ∧ kget duplicate.fabric.owners (0x600000 / 2 ^ 21 * 32 + 1) = none ∧
    (0x10000 / 2 ^ 16 % 32 : Nat) = 1 ∧ duplicate.mem.tlb = [] ∧ 0x610000 % 2 ^ 16 = 0 := by decide

/-- What an access of the host meets. -/
def rmaMiss (s : State) (r : Rma) (m : Miss) : Bool :=
  match s.rmaBytes r with
  | .error x => x == m
  | .ok _ => false
def testedWindow : State := { windowed with svc := { windowed.svc with errors := [.l2 (windowed.homeDieOf 0x30101) (windowed.homeSlice 0x30101)] } }
/-- Virtual page 0 is a page of the CXL window, none of whose bytes is cached. -/
def cxlWindow : State :=
  { windowed with
    svc := { windowed.svc with cxl := [⟨0, 2 ^ 28, [0], 0⟩] }
    mem := { windowed.mem with home := Memory.writeN windowed.mem.home 0x4000 (leBytes 8 (0x04000000000 + 0x1F)) } }
theorem wit_rma : rmaMiss windowed ⟨0, 3, 1, 1, true, [9]⟩ (.kind 2) = true ∧ rmaMiss windowed ⟨0, 2, 60, 5, false, []⟩ (.kind 3) = true ∧
    (match testedWindow.rmaBytes ⟨0, 2, 1, 1, false, []⟩ with
      | .error (.test _) => true
      | _ => false) = true ∧ windowed.viaOk via = true ∧ windowed.mem.l2.length + 128 * (1 + 1) < 2 ^ 26 ∧
    (match windowed.rmaBytes ⟨0, 2, 0, 2, true, [9, 8]⟩ with
      | .ok ps => ps.map (·.1) == [0x30100, 0x30101] && ps.all (fun p => !windowed.lost p.1 && !windowed.openAt 0 (.g p.1 false))
      | .error _ => false) = true := by decide
theorem wit_rma_cxl : (match cxlWindow.rmaBytes ⟨0, 2, 1, 1, false, []⟩ with
      | .error (.cxl _) => true
      | _ => false) = true := by decide
theorem test_rma_waits : ((after (.rmaRead 2 1 1 via) testedWindow).map fun t => (t.host.answers, t.ops.length)) = some ([], 1) := by decide
theorem wit_manages : (keyed span).manages via = true ∧ (keyed span).manages ⟨1, .reliableOrdered, some 4⟩ = false ∧
    (keyed ringState).host.rings.map (fun r => (r.vf, r.head, r.tail)) = [(0, 0, 16)] := by decide
theorem test_register_refused : ((after (.registerWrite ⟨some ⟨1, .reliableOrdered, some 4⟩, .root 1 2 0x4000⟩) (keyed span)).map fun t =>
    ((t.proc 1 2).root, t.host.answers)) = some (0, [[0]]) := by decide

/-! ## Clauses of the group sends and the step at their other hypotheses -/

/-- A package under a tier of switches, with a port up, and its message. -/
def sendTier (m : Msg) (ready : List Ready) (n : Nat) : State :=
  let s := sending m ready n
  { s with fabric := { s.fabric with tier := true, ports := [upPort] } }
theorem wit_reports : (chanState 3 []).slotTotal 0 0 key = (3, true) ∧ ((chanState 3 []).inSeat 0 0).any (fun c => c.seat == some 0) = true ∧
    ((sending (message .core 0) [⟨.core, 0, 0, key, 3, true⟩] 3).sends.total .core 0 key,
      (sending (message .core 0) [⟨.core, 0, 0, key, 3, true⟩] 3).sends.live .core 0 key) = (3, true) ∧
    ((sending (message .core 0) [⟨.core, 0, 1, key, 2, true⟩] 3).sends.total .core 0 key) ≠ 0 := by decide
/-- R333: the package switch tells the tier what its die has told it. -/
theorem test_tier_report : ((after (.readinessReport .core 0 key 3 true) { sendTier (message .core 0) [] 3 with
    fabric := { span.fabric with tier := true, ports := [] } }).map fun t => (t.sends.ready.filter (·.level == .fabric)).map (·.total)) =
    some [3] := by decide
theorem test_fabric_report : ((after (.readinessReport .fabric 9 key 2 true) (sendTier (message .core 0) [] 3)).map fun t =>
      t.sends.ready.map fun x => (x.level, x.child, x.total)) = some [(.fabric, 9, 2)] ∧
    ((after (.readinessReport .fabric 9 key 2 true) (sending (message .core 0) [] 3)).map fun t => t.sends.ready.length) = some 0 := by decide
theorem wit_tier_report : (sendTier (message .core 0) [] 3).fabric.tier = true ∧ (sendTier (message .core 0) [⟨.pkg, 0, 0, key, 3, true⟩] 3).sends.total .pkg 0 key = 3 ∧
    (sendTier (message .core 0) [] 3).sends.total .pkg 0 key = 0 ∧ (9 : Nat) ≠ span.fabric.node := by decide
/-- A message of the package at its switch, where no core has the key: up to the tier. -/
theorem wit_tier : (sendTier (message .pkg 0) [] 0).msg 70 = some (message .pkg 0) ∧ (sendTier (message .pkg 0) [] 0).sends.kids .pkg 0 key = [] ∧
    (message .pkg 0).moves = true ∧ (sendTier (message .pkg 0) [] 0).sendReady (message .pkg 0) = true ∧
    (sending (message .die 0) [] 0).sends.kids .die 0 key = [] ∧ ({ message .die 0 with bounces := 62 } : Msg).bounces < 63 ∧
    ({ message .pkg 0 with bounces := 63 } : Msg).bounces < 64 ∧ (sendTier (message .pkg 0) [] 0).portsUp = true := by decide
theorem test_bounce : ((after (.messageSteer 70 none) (sending { message .die 0 with climbing := false } [] 0)).bind (·.msg 70)).map
    (fun m => (m.level, m.climbing, m.bounces)) = some (.pkg, true, 1) := by decide
/-- A parked message at the package switch, woken by an offer of another package under the tier. -/
theorem test_far_wakes : msgAfter (.parkedWake key) (sendTier { message .pkg 0 with parked := true, climbing := false }
    [⟨.fabric, 0, 9, key, 1, true⟩] 0) = some (.pkg, 0, true, none) := by decide
theorem wit_tier_status : (sendTier (message .fabric 0) [] 0).unsent 70 = false ∧ (70 : Nat) % 2 ^ 16 = 70 ∧
    (sending (message .fabric 0) [] 0).parkedHere < 4096 ∧ packed.parkedHere = 4096 ∧
    ({ message .core 0 with outcome := some 2 } : Msg).held = none := by decide
theorem wit_incoming : (tiered 5).msg 80 = none ∧ inMsg.node ≠ (tiered 5).fabric.node ∧ (0 : Int) < ((tiered 5).acct 0).rbal ∧
    ((tiered 0).acct 0).rbal ≤ 0 ∧ (4 ≤ inMsg.words.length ∧ inMsg.words.length ≤ 64) ∧ (home 5).fabric.tier = false := by decide

/-- A literal word at the PC, and an illegal one. -/
def literal : State := State.reset.withFetchWord 192 (0x4000100018E00200500A1020 + 0x186A0 * 2 ^ 96)
theorem wit_step_literal : (match literal.fetchWord (placeCtx 1 false) 0, literal.fetchWord (placeCtx 1 false) 12 with
      | .ok w, .ok x => hasLit w && (match decodeWord w (some 0), decodeWord w (some x) with
        | .ok _, .ok _ => true
        | _, _ => false)
      | _, _ => false) = true ∧
    (State.reset.withFetchWord 96 0x7000B).fetchInstr (placeCtx 1 false) 0 = .illegal := by decide
theorem wit_happens : ({ span with svc := { span.svc with frozen := true } } : State).happens .meridianTick = false ∧
    span.svc.frozen = false ∧ span.svc.dead = false ∧ (∀ r ∈ span.ranges, r.mq = [] ∧ r.late = []) := by decide
/-- The word began to wait and is charged already. -/
theorem wit_billed : issues 0x00 (w .b32 unused unused unused) (span.modCtx 1 fun c => { c with billed := true }) (fun i => i.c.billed) = true ∧
    issues 0x00 (w .b32 unused unused unused) span (fun i => !i.c.billed) = true := by decide

end Sys2Proof.Tests
end

section
/-! SUPPORT. What the issue of a word hands to its body, and what the end of the issue makes of the context: the values that
land when a word is taken up, the places of the contexts, which no end of an issue changes, and the trap frame. -/

namespace Sys2Proof.Machine

/-! ## Taking a word up -/

/-- What decides who has the trap slot of a core: the number, range, core, kind and trap state of a context. -/
structure Place where
  id : Nat
  range : Nat
  core : Nat
  kind : Kind
  trap : TrapState

/-- What a context is to its core, whatever values it holds: its place, its active slot, its residence and its wait. -/
structure Standing where
  place : Place
  active : Bool
  resident : Bool
  wait : Wait

def Ctx.place (c : Ctx) : Place := ⟨c.id, c.range, c.core, c.kind, c.trap⟩

def Ctx.standing (c : Ctx) : Standing := ⟨c.place, c.active, c.resident, c.wait⟩

/-- What every step of a fold leaves alone, the fold leaves alone. -/
theorem foldl_keeps {α β γ : Type} (g : β → γ) (f : β → α → β) (hf : ∀ b a, g (f b a) = g b) (xs : List α) (b : β) :
    g (xs.foldl f b) = g b :=
  (List.foldl_hom g fun b a => (hf b a).symm).symm.trans (List.foldl_fixed ..)

@[simp] theorem Ctx.writeForm_standing (c : Ctx) (r : Nat) (wide : Bool) (f : Form) :
    (c.writeForm r wide f).standing = c.standing := by
  cases f <;> rfl

@[simp] theorem Ctx.loosen_standing (c : Ctx) (r : Nat) : (c.loosen r).standing = c.standing := by
  unfold Ctx.loosen; split <;> rfl

@[simp] theorem Ctx.setPred_standing (c : Ctx) (p : Nat) (lane : Option Nat) (v : Bool) :
    (c.setPred p lane v).standing = c.standing := by
  cases lane <;> rfl

@[simp] theorem Ctx.land_standing (c : Ctx) (x : Landing) : (c.land x).standing = c.standing := by
  unfold Ctx.land
  split
  · rfl
  · split <;> rfl
  · rw [Ctx.writeForm_standing, Ctx.loosen_standing]
  · rw [Ctx.setPred_standing]

@[simp] theorem Ctx.landOne_standing (c : Ctx) (mine : List Landing) (x : Landing) :
    (c.landOne mine x).standing = c.standing := by
  unfold Ctx.landOne
  dsimp only
  split
  · split
    · rw [Ctx.writeForm_standing, Ctx.land_standing]
    · rw [Ctx.land_standing]
  · split
    · exact Ctx.land_standing c x
    · rw [Ctx.land_standing]
  · rw [Ctx.land_standing]

@[simp] theorem Ctx.landTok_standing (c : Ctx) (t : Nat) : (c.landTok t).standing = c.standing :=
  foldl_keeps Ctx.standing _ (fun b x => Ctx.landOne_standing b _ x) _ c

/-- Of a context's standing, taking a word up ends the wait alone. -/
theorem Ctx.takesUp_standing (c : Ctx) (h : Hints) : (c.takesUp h).standing = { c.standing with wait := .none } := by
  have landed : ((waitedOf h).foldl (fun (c : Ctx) t => c.landTok t) { c with wait := .none }).standing =
      { c.standing with wait := .none } :=
    foldl_keeps Ctx.standing _ Ctx.landTok_standing _ _
  unfold Ctx.takesUp
  dsimp only
  split <;> exact landed

@[simp] theorem Ctx.predView_standing (c : Ctx) (fresh : Nat) : (c.predView fresh).standing = c.standing := by
  refine foldl_keeps Ctx.standing _ (fun b x => ?_) c.landing c
  split
  · split
    · exact Ctx.setPred_standing ..
    · rfl
  · rfl

@[simp] theorem Ctx.blurHalves_standing (c : Ctx) (rs : List Nat) : (c.blurHalves rs).standing = c.standing := by
  refine foldl_keeps Ctx.standing _ (fun b x => ?_) rs c
  split <;> rfl

theorem Ctx.blurHalves_id (c : Ctx) (rs : List Nat) : (c.blurHalves rs).id = c.id :=
  congrArg (·.place.id) (Ctx.blurHalves_standing c rs)

theorem Ctx.takesUp_id (c : Ctx) (h : Hints) : (c.takesUp h).id = c.id := congrArg (·.place.id) (Ctx.takesUp_standing c h)

/-! ## The issue of a word -/

@[simp] theorem State.passHold_ctxs (s : State) (c : Ctx) : (s.passHold c).ctxs = s.ctxs := by
  unfold State.passHold; dsimp only; split <;> rfl

@[simp] theorem State.passHold_launchOf (s : State) (c d : Ctx) : (s.passHold c).launchOf d = s.launchOf d := by
  unfold State.passHold; dsimp only; split <;> rfl

@[simp] theorem State.matrixWaited_ctxs (s : State) (c : Ctx) (toks : List Nat) : (s.matrixWaited c toks).ctxs = s.ctxs := by
  unfold State.matrixWaited; split <;> rfl

theorem State.range_modRange (s : State) (id k : Nat) (f : Range → Range) (hf : ∀ r, r.id = id → (f r).id = id) :
    (s.modRange id f).range k = (s.range k).map fun r => if k = id then f r else r :=
  find_map_id Range.id f id k hf s.ranges

@[simp] theorem State.matrixWaited_launchOf (s : State) (c d : Ctx) (toks : List Nat) :
    (s.matrixWaited c toks).launchOf d = s.launchOf d := by
  unfold State.matrixWaited
  split
  · unfold State.launchOf
    rw [State.range_modRange _ _ _ (fun r => { r with late := r.late.filter fun e => !e.tok.any toks.contains })
      fun _ h => h]
    cases s.range d.range with
    | none => rfl
    | some r => by_cases hr : d.range = c.range <;> simp only [Option.map_some, hr, if_true, if_false] <;> rfl
  · rfl

theorem State.launchOf_congr (s : State) {c d : Ctx} (h : d.range = c.range) : s.launchOf d = s.launchOf c := by
  unfold State.launchOf; rw [h]

section
variable {s : State} {c : Ctx} (l : Launch) (r : Range) (words : Nat) (pc : W64) (issuing lanes : List Nat) (h : Hints)

/-- The state of an issue holds the context that has taken the word up. -/
theorem issOf_ctx (hc : s.ctx s.cur = some c) :
    (issOf s c l r words pc issuing lanes h).s.ctx s.cur = some (c.takesUp h) := by
  have hid : (c.takesUp h).id = s.cur := (Ctx.takesUp_id c h).trans (State.ctx_id hc)
  have before : ((s.nextFresh.passHold c).matrixWaited c (waitedOf h)).ctx (c.takesUp h).id = some c := by
    rw [hid, ← hc]; unfold State.ctx; rw [State.matrixWaited_ctxs, State.passHold_ctxs]; rfl
  have := State.ctx_setCtx_same before
  rwa [hid] at this

theorem issOf_launchOf (d : Ctx) : (issOf s c l r words pc issuing lanes h).s.launchOf d = s.launchOf d :=
  (State.matrixWaited_launchOf ..).trans (State.passHold_launchOf ..)

/-- The context that the body of a word reads is the one that has taken it up, but for the values in flight. -/
theorem issOf_standing : (issOf s c l r words pc issuing lanes h).c.standing = { c.standing with wait := .none } :=
  (Ctx.predView_standing ..).trans (Ctx.takesUp_standing c h)

end

theorem Iss.reading_standing (i : Iss) (rs : List Nat) : (i.reading rs).c.standing = i.c.standing := by
  unfold Iss.reading
  split
  · exact Ctx.blurHalves_standing ..
  · rfl

@[simp] theorem Iss.reading_l (i : Iss) (rs : List Nat) : (i.reading rs).l = i.l := by
  unfold Iss.reading; split <;> rfl

theorem Iss.reading_launchOf (i : Iss) (rs : List Nat) (d : Ctx) : (i.reading rs).s.launchOf d = i.s.launchOf d := by
  unfold Iss.reading; split <;> rfl

/-- Reading the odd half of an affine pair changes values alone (R71). -/
theorem Iss.reading_ctx {i : Iss} {d : Ctx} (rs : List Nat) (hd : i.s.ctx i.c.id = some d) :
    ∃ e, (i.reading rs).s.ctx i.c.id = some e ∧ e.standing = d.standing := by
  unfold Iss.reading
  split
  · exact ⟨_, State.ctx_modCtx_same hd _ fun c hc => (Ctx.blurHalves_id c rs).trans hc, Ctx.blurHalves_standing d rs⟩
  · exact ⟨d, hd, rfl⟩

/-- A word that nothing stops comes to an issue of the current context, whose state holds the context as it has taken the word
up. -/
theorem issueOn_takesUp {words : Nat} {odds : List Nat} {g : Guard} {h : Hints} {legal : Ctx → Launch → Bool}
    {avail : Ctx → Option Nat} {repro : Ctx → Bool} {s : State} {i : Iss}
    (hi : issueOn words odds g h legal avail repro s = some i) :
    ∃ c d, s.ctx s.cur = some c ∧ i.c.id = s.cur ∧ i.s.ctx i.c.id = some d ∧
      d.standing = { c.standing with wait := .none } ∧ i.c.place = d.place ∧ i.s.launchOf d = some i.l := by
  unfold issueOn at hi
  split at hi
  · cases hi
  · rename_i c hc
    split at hi
    · rename_i r l pc issuing hr hl hn
      split at hi
      · rename_i lanes hg
        split at hi
        · cases hi
          have hiss := issOf_standing (s := s) (c := c) l r words pc issuing lanes h
          have hid : (issOf s c l r words pc issuing lanes h).c.id = s.cur :=
            (congrArg (·.place.id) hiss).trans (State.ctx_id hc)
          have hread := Iss.reading_standing (issOf s c l r words pc issuing lanes h) odds
          have hreadId := congrArg (·.place.id) hread
          obtain ⟨d, hd, hds⟩ := Iss.reading_ctx odds (hid ▸ issOf_ctx l r words pc issuing lanes h hc)
          rw [Ctx.takesUp_standing] at hds
          have hplace := congrArg Standing.place (hread.trans (hiss.trans hds.symm))
          have hrange : d.range = c.range := congrArg (·.place.range) hds
          refine ⟨c, d, hc, hreadId.trans hid, (by rwa [show (Iss.reading _ odds).c.id = _ from hreadId]), hds, hplace, ?_⟩
          rw [Iss.reading_launchOf, issOf_launchOf, State.launchOf_congr s hrange, hl, Iss.reading_l]
          rfl
        · cases hi
      · cases hi
    · cases hi

/-! ## The words that no body runs -/

section
variable {op : Nat} {f : Fields} {body : Iss → State → Res} {s : State} {c : Ctx} {r : Range} {l : Launch} {pc : W64}
  {issuing : List Nat} (hc : s.ctx s.cur = some c) (hr : s.range c.range = some r) (hl : s.launchOf c = some l)
  (hn : c.nextIssue = some (pc, issuing)) (hcan : s.canIssue c = true)
include hc hr hl hn hcan

/-- A word that is not legal takes ILLEGAL (R37). -/
theorem issueF_illegal (hlegal : ((sig op f).ok && legalF op f c l) = false) :
    issueF op f body s = .next (s.nextFresh.illegal c issuing 0 pc (pc + 12 * BitVec.ofNat 64 (codeWords f))) := by
  unfold issueF issueWord
  simp only [hc, hr, hl, hn, hcan, hlegal, Bool.not_true, Bool.not_false, Bool.false_eq_true, if_false, if_true]
  rfl

/-- A word that its guard turns off for every item only advances (R38). -/
theorem issueF_off {i : Iss} (hlegal : ((sig op f).ok && legalF op f c l) = true) (havail : availability op f.space c = none)
    (htok : ∀ t ∈ waitedOf f.h, s.tokBusy c.id t = false)
    (hi : issOf s c l r (codeWords f) pc issuing [] f.h = i) (hoff : i.c.guard f.g issuing = .off) :
    issueF op f body s = .next (i.s.guardedOff i (i.cycles op f)) := by
  have hbusy : (waitedOf f.h).any (s.tokBusy c.id) = false := by simpa using htok
  have hword : issueF op f body s = issueWord op (codeWords f) (f.odds op) f.g f.h (fun i => i.cycles op f)
      (fun c l => (sig op f).ok && legalF op f c l) (fun c => availability op f.space c) (fun c => reproWord op f c) none
      body s := rfl
  subst hi
  rw [hword]
  unfold issueWord
  simp only [hc, hr, hl, hn, hcan, hlegal, havail, hbusy, hoff, Bool.not_true, Bool.false_eq_true, if_false]

end

/-! ## The context at the end of an issue -/

/-- The standing of a context after an issue: it gives up its active slot when it yields outside the trap slot (R24, R25,
R153). -/
def Ctx.yields (c : Ctx) (yld : Bool) : Standing := { c.standing with active := c.active && !(yld && c.trap != .slot) }

/-- The context as an issue that counts, unless its word was billed as it began to wait, leaves it; `h` meters the charge. -/
def Ctx.issueOver (c : Ctx) (h : List Sub → List Sub) (billed yld : Bool) : Ctx :=
  { c with
    subs := h c.subs, issued := c.issued + (!billed).toNat, billed := false
    active := c.active && !(yld && c.trap != .slot) }

theorem State.afterIssue_ctx {s : State} {c d : Ctx} (cycles present : Nat) (yld : Bool) (hd : s.ctx c.id = some d) :
    ∃ e, (s.afterIssue c cycles present yld).ctx c.id = some e ∧ e.standing = d.yields yld := by
  obtain ⟨h, he⟩ := State.afterIssue_ctxs s c cycles present yld
  have ended := State.ctx_modCtx_same hd (fun d => d.issueOver h c.billed yld) fun _ hid => hid
  refine ⟨d.issueOver h c.billed yld, ?_, rfl⟩
  rw [← ended]
  unfold State.ctx
  rw [he]
  rfl

theorem State.hold_ctx {s : State} {i : Iss} {d : Ctx} (hd : s.ctx i.c.id = some d) :
    ∃ e, (s.hold i).ctx i.c.id = some e ∧ e.standing = d.standing := by
  unfold State.hold
  split
  · exact ⟨d, hd, rfl⟩
  · exact ⟨_, State.ctx_modCtx_same hd _ fun _ hid => hid, rfl⟩

theorem Ctx.advance_standing (c : Ctx) (issuing : List Nat) (next : W64) :
    (c.advance issuing next).standing = c.standing := by
  unfold Ctx.advance; split <;> rfl

/-- The standing of the context once its word is past: only the active slot may change. -/
theorem State.advanced_ctx {s : State} {i : Iss} {d : Ctx} (cycles present : Nat) (yld : Bool)
    (hd : s.ctx i.c.id = some d) :
    ∃ e, (((s.modCtx i.c.id fun c => c.advance i.issuing i.next).afterIssue i.c cycles present yld).hold i).ctx i.c.id =
        some e ∧ e.standing = d.yields yld := by
  have hadv := State.ctx_modCtx_same hd (fun c => c.advance i.issuing i.next) fun c hc => (c.advance_id ..).trans hc
  obtain ⟨e, he, hes⟩ := State.afterIssue_ctx cycles present yld hadv
  obtain ⟨e', he', hes'⟩ := State.hold_ctx he
  refine ⟨e', he', hes'.trans (hes.trans ?_)⟩
  exact congrArg (fun x : Standing => { x with active := x.active && !(yld && x.place.trap != TrapState.slot) })
    (d.advance_standing i.issuing i.next)

/-! ## The places of the contexts -/

/-- The contexts of two states have the same places, and belong to the same launches. -/
structure State.SamePlaces (t s : State) : Prop where
  ranges : t.ranges = s.ranges
  launches : t.launches = s.launches
  svc : t.svc = s.svc
  places : t.ctxs.map Ctx.place = s.ctxs.map Ctx.place

namespace State.SamePlaces

theorem refl (s : State) : s.SamePlaces s := ⟨rfl, rfl, rfl, rfl⟩

theorem trans {s t u : State} (h : u.SamePlaces t) (h' : t.SamePlaces s) : u.SamePlaces s :=
  ⟨h.ranges.trans h'.ranges, h.launches.trans h'.launches, h.svc.trans h'.svc, h.places.trans h'.places⟩

theorem modCtx (s : State) (id : Nat) (f : Ctx → Ctx) (hf : ∀ c, (f c).place = c.place) : (s.modCtx id f).SamePlaces s := by
  refine ⟨rfl, rfl, rfl, ?_⟩
  show (s.ctxs.map _).map _ = _
  rw [List.map_map]
  refine List.map_congr_left fun c _ => ?_
  simp only [Function.comp]
  split
  · exact hf c
  · rfl

theorem afterIssue (s : State) (c : Ctx) (cycles present : Nat) (yld : Bool) :
    (s.afterIssue c cycles present yld).SamePlaces s := by
  have frame := State.afterIssue_frame s c cycles present yld
  obtain ⟨h, he⟩ := State.afterIssue_ctxs s c cycles present yld
  refine ⟨(congrArg State.ranges frame :), (congrArg State.launches frame :), (congrArg State.svc frame :), ?_⟩
  rw [he, List.map_map]
  refine List.map_congr_left fun d _ => ?_
  simp only [Function.comp]
  split <;> rfl

variable {s t : State} (h : t.SamePlaces s)
include h

theorem ctx {k : Nat} {d : Ctx} (hd : s.ctx k = some d) : ∃ e, t.ctx k = some e ∧ e.place = d.place := by
  have look (u : State) : (u.ctx k).map Ctx.place = (u.ctxs.map Ctx.place).find? fun p => p.id == k := by
    rw [List.find?_map]; rfl
  have := look t
  rw [h.places, ← look s, hd] at this
  simpa using this

theorem launchOf (c : Ctx) : t.launchOf c = s.launchOf c := by
  unfold State.launchOf State.range State.launch
  rw [h.ranges, h.launches]

theorem physCore (range k : Nat) : t.physCore range k = s.physCore range k := by
  unfold State.physCore State.range State.workCores
  rw [h.ranges, h.svc]

theorem all (q : Place → Bool) : (t.ctxs.all fun c => q c.place) = s.ctxs.all fun c => q c.place := by
  have := congrArg (fun ps => ps.all q) h.places
  simpa [List.all_map, Function.comp_def] using this

theorem slotOpen (range core : Nat) : t.slotOpen range core = s.slotOpen range core := by
  unfold State.slotOpen State.slotFree
  simp only [h.physCore]
  exact congrArg₂ _
    (h.all fun p => !(p.range == range && s.physCore range p.core == s.physCore range core && p.trap == .slot))
    (h.all fun p => !(p.range == range && s.physCore range p.core == s.physCore range core && (match p.trap with
      | .queued _ => true
      | _ => false)))

end State.SamePlaces

theorem Ctx.advancePast_place (c : Ctx) (past : Nat) (next : W64) : (c.advancePast past next).place = c.place := rfl

/-- An issue that ends with a trap takes it in a state whose contexts are where they were. -/
theorem finish_trap (i : Iss) (op cycles : Nat) (s : State) (cls detail mask past : Nat) :
    ∃ t : State, t.SamePlaces s ∧
      finish i op cycles (.trap s cls detail mask past) = t.takeTrap i.c.id cls detail mask i.pc i.next := by
  refine ⟨_, ?_, rfl⟩
  have whole (u : State) : (u.wholeWord i.c.id).SamePlaces u :=
    State.SamePlaces.modCtx u i.c.id (fun c => { c with part := 0, visited := [] }) fun _ => rfl
  refine (State.SamePlaces.modCtx _ _ _ fun c => c.advancePast_place _ _).trans ((whole _).trans ?_)
  split
  · exact State.SamePlaces.afterIssue ..
  · exact State.SamePlaces.refl s

/-- A trap with a handler: the frame is written, and the context enters the trap slot or waits for it (R137). -/
theorem State.takeTrap_handled {s : State} {id : Nat} {c : Ctx} {l : Launch} {entry : W64} (cls detail mask : Nat)
    (pc next : W64) (hc : s.ctx id = some c) (hl : s.launchOf c = some l) (ht : c.trap ≠ .slot) (hk : c.kind ≠ .control)
    (he : l.trapEntry = some entry) :
    ∃ d, (s.takeTrap id cls detail mask pc next).ctx id = some d ∧ d.priv = (c.trapped cls detail mask pc next).priv ∧
      (s.slotOpen c.range c.core = true → d.trap = .slot ∧ d.pc = entry) ∧
      (s.slotOpen c.range c.core = false → ∃ n, d.trap = .queued n) := by
  cases hfree : s.slotOpen c.range c.core with
  | true =>
    have entered := State.takeTrap_slot cls detail mask pc next hc hl ht hk he hfree
    exact ⟨_, entered, rfl, fun _ => ⟨rfl, rfl⟩, fun h => (by cases h)⟩
  | false =>
    have queued := State.takeTrap_queued cls detail mask pc next hc hl ht hk he hfree
    exact ⟨_, queued, by dsimp only, fun h => (by cases h), fun _ => ⟨_, rfl⟩⟩

/-! ## The trap frame -/

@[simp] theorem leBytes_length (n v : Nat) : (leBytes n v).length = n := by
  induction n generalizing v with
  | zero => rfl
  | succ n ih => rw [leBytes, List.length_cons, ih]

@[simp] theorem leVal_leBytes (n v : Nat) : leVal (leBytes n v) = v % 256 ^ n := by
  induction n generalizing v with
  | zero => simp [leBytes, leVal, Nat.mod_one]
  | succ n ih => rw [leBytes, leVal, ih, BitVec.toNat_ofNat, Nat.pow_succ' (m := 256), Nat.mod_mul]

/-- Bytes written among others read back. -/
theorem Memory.readN_writeN_append (m : Memory) (a : Nat) (xs ys zs : List Byte) :
    (m.writeN a (xs ++ (ys ++ zs))).readN (a + xs.length) ys.length = ys := by
  refine List.ext_getElem (by simp) fun k h1 h2 => ?_
  simp only [Memory.readN, List.getElem_map, List.getElem_range, Nat.add_assoc]
  rw [Memory.read_writeN_inside _ _ _ _ (by simp; omega)]
  simp [List.getElem_append_right, List.getElem_append_left, h2]

/-- A number written at an offset of the block of a context is the value there (R138). -/
theorem privVal_of_writeN {d : Ctx} {m : Memory} {xs zs : List Byte} {n v : Nat}
    (hd : d.priv = m.writeN 0 (xs ++ (leBytes n v ++ zs))) : Rules.privVal d xs.length n = v % 256 ^ n := by
  have := Memory.readN_writeN_append m 0 xs (leBytes n v) zs
  rw [leBytes_length, Nat.zero_add] at this
  unfold Rules.privVal
  rw [hd, this, leVal_leBytes]

/-- The trap frame starts with CAUSE, whose first bytes are the class and DETAIL, PC, NEXTPC and LANEMASK (R138). -/
theorem Ctx.frameHead_starts (c : Ctx) (cls detail mask : Nat) (pc next : W64) : ∃ flags rest,
    c.frameHead cls detail mask pc next =
      leBytes 8 (cls + detail * 2 ^ 8 + flags * 2 ^ 16) ++
        (leBytes 8 pc.toNat ++ (leBytes 8 next.toNat ++ (leBytes 8 mask ++ rest))) := by
  unfold Ctx.frameHead
  have flags (x a b k : Nat) : x + a * 2 ^ 16 + b * 2 ^ 17 + k * 2 ^ 18 = x + (a + 2 * b + 4 * k) * 2 ^ 16 := by omega
  simp only [List.append_assoc]
  rw [flags]
  exact ⟨_, _, rfl⟩

/-- The class, DETAIL, NEXTPC and LANEMASK of a frame that a trap has written. -/
theorem Ctx.trapped_frame {c d : Ctx} {cls detail mask : Nat} {pc next : W64}
    (hd : d.priv = (c.trapped cls detail mask pc next).priv) (hcls : cls < 256) (hdetail : detail < 256) :
    Rules.privVal d 0x000 1 = cls ∧ Rules.privVal d 0x001 1 = detail ∧ Rules.privVal d 0x018 8 = mask % 2 ^ 64 ∧
      Rules.privVal d 0x010 8 = next.toNat := by
  obtain ⟨flags, rest, hhead⟩ := c.frameHead_starts cls detail mask pc next
  simp only [Ctx.trapped, hhead, List.append_assoc] at hd
  generalize hw : cls + detail * 2 ^ 8 + flags * 2 ^ 16 = cause at hd
  generalize hm : c.priv = m at hd
  have split : leBytes 8 cause = leBytes 1 cause ++ (leBytes 1 (cause / 256) ++ leBytes 6 (cause / 256 / 256)) := rfl
  have hclass := privVal_of_writeN (xs := []) (n := 1) (v := cause)
    (by rw [hd, split]; simp only [List.append_assoc, List.nil_append]; rfl)
  have hdet := privVal_of_writeN (xs := leBytes 1 cause) (n := 1) (v := cause / 256)
    (by rw [hd, split]; simp only [List.append_assoc]; rfl)
  have hnext := privVal_of_writeN (xs := leBytes 8 cause ++ leBytes 8 pc.toNat) (n := 8) (v := next.toNat)
    (by rw [hd]; simp only [List.append_assoc]; rfl)
  have hmask := privVal_of_writeN (xs := leBytes 8 cause ++ (leBytes 8 pc.toNat ++ leBytes 8 next.toNat)) (n := 8)
    (v := mask) (by rw [hd]; simp only [List.append_assoc]; rfl)
  simp only [List.length_append, List.length_nil, leBytes_length] at hclass hdet hnext hmask
  refine ⟨hclass.trans (by omega), hdet.trans (by omega), hmask, hnext.trans ?_⟩
  exact Nat.mod_eq_of_lt next.isLt

end Sys2Proof.Machine
end

section
/-! PROOFS. The core instructions stated whole: NOP and YIELD (R153), TRAP and BRK (R155). -/

namespace Sys2Proof.Machine

/-! ## NOP and YIELD -/

theorem exec_nop_ends {f : Fields} {s : State} {i : Iss} (hi : issueOf 0x00 f s = some i) :
    exec (.nop f) s = i.ends 0x00 f i.s := issueF_ends (body := fun _ s => .done s) hi rfl

theorem exec_yield_ends {f : Fields} {s : State} {i : Iss} (hi : issueOf 0x06 f s = some i) :
    exec (.yield f) s = i.ends 0x06 f i.s := issueF_ends (body := fun _ s => .done s) hi rfl

/-- A context that can issue is active, unless it is a control program or in the trap slot (R136, R137). -/
theorem State.canIssue_active {s : State} {c : Ctx} (h : s.canIssue c = true) (hkind : c.kind ≠ .control)
    (htrap : c.trap = .none) : c.active = true := by
  have hturn : (c.active || c.kind == .control) = true := by
    simp only [State.canIssue, State.mayIssue, htrap, Bool.and_eq_true] at h
    tauto
  simpa [hkind] using hturn

/-- After YIELD the context has no active slot and waits for nothing (R153). -/
theorem exec_yield_ctx {f : Fields} {s : State} {i : Iss} {c : Ctx} (hi : issueOf 0x06 f s = some i)
    (hc : s.ctx s.cur = some c) (hslot : c.trap = .slot → c.active = false) :
    ∃ t d, exec (.yield f) s = .next t ∧ t.ctx s.cur = some d ∧ d.active = false ∧ d.wait = .none ∧
      d.resident = c.resident := by
  obtain ⟨c', d, hc', hid, hd, hdc, -, -⟩ := issueOn_takesUp hi
  obtain rfl : c = c' := Option.some.inj (hc.symm.trans hc')
  have whole := State.ctx_modCtx_same hd (fun c => { c with part := 0, visited := [] }) fun _ h => h
  obtain ⟨e, he, hes⟩ := State.advanced_ctx (i.cycles 0x06 f)
    (i.lanes.length + (i.issuing.filter (bitOf i.c.part)).length) (i.h.yld || 0x06 == 0x06) whole
  have hwait : e.wait = d.wait := congrArg Standing.wait hes
  have hres : e.resident = d.resident := congrArg Standing.resident hes
  have hact : e.active = (d.active && !((i.h.yld || 0x06 == 0x06) && d.trap != .slot)) := congrArg Standing.active hes
  refine ⟨_, e, exec_yield_ends hi, hid ▸ he, ?_, hwait.trans (congrArg Standing.wait hdc),
    hres.trans (congrArg Standing.resident hdc)⟩
  rw [hact, show d.active = c.active from congrArg Standing.active hdc, show d.trap = c.trap from congrArg (·.place.trap) hdc]
  by_cases ht : c.trap = .slot
  · rw [hslot ht]; rfl
  · simp [ht]

/-- A YIELD that its guard turns off gives up the slot by its YLD hint alone (R38). -/
theorem exec_yield_off {f : Fields} {s : State} {c : Ctx} {r : Range} {l : Launch} {pc : W64} {issuing : List Nat}
    (hc : s.ctx s.cur = some c) (hr : s.range c.range = some r) (hl : s.launchOf c = some l)
    (hn : c.nextIssue = some (pc, issuing)) (hcan : s.canIssue c = true)
    (hlegal : ((sig 0x06 f).ok && legalF 0x06 f c l) = true) (havail : availability 0x06 f.space c = none)
    (htok : ∀ t ∈ waitedOf f.h, s.tokBusy c.id t = false)
    (hoff : (issOf s c l r (codeWords f) pc issuing [] f.h).c.guard f.g issuing = .off) :
    ∃ t d, exec (.yield f) s = .next t ∧ t.ctx s.cur = some d ∧
      d.active = ((c.active || (c.kind != .control && c.trap == .none)) && !(f.h.yld && c.trap != .slot)) := by
  have hid : (issOf s c l r (codeWords f) pc issuing [] f.h).c.id = s.cur :=
    (congrArg (·.place.id) (issOf_standing ..)).trans (State.ctx_id hc)
  have hd := issOf_ctx l r (codeWords f) pc issuing [] f.h hc
  have htaken := Ctx.takesUp_standing c f.h
  generalize hi : issOf s c l r (codeWords f) pc issuing [] f.h = i at hoff hid hd
  rw [← hid] at hd
  obtain ⟨e, he, hes⟩ := State.advanced_ctx (i.cycles 0x06 f) 0 i.h.yld hd
  have hact : e.active = ((c.takesUp f.h).active && !(i.h.yld && (c.takesUp f.h).trap != .slot)) :=
    congrArg Standing.active hes
  rw [show (c.takesUp f.h).active = c.active from congrArg Standing.active htaken,
    show (c.takesUp f.h).trap = c.trap from congrArg (·.place.trap) htaken, show i.h = f.h by rw [← hi]; rfl] at hact
  have hready : (c.active || (c.kind != .control && c.trap == .none)) = c.active :=
    Bool.or_eq_left_iff_imp.mpr fun hw => by
      obtain ⟨hkind, htrap⟩ : c.kind ≠ .control ∧ c.trap = .none := by simpa using hw
      exact State.canIssue_active hcan hkind htrap
  exact ⟨_, e, issueF_off (op := 0x06) (body := fun _ s => .done s) hc hr hl hn hcan hlegal havail htok hi hoff, hid ▸ he,
    by rw [hready, hact]⟩

/-- Settles O58: of the context's standing, the end of an issue changes the active slot alone. -/
theorem yieldGivesUpSlot : Obligations.YieldGivesUpSlot :=
  ⟨fun _ _ _ hi => exec_nop_ends hi,
    fun _ _ _ _ hi hc hslot => ⟨exec_yield_ends hi, exec_yield_ctx hi hc hslot⟩,
    fun _ _ _ _ _ _ _ hc hr hl hn hcan hlegal havail htok hoff =>
      exec_yield_off hc hr hl hn hcan hlegal havail htok hoff⟩

/-! ## TRAP and BRK -/

/-- A word that raises BRK with a code: its frame, and its place in the trap slot or in the queue for it (R137, R155). -/
theorem issueF_breaks {op code : Nat} {f : Fields} {s : State} {i : Iss} {entry : W64} (hi : issueOf op f s = some i)
    (hcode : code < 256) (hkind : i.c.kind ≠ .control) (hslot : i.c.trap ≠ .slot) (hentry : i.l.trapEntry = some entry) :
    ∃ t d, issueF op f (trapBody code) s = .next t ∧ t.ctx i.c.id = some d ∧
      Rules.privVal d 0x000 1 = 7 ∧ Rules.privVal d 0x001 1 = code ∧ Rules.privVal d 0x018 8 = maskOf i.lanes % 2 ^ 64 ∧
      Rules.privVal d 0x010 8 = i.next.toNat ∧
      (i.s.slotOpen i.c.range i.c.core = true → d.trap = .slot ∧ d.pc = entry) ∧
      (i.s.slotOpen i.c.range i.c.core = false → ∃ n, d.trap = .queued n) := by
  obtain ⟨-, d, -, -, hd, -, hplace, hl⟩ := issueOn_takesUp hi
  obtain ⟨t, hplaces, hfin⟩ := finish_trap i op (i.cycles op f) i.s 7 code (maskOf i.lanes) 0
  obtain ⟨e, he, hed⟩ := hplaces.ctx hd
  have hei : e.place = i.c.place := hed.trans hplace.symm
  have hrange : e.range = i.c.range := congrArg Place.range hei
  have hcore : e.core = i.c.core := congrArg Place.core hei
  have htrap : e.trap = i.c.trap := congrArg Place.trap hei
  have hk : e.kind = i.c.kind := congrArg Place.kind hei
  have hle : t.launchOf e = some i.l := by
    rw [hplaces.launchOf, State.launchOf_congr _ (show e.range = d.range from congrArg Place.range hed), hl]
  obtain ⟨x, hx, hpriv, hopen, hqueued⟩ := State.takeTrap_handled 7 code (maskOf i.lanes) i.pc i.next he hle (htrap ▸ hslot)
    (hk ▸ hkind) hentry
  rw [hplaces.slotOpen, hrange, hcore] at hopen hqueued
  obtain ⟨hclass, hdetail, hmask, hnext⟩ := Ctx.trapped_frame hpriv (by decide) hcode
  refine ⟨_, x, ?_, hx, hclass, hdetail, hmask, hnext, hopen, hqueued⟩
  rw [issueF_of hi, ← hfin]
  rfl

/-- TRAP with code 0 is no legal word (R155). -/
theorem sig_trap_zero {f : Fields} (hx : f.x = 0) : (sig 0x08 f).ok = false := by
  simp [sig, sigControl, Sig.ok, hx]

/-- Settles O59: the trap writes its frame and finds its place in a state whose contexts are where the issue found them; a
TRAP with X = 0 fails the check of its word. -/
theorem trapAndBreak : Obligations.TrapAndBreak := by
  unfold Obligations.TrapAndBreak
  refine ⟨?_, fun f s c r l pc issuing hc hr hl hn hcan hx => ?_⟩
  · rw [List.forall_mem_cons, List.forall_mem_singleton]
    constructor
    · intro f s i entry hi hkind hslot _ hentry
      exact issueF_breaks hi f.x.isLt hkind hslot hentry
    · intro f s i entry hi hkind hslot _ hentry
      exact issueF_breaks hi (by decide) hkind hslot hentry
  · exact issueF_illegal (body := trapBody f.x.toNat) hc hr hl hn hcan (by rw [sig_trap_zero hx]; rfl)

end Sys2Proof.Machine
end

section
/-! SUPPORT. The Meridian unit in FAILED and before its first sync, and what the issue of a word does to the scalars and the
time floor of its context. -/

namespace Sys2Proof.Machine

/-! ## The Meridian unit -/

/-- The pair that FAILED reports, and the copy of it that every die has (R306, R310). -/
def Meridian.Frozen (m : Meridian) (lo : Nat) : Prop :=
  m.state = 3 ∧ m.lo = lo ∧ m.hi = 2 ^ 64 - 1 ∧ m.dielo = lo ∧ m.diehi = 2 ^ 64 - 1

/-- The pair between reset and the first sync (R311). -/
def Meridian.Unsynced (m : Meridian) : Prop := m.synced = false ∧ m.lo = 0 ∧ m.hi = 2 ^ 64 - 1 ∧ m.state = 2

/-- The pair that a sync reports, and the STATE of its half-width (R309). -/
def Meridian.Reported (m : Meridian) (a b mulim : Nat) : Prop :=
  m.synced = true ∧ m.lo = a ∧ m.hi = b ∧
    m.state = (if mulim ≤ (b - a + 1) / 2 then 2 else if mulim < 4 * ((b - a + 1) / 2) then 1 else 0)

/-- The standby keeps a pair of its own: bounds that it takes change nothing else (R305). -/
theorem Meridian.standby_eq (m : Meridian) (nlo nhi : Nat) :
    ∃ slo shi, m.standby nlo nhi = { m with standbyLo := slo, standbyHi := shi } := by
  unfold Meridian.standby
  dsimp only
  split
  · exact ⟨m.standbyLo, m.standbyHi, rfl⟩
  · exact ⟨_, _, rfl⟩

section
variable {m : Meridian}

theorem Meridian.fail_frozen (cause : Nat) (h : m.state ≠ 3) : (m.fail cause).Frozen m.lo := by
  rw [Meridian.fail, if_neg (by simpa using h)]
  exact ⟨rfl, rfl, rfl, rfl, rfl⟩

/-- A cause that comes in FAILED changes nothing. -/
theorem Meridian.fail_of_failed (cause : Nat) (h : m.state = 3) : m.fail cause = m := by
  rw [Meridian.fail, if_pos (by simpa using h)]

theorem Meridian.sync_of_failed (nlo nhi cause : Nat) (h : m.state = 3) : m.sync nlo nhi cause = m := by
  rw [Meridian.sync, if_pos (by simpa using h)]

/-- Bounds that exclude the reported pair fail the unit (R303, R304). -/
theorem Meridian.sync_of_empty {nlo nhi : Nat} (cause : Nat) (h : m.state ≠ 3) (hempty : min m.hi nhi < max m.lo nlo) :
    m.sync nlo nhi cause = m.fail cause := by
  rw [Meridian.sync, if_neg (by simpa using h)]
  exact if_pos hempty

/-- Outside FAILED, STATE is that of the half-width (R309). -/
theorem Meridian.grade_eq (h : m.state ≠ 3) :
    m.grade = { m with state := if m.mulim ≤ m.munc then 2 else if m.mulim < 4 * m.munc then 1 else 0 } :=
  if_neg (by simpa using h)

/-- The first sync reports its bounds: no maximum with the pair of the reset (R311). -/
theorem Meridian.sync_first {nlo nhi : Nat} (cause : Nat) (h : m.Unsynced) (hle : nlo ≤ min (2 ^ 64 - 1) nhi) :
    (m.sync nlo nhi cause).Reported nlo (min (2 ^ 64 - 1) nhi) m.mulim := by
  obtain ⟨hsynced, hlo, hhi, hstate⟩ := h
  have hsync : m.sync nlo nhi cause =
      ({ m with clo := nlo * 2 ^ 32, chi := min (2 ^ 64 - 1) nhi * 2 ^ 32 } : Meridian).publish := by
    simp only [Meridian.sync, hlo, hhi, hstate, Nat.zero_max]
    exact if_neg (Nat.not_lt.mpr hle)
  have hfloor : nlo * 2 ^ 32 / 2 ^ 32 = nlo := by omega
  have hceil : min ((min (2 ^ 64 - 1) nhi * 2 ^ 32 + 2 ^ 32 - 1) / 2 ^ 32) timeTop = min (2 ^ 64 - 1) nhi := by
    unfold timeTop; omega
  rw [hsync, Meridian.publish]
  simp only [hsynced, hfloor, hceil, Bool.false_eq_true, if_false]
  rw [Meridian.grade_eq (by simp [hstate])]
  exact ⟨rfl, rfl, rfl, rfl⟩

/-- A tick moves the pair of the standby alone while the unit has no computed pair to advance (R302). -/
theorem Meridian.tick_eq (h : m.state = 3 ∨ m.synced = false) :
    ∃ slo shi, m.tick = { m with ticks := m.ticks + 1, standbyLo := slo, standbyHi := shi } := by
  rw [Meridian.tick]
  dsimp only
  rw [if_pos (by simpa using h)]
  exact ⟨_, _, rfl⟩

/-! ## Bounds that both units take -/

theorem Meridian.standby_sync_frozen {nlo nhi : Nat} (cause : Nat) (h : m.state ≠ 3)
    (hempty : min m.hi nhi < max m.lo nlo) : ((m.standby nlo nhi).sync nlo nhi cause).Frozen m.lo := by
  obtain ⟨slo, shi, he⟩ := m.standby_eq nlo nhi
  rw [he, Meridian.sync_of_empty (m := { m with standbyLo := slo, standbyHi := shi }) cause h hempty]
  exact Meridian.fail_frozen (m := { m with standbyLo := slo, standbyHi := shi }) cause h

theorem Meridian.Frozen.standby_sync {lo : Nat} (h : m.Frozen lo) (nlo nhi cause : Nat) :
    ((m.standby nlo nhi).sync nlo nhi cause).Frozen lo := by
  obtain ⟨slo, shi, he⟩ := m.standby_eq nlo nhi
  rw [he, Meridian.sync_of_failed (m := { m with standbyLo := slo, standbyHi := shi }) nlo nhi cause h.1]
  exact h

theorem Meridian.Unsynced.standby_sync {nlo nhi : Nat} (h : m.Unsynced) (cause : Nat) (hle : nlo ≤ min (2 ^ 64 - 1) nhi) :
    ((m.standby nlo nhi).sync nlo nhi cause).Reported nlo (min (2 ^ 64 - 1) nhi) m.mulim := by
  obtain ⟨slo, shi, he⟩ := m.standby_eq nlo nhi
  rw [he]
  exact Meridian.sync_first (m := { m with standbyLo := slo, standbyHi := shi }) cause h hle

end

/-! ## The events of the unit -/

/-- A timing flit at a port that carries data hands its shifted bounds to both units (R303). -/
theorem exec_timingFlit {s : State} {k : Nat} {p : Port} (lo hi : Nat) (hp : s.fabric.ports[k]? = some p)
    (hup : p.state = 2 ∨ p.state = 3) :
    ∃ last heard, exec (.timingFlit k lo hi) s = .next { s with mer :=
      { (s.mer.standby (lo + p.dmin) (hi + (p.rho - p.dmin))).sync (lo + p.dmin) (hi + (p.rho - p.dmin)) 1 with
        mlast := last, heard := heard } } := by
  have hcarries : p.carries = true := by simpa [Port.carries] using hup
  show ∃ last heard, execTimingFlit k lo hi s = _
  simp only [execTimingFlit, hp, hcarries, Bool.not_true, Bool.false_eq_true, if_false]
  exact ⟨_, _, rfl⟩

/-- A timing flit at any other port is not accepted. -/
theorem exec_timingFlit_down {s : State} {k : Nat} (lo hi : Nat)
    (h : ∀ p, s.fabric.ports[k]? = some p → ¬ (p.state = 2 ∨ p.state = 3)) : exec (.timingFlit k lo hi) s = .next s := by
  show execTimingFlit k lo hi s = _
  unfold execTimingFlit
  split
  · rfl
  · rename_i p hp
    exact if_pos (by simpa [Port.carries] using h p hp)

/-- A reference package hands the bounds of its reference input to both units (R304). -/
theorem exec_referenceInput {s : State} (x : Nat) (href : s.mer.ref ≠ 0) :
    exec (.referenceInput true x) s = .next { s with mer :=
      (s.mer.standby (x - s.mer.uref) (x + s.mer.uref)).sync (x - s.mer.uref) (x + s.mer.uref) 2 } :=
  if_neg (by simpa using href)

theorem exec_referenceInput_none {s : State} (x : Nat) (href : s.mer.ref = 0) : exec (.referenceInput true x) s = .next s :=
  if_pos (by simp [href])

/-- A standby that is not usable fails the unit (R305). -/
theorem exec_standbyTakeover_unusable {s : State} (h : s.mer.state ≠ 3) (hunit : s.mer.unit ≠ 1) :
    exec (.standbyTakeover false) s = .next { s with mer := ({ s.mer with unit := 1 } : Meridian).fail 4 } := by
  show execStandbyTakeover false s = _
  simp [execStandbyTakeover, h, hunit]

/-- In FAILED the standby takes over the register UNIT alone. -/
theorem exec_standbyTakeover_failed {s : State} (usable : Bool) (h : s.mer.state = 3) :
    exec (.standbyTakeover usable) s = .next { s with mer := { s.mer with unit := 1 } } := by
  show execStandbyTakeover usable s = _
  by_cases hunit : s.mer.unit = 1
  · have hsame : ({ s.mer with unit := 1 } : Meridian) = s.mer := by rw [← hunit]
    simp [execStandbyTakeover, hunit, hsame]
  · simp [execStandbyTakeover, hunit, h]

/-! ## The scalars and the time floor of a context that takes a word up -/

/-- What no landing changes: how many scalars a context has, and its time floor. -/
def Ctx.floors (c : Ctx) : Nat × Nat × Nat := (c.scal.length, c.floorLo, c.floorHi)

@[simp] theorem Ctx.writeScal_floors (c : Ctx) (r : Nat) (v : W64) : (c.writeScal r v).floors = c.floors := by
  simp [Ctx.floors, Ctx.writeScal]

@[simp] theorem Ctx.writeForm_floors (c : Ctx) (r : Nat) (wide : Bool) (f : Form) :
    (c.writeForm r wide f).floors = c.floors := by
  cases f <;> rfl

@[simp] theorem Ctx.loosen_floors (c : Ctx) (r : Nat) : (c.loosen r).floors = c.floors := by
  unfold Ctx.loosen; split <;> rfl

@[simp] theorem Ctx.setPred_floors (c : Ctx) (p : Nat) (lane : Option Nat) (v : Bool) :
    (c.setPred p lane v).floors = c.floors := by
  cases lane <;> rfl

@[simp] theorem Ctx.land_floors (c : Ctx) (x : Landing) : (c.land x).floors = c.floors := by
  unfold Ctx.land
  split
  · rw [Ctx.writeScal_floors]
  · split <;> rfl
  · rw [Ctx.writeForm_floors, Ctx.loosen_floors]
  · rw [Ctx.setPred_floors]

@[simp] theorem Ctx.landOne_floors (c : Ctx) (mine : List Landing) (x : Landing) : (c.landOne mine x).floors = c.floors := by
  have hland := Ctx.land_floors c x
  unfold Ctx.landOne
  dsimp only
  split
  · split
    · rw [Ctx.writeForm_floors, hland]
    · exact hland
  · split <;> exact hland
  · exact hland

@[simp] theorem Ctx.landTok_floors (c : Ctx) (t : Nat) : (c.landTok t).floors = c.floors :=
  foldl_keeps Ctx.floors _ (fun b x => Ctx.landOne_floors b _ x) _ c

@[simp] theorem Ctx.takesUp_floors (c : Ctx) (h : Hints) : (c.takesUp h).floors = c.floors := by
  have landed : ((waitedOf h).foldl (fun (c : Ctx) t => c.landTok t) { c with wait := .none }).floors = c.floors :=
    foldl_keeps Ctx.floors _ Ctx.landTok_floors _ { c with wait := .none }
  unfold Ctx.takesUp
  dsimp only
  split <;> exact landed

@[simp] theorem Ctx.predView_floors (c : Ctx) (fresh : Nat) : (c.predView fresh).floors = c.floors := by
  refine foldl_keeps Ctx.floors _ (fun b x => ?_) c.landing c
  split
  · split
    · exact Ctx.setPred_floors ..
    · rfl
  · rfl

@[simp] theorem Ctx.blurHalves_floors (c : Ctx) (rs : List Nat) : (c.blurHalves rs).floors = c.floors := by
  refine foldl_keeps Ctx.floors _ (fun b x => ?_) rs c
  split <;> rfl

theorem Iss.reading_floors (i : Iss) (rs : List Nat) : (i.reading rs).c.floors = i.c.floors := by
  unfold Iss.reading
  split
  · exact Ctx.blurHalves_floors ..
  · rfl

theorem Iss.reading_ctx_floors {i : Iss} {d : Ctx} (rs : List Nat) (hd : i.s.ctx i.c.id = some d) :
    ∃ e, (i.reading rs).s.ctx i.c.id = some e ∧ e.floors = d.floors := by
  unfold Iss.reading
  split
  · exact ⟨_, State.ctx_modCtx_same hd _ fun c hc => (Ctx.blurHalves_id c rs).trans hc, Ctx.blurHalves_floors d rs⟩
  · exact ⟨d, hd, rfl⟩

@[simp] theorem State.passHold_mer (s : State) (c : Ctx) : (s.passHold c).mer = s.mer := by
  unfold State.passHold; dsimp only; split <;> rfl

@[simp] theorem State.matrixWaited_mer (s : State) (c : Ctx) (toks : List Nat) : (s.matrixWaited c toks).mer = s.mer := by
  unfold State.matrixWaited; split <;> rfl

@[simp] theorem issOf_mer (s : State) (c : Ctx) (l : Launch) (r : Range) (words : Nat) (pc : W64) (issuing lanes : List Nat)
    (h : Hints) : (issOf s c l r words pc issuing lanes h).s.mer = s.mer :=
  (State.matrixWaited_mer ..).trans (State.passHold_mer ..)

@[simp] theorem Iss.reading_mer (i : Iss) (rs : List Nat) : (i.reading rs).s.mer = i.s.mer := by
  unfold Iss.reading; split <;> rfl

/-- An issue is that of a legal word of the current context (R36, R37). -/
theorem issueOn_eq_some {words : Nat} {odds : List Nat} {g : Guard} {h : Hints} {legal : Ctx → Launch → Bool}
    {avail : Ctx → Option Nat} {repro : Ctx → Bool} {s : State} {i : Iss}
    (hi : issueOn words odds g h legal avail repro s = some i) :
    ∃ c l r pc issuing lanes, s.ctx s.cur = some c ∧ legal c l = true ∧
      (issOf s c l r words pc issuing lanes h).reading odds = i := by
  unfold issueOn at hi
  split at hi
  · cases hi
  · rename_i c hc
    split at hi
    · rename_i r l pc issuing _ _ _
      split at hi
      · rename_i lanes _
        split at hi
        · rename_i hok
          simp only [Bool.and_eq_true] at hok
          obtain ⟨⟨⟨⟨-, hlegal⟩, -⟩, -⟩, -⟩ := hok
          exact ⟨c, l, r, pc, issuing, lanes, hc, hlegal, Option.some.inj hi⟩
        · cases hi
      · cases hi
    · cases hi

/-- The body of a word finds the Meridian unit, the time floor and the number of scalars as they were before the issue. -/
theorem issueOn_floors {words : Nat} {odds : List Nat} {g : Guard} {h : Hints} {legal : Ctx → Launch → Bool}
    {avail : Ctx → Option Nat} {repro : Ctx → Bool} {s : State} {i : Iss}
    (hi : issueOn words odds g h legal avail repro s = some i) :
    i.s.mer = s.mer ∧ ∃ c l d, legal c l = true ∧ i.s.ctx i.c.id = some d ∧ d.floors = c.floors ∧ i.c.floors = c.floors := by
  obtain ⟨c, l, r, pc, issuing, lanes, hc, hlegal, rfl⟩ := issueOn_eq_some hi
  have hiss := issOf_standing (s := s) (c := c) l r words pc issuing lanes h
  have hid : (issOf s c l r words pc issuing lanes h).c.id = s.cur :=
    (congrArg (·.place.id) hiss).trans (State.ctx_id hc)
  have hreadId : (Iss.reading _ odds).c.id = (issOf s c l r words pc issuing lanes h).c.id :=
    congrArg (·.place.id) (Iss.reading_standing _ odds)
  obtain ⟨d, hd, hdf⟩ := Iss.reading_ctx_floors odds (hid ▸ issOf_ctx l r words pc issuing lanes h hc)
  refine ⟨by rw [Iss.reading_mer, issOf_mer], c, l, d, hlegal, by rwa [hreadId], by rw [hdf, Ctx.takesUp_floors], ?_⟩
  rw [Iss.reading_floors]
  exact (Ctx.predView_floors ..).trans (Ctx.takesUp_floors ..)

/-! ## The scalars at the end of an issue -/

theorem State.afterIssue_ctx_eq {s : State} {c d : Ctx} (cycles present : Nat) (yld : Bool) (hd : s.ctx c.id = some d) :
    ∃ h, (s.afterIssue c cycles present yld).ctx c.id = some (d.issueOver h c.billed yld) := by
  obtain ⟨h, he⟩ := State.afterIssue_ctxs s c cycles present yld
  refine ⟨h, ?_⟩
  rw [← State.ctx_modCtx_same hd (fun d => d.issueOver h c.billed yld) fun _ hid => hid]
  unfold State.ctx
  rw [he]
  rfl

theorem State.hold_ctx_eq {s : State} {i : Iss} {d : Ctx} (hd : s.ctx i.c.id = some d) :
    ∃ till, (s.hold i).ctx i.c.id = some { d with heldTill := till } := by
  unfold State.hold
  split
  · exact ⟨d.heldTill, hd⟩
  · exact ⟨_, State.ctx_modCtx_same hd _ fun _ hid => hid⟩

@[simp] theorem Ctx.advance_scal (c : Ctx) (issuing : List Nat) (next : W64) : (c.advance issuing next).scal = c.scal :=
  (congrArg Ctx.scal (c.advance_keeps issuing next) :)

/-- The end of an issue leaves the scalars as the effect left them (R36). -/
theorem finish_done_scal {i : Iss} {s : State} {d : Ctx} (op cycles : Nat) (hd : s.ctx i.c.id = some d) :
    ∃ e, (finish i op cycles (.done s)).ctx i.c.id = some e ∧ e.scal = d.scal := by
  have hwhole := State.ctx_modCtx_same hd (fun c => { c with part := 0, visited := [] }) fun _ hid => hid
  have hadv := State.ctx_modCtx_same hwhole (fun c => c.advance i.issuing i.next) fun c hid => (c.advance_id ..).trans hid
  obtain ⟨h, hafter⟩ := State.afterIssue_ctx_eq cycles (i.lanes.length + (i.issuing.filter (bitOf i.c.part)).length)
    (i.h.yld || op == 0x06) hadv
  obtain ⟨till, hheld⟩ := State.hold_ctx_eq hafter
  exact ⟨_, hheld, Ctx.advance_scal ..⟩

end Sys2Proof.Machine
end

section
/-! PROOFS. The Meridian rules stated whole: FAILED (R310), and reset and the first sync (R311). -/

namespace Sys2Proof.Machine

/-! ## FAILED -/

/-- Whatever a frozen unit is told, its pair and its STATE stay (R310). -/
theorem frozen_stays {s : State} {lo : Nat} (h : s.mer.Frozen lo) (k a b x : Nat) (usable : Bool) :
    ∀ e ∈ [Instr.meridianTick, .timingFlit k a b, .referenceInput true x, .oscillatorDisagreement, .standbyTakeover usable],
      ∃ t, exec e s = .next t ∧ t.mer.Frozen lo := by
  have hstate : s.mer.state = 3 := h.1
  simp only [List.forall_mem_cons]
  refine ⟨?tick, ?flit, ?reference, ?disagreement, ?takeover, by simp⟩
  case tick =>
    obtain ⟨slo, shi, he⟩ := Meridian.tick_eq (m := s.mer) (.inl hstate)
    exact ⟨{ s with mer := s.mer.tick }, rfl, he ▸ h⟩
  case flit =>
    by_cases hup : ∃ p, s.fabric.ports[k]? = some p ∧ (p.state = 2 ∨ p.state = 3)
    · obtain ⟨p, hp, hup⟩ := hup
      obtain ⟨last, heard, he⟩ := exec_timingFlit a b hp hup
      exact ⟨_, he, h.standby_sync ..⟩
    · exact ⟨s, exec_timingFlit_down a b fun p hp hps => hup ⟨p, hp, hps⟩, h⟩
  case reference =>
    by_cases href : s.mer.ref = 0
    · exact ⟨s, exec_referenceInput_none x href, h⟩
    · exact ⟨_, exec_referenceInput x href, h.standby_sync ..⟩
  case disagreement => exact ⟨{ s with mer := s.mer.fail 3 }, rfl, (Meridian.fail_of_failed 3 hstate).symm ▸ h⟩
  case takeover => exact ⟨_, exec_standbyTakeover_failed usable hstate, h⟩

/-- A legal TIME names a pair of scalars that its context has (R37, R350). -/
theorem legalF_time_scalars {f : Fields} {c : Ctx} {l : Launch} {r : BitVec 6} (h : legalF 0xD0 f c l = true)
    (hr : f.d = .s r) : r.toNat + 1 < c.scal.length := by
  have hwide : ((sig 0xD0 { f with d := .s 2 }).d && !(sig 0xD0 { f with d := .s 1 }).d) = true := rfl
  simp only [legalF, Bool.and_eq_true, and_assoc] at h
  obtain ⟨hd, -⟩ := h
  rw [hwide, hr] at hd
  exact of_decide_eq_true hd

/-- The context as TIME leaves it, its die's copy being [lo, hi] (R350). -/
def Ctx.toldTime (c : Ctx) (r lo hi : Nat) : Ctx :=
  { (c.writeScal r (BitVec.ofNat 64 (max lo c.floorLo))).writeScal (r + 1) (BitVec.ofNat 64 (max hi c.floorHi)) with
    floorLo := max lo c.floorLo, floorHi := max hi c.floorHi }

theorem timeBody_eq {f : Fields} {r : BitVec 6} (i : Iss) (s : State) (hr : f.d = .s r) :
    timeBody f i s = .done (s.modCtx i.c.id fun c => c.toldTime r.toNat s.mer.dielo s.mer.diehi) := by
  simp only [timeBody, hr]; rfl

theorem Ctx.toldTime_scal {c : Ctx} {r : Nat} (lo hi : Nat) (h : r + 1 < c.scal.length) :
    (c.toldTime r lo hi).scal[r]? = some (BitVec.ofNat 64 (max lo c.floorLo)) ∧
      (c.toldTime r lo hi).scal[r + 1]? = some (BitVec.ofNat 64 (max hi c.floorHi)) := by
  simp only [Ctx.toldTime, Ctx.writeScal]
  constructor
  · rw [List.getElem?_set_ne (by omega), List.getElem?_set_self (by omega)]
  · rw [List.getElem?_set_self (by simpa using h)]

/-- TIME gives the die copy, raised to the time floor of the context (R350). -/
theorem exec_time {f : Fields} {s : State} {i : Iss} {r : BitVec 6} (hi : issueOf 0xD0 f s = some i) (hr : f.d = .s r) :
    ∃ t d, exec (.time f) s = .next t ∧ t.ctx i.c.id = some d ∧
      d.scal[r.toNat]? = some (BitVec.ofNat 64 (max s.mer.dielo i.c.floorLo)) ∧
      d.scal[r.toNat + 1]? = some (BitVec.ofNat 64 (max s.mer.diehi i.c.floorHi)) := by
  obtain ⟨hmer, c, l, d, hlegal, hd, hdc, hic⟩ := issueOn_floors hi
  have hfloors : d.floors = i.c.floors := hdc.trans hic.symm
  have hlo : d.floorLo = i.c.floorLo := congrArg (·.2.1) hfloors
  have hhi : d.floorHi = i.c.floorHi := congrArg (·.2.2) hfloors
  have hlen : r.toNat + 1 < d.scal.length := by
    rw [show d.scal.length = c.scal.length from congrArg (·.1) hdc]
    exact legalF_time_scalars (Bool.and_eq_true_iff.mp hlegal).2 hr
  have htold := State.ctx_modCtx_same hd (fun c => c.toldTime r.toNat i.s.mer.dielo i.s.mer.diehi) fun _ hid => hid
  obtain ⟨e, he, hes⟩ := finish_done_scal 0xD0 (i.cycles 0xD0 f) htold
  refine ⟨_, e, issueF_ends hi (timeBody_eq i i.s hr), he, ?_⟩
  rw [hes, ← hmer, ← hlo, ← hhi]
  exact Ctx.toldTime_scal _ _ hlen

/-- Settles O56: every cause fails a unit into the frozen pair, no event moves that pair, and the die copy that TIME reads is
the pair itself. -/
theorem failedKeepsTime : Obligations.FailedKeepsTime := by
  refine ⟨?disagreement, ?flit, ?reference, ?takeover, ?stays, ?time⟩
  case disagreement => exact fun s h => ⟨{ s with mer := s.mer.fail 3 }, rfl, Meridian.fail_frozen 3 h⟩
  case flit =>
    intro s k lo hi p h hp hup hempty
    obtain ⟨last, heard, he⟩ := exec_timingFlit lo hi hp hup
    exact ⟨_, he, Meridian.standby_sync_frozen 1 h hempty⟩
  case reference =>
    exact fun s x h href hempty => ⟨_, exec_referenceInput x href, Meridian.standby_sync_frozen 2 h hempty⟩
  case takeover =>
    exact fun s h hunit => ⟨_, exec_standbyTakeover_unusable h hunit,
      Meridian.fail_frozen (m := { s.mer with unit := 1 }) 4 h⟩
  case stays => exact fun s lo k a b x usable h => frozen_stays h k a b x usable
  case time =>
    intro f s i lo r hi ⟨_, _, _, hdielo, hdiehi⟩ hr hfloor
    obtain ⟨t, d, he, hd, hlow, hhigh⟩ := exec_time hi hr
    have htop : max s.mer.diehi i.c.floorHi = 2 ^ 64 - 1 := by omega
    exact ⟨t, d, he, hd, hdielo ▸ hlow, by rw [hhigh, htop]; rfl⟩

/-! ## Reset and the first sync -/

/-- Settles O57: no tick advances the pair of the reset, and the first bounds replace it. -/
theorem meridianFromReset : Obligations.MeridianFromReset := by
  refine ⟨⟨rfl, rfl, rfl, rfl⟩, ?tick, ?flit, ?reference⟩
  case tick =>
    intro s h
    obtain ⟨slo, shi, he⟩ := Meridian.tick_eq (m := s.mer) (.inr h.1)
    exact ⟨{ s with mer := s.mer.tick }, rfl, he ▸ h⟩
  case flit =>
    intro s k lo hi p h hp hup hle
    obtain ⟨last, heard, he⟩ := exec_timingFlit lo hi hp hup
    exact ⟨_, he, Meridian.Unsynced.standby_sync h 1 hle⟩
  case reference =>
    exact fun s x h href hle => ⟨_, exec_referenceInput x href, Meridian.Unsynced.standby_sync h 2 hle⟩

end Sys2Proof.Machine
end
